-- ==== Sys2Proof/Word.lean ====
section
/-! DEFINITION. The word and byte types of the module, and nothing else. -/
namespace Sys2Proof

/-- A 64-bit register or descriptor word (00 R7, R8). -/
abbrev Word := BitVec 64

/-- One byte of memory or of a message payload, stored little-endian (00 R5). -/
abbrev Byte := BitVec 8

/-- One 32-bit vector lane (04 R129). -/
abbrev Lane := BitVec 32

end Sys2Proof
end

