-- ==== Sys2Proof/Syntax.lean ====
section
/-! DEFINITION. The commands of the module: one constructor per row of spec/opcode_table.json, with the
facts that reach the module from outside as operands. -/
namespace Sys2Proof

/-- What a check saw (R113, R157, R300): how often it failed in a row (0 passes, 1 fails once, 2 or more
fails again on the replay or retry), its kind, the lane, node or cell, the K block or the step of the instruction, and
further failures of the same pass by kind, cell and K block. -/
structure Chk where
  fails : Nat := 0
  kind  : Nat := 1
  unit  : Nat := 0
  block : Nat := 0
  also  : List (Nat × Nat × Nat) := []
  deriving DecidableEq, Repr

/-- A save (R321): the context, and what the checks of the passes that drain for it see, in order. -/
structure SaveOp where
  ctx  : Fin 16
  chks : List Chk
  deriving DecidableEq, Repr

/-- One VE or SFE instruction (R133): the core, the context that issues it, its word, and what the
checker lanes saw (R157). -/
structure VeOp where
  core : Fin 128
  ctx  : Fin 16
  word : Word
  chk  : Chk := {}
  deriving DecidableEq, Repr

/-- One descriptor or control word of a program (R352): eight words for a descriptor, two for a control
word. -/
structure Desc where
  core  : Fin 128
  ctx   : Fin 16
  words : List Word
  deriving DecidableEq, Repr

/-- Who writes a register through device space (R465, R500). -/
inductive Sender where
  | owner
  | masthead
  deriving DecidableEq, Repr

/-- What the boot ROM reads from the fuses, straps and flash checks (R543, R553): which slots verify,
their VERSION, SVN and digest, the blown anti-rollback bits and the straps. -/
structure Fuses where
  validA   : Bool
  validB   : Bool
  versionA : Nat := 0
  versionB : Nat := 0
  svnA     : Nat := 0
  svnB     : Nat := 0
  digestA  : Nat := 0
  digestB  : Nat := 0
  slotId   : Nat := 0
  deriving DecidableEq, Repr

/-- Outcome of the power-up self-test (R493, R495): failing core slices, stack slices and lanes, and
whether a chip block failed. -/
structure SelfTest where
  cores     : List (Fin 128) := []
  chipBlock : Bool := false
  stackUnits : List (Fin 8) := []
  stayLanes : List (Fin 96) := []
  hostLanes : List (Fin 32) := []
  deriving DecidableEq, Repr

/-- The causes of a module-class event (R475). -/
inductive ModuleCause where
  | meshHeader | walkerTables | collectiveControl | watchdog | junction | regulator | leak
  deriving DecidableEq, Repr

/-- One 100 µs temperature sample (R541): hottest junction, the hottest die of each stack, coolant. -/
structure Temps where
  junction : Int
  stackUnits : List Int
  inlet    : Int
  outlet   : Int
  deriving DecidableEq, Repr

/-- One traveller of either direction in a step's schedule (R183): its layer, whether return pages go with it, and at each
ring step how many descriptors of the module read its buffer (R179). -/
structure Travel where
  layer : Nat := 0
  back  : Bool := false
  reads : List Nat := []
  deriving DecidableEq, Repr

/-- What the sail plans state of long-sequence attention and no field of an image holds: the segment length S (R171), the
head dimension (R180), a module's query and KV heads (R186), the heads that name the pages of the up and the down direction
(R175), the run-time shape slot and the value in it that hold the sequence's length, slot 0 for the planned one (R187), the
travellers that a step circulates, one accumulation after the other, and the query heads of the whole model where attention
dropout is enabled, else 0 (R188). -/
structure SeqPlan where
  seg     : Nat := 256
  dim     : Nat := 128
  qHeads  : Nat := 1
  kvHeads : Nat := 1
  up      : List Nat := []
  down    : List Nat := []
  slot    : Nat := 0
  value   : Nat := 0
  travels : List Travel := []
  dropHeads : Nat := 0
  deriving DecidableEq, Repr

/-- What a load brings beside the words of its image: the first check of R364 that fails and that those words do not show
(a rank that two modules share, R171), as check number, code of R368, section and item, `none` when
they all pass; and what its sail plans state of long-sequence attention. -/
structure LoadVerdict where
  failing : Option (Nat × Nat × Nat × Nat) := none
  seq     : SeqPlan := {}
  deriving DecidableEq, Repr

/-- What the job-start exchanges report (R45, R343, R386, R508): the digests of the other modules, per stay the module,
stay, dimension and direction that its far end states, the STATUS with which another module refuses the start over its own
stays, and at a module that joins a halted job the top masthead's step
and whether every other module is HALTED. -/
structure JobCheck where
  digests      : List Nat
  peers        : List (Nat × Nat × Nat × Nat)
  refused      : Option Nat := none
  join         : Option (Word × Bool) := none
  deriving DecidableEq, Repr

/-- The combined phase 0 words of an operation (R390, R391, R397): AND and OR of the signatures, the
status word, the run-time counts (from member i to member j, row-major; one per member where the table has one per
member; from member to expert for MoE), the exponent vector, and for a scalar operation every member's words in
ascending rank and the numbers of those that are poisoned at some member. -/
structure Phase0 where
  sigAnd    : Nat
  sigOr     : Nat
  status    : Nat
  counts    : List Nat := []
  exponents : List Nat := []
  scalars   : List (List Word) := []
  poison    : List Nat := []
  deriving DecidableEq, Repr

/-- A chunk message (R400): the operation it reached, its four header words, payload bytes with the special mask
behind them, poison per 8-B word, whether its CRC matches, and what the reduction pipes' residue check saw (R399). -/
structure ChunkMsg where
  op      : Nat
  header  : List Word
  payload : List Byte
  poison  : List Bool := []
  crcOk   : Bool
  chk     : Chk := {}
  deriving DecidableEq, Repr

/-- A received flit (R374): header word, payload, poison mask, whether CRC matches, and the codewords that ended on the
stay's lanes since the flit before it, each with its lane and its symbols (R372). -/
structure Flit where
  header  : Word
  payload : List Word
  poison  : BitVec 32
  crcOk   : Bool
  words   : List (Fin 8 × List Nat) := []
  deriving DecidableEq, Repr

/-- A control slot (R376). -/
structure ControlSlot where
  ack        : Nat
  nak        : Option Nat
  lanes      : BitVec 8
  laneChange : Bool
  credits    : List Nat
  crcOk      : Bool
  deriving DecidableEq, Repr

/-- Which page of a direction (R181): header words 0 and 3 name it. -/
structure PageId where
  kind  : Nat
  hop   : Nat
  head  : Nat
  page  : Nat
  deriving DecidableEq, Repr

/-- A traveller page (R180, R181): the words of its header flit, of which those behind the fifth may be left out where they
are zero, its payload, poison per 64-B codeword, whether its CRC matches, and whether its sender still holds a copy. -/
structure Page where
  header  : List Word
  payload : List Byte
  poison  : List Bool := []
  crcOk   : Bool
  senderHolds : Bool := true
  deriving DecidableEq, Repr

/-- A check instruction at the step boundary that mismatches (R479). -/
structure CheckFail where
  core : Fin 128
  sfe  : Bool
  chk  : Chk
  deriving DecidableEq, Repr

/-- A close notice (R432) as it reaches a masthead: the module number of its sender, the notice's words and, from a
group masthead whose aggregate it is, the modules missing in it (R433). -/
structure Notice where
  member  : Nat
  step    : Word
  word1   : Word
  cursor  : Word
  missing : List Nat := []
  deriving DecidableEq, Repr

/-- The outer part of a halyard message (R461): the session, the sequence number, the tag that tells
two datagrams apart, whether the datagram is good (tag, reserved fields), and the port it arrived on. -/
structure Env where
  session : Nat
  seq     : Nat
  tag     : Nat
  good    : Bool := true
  port    : Fin 8 := 0
  deriving DecidableEq, Repr

/-- HELLO (R462): requested level (3 stands for M), what the certificate chain shows, the module
number of a masthead, and the port it arrived on. -/
structure Hello where
  level      : Nat
  chainOk    : Bool
  ownerSigned : Bool := false
  readOnly   : Bool := false
  silileRoot : Bool := false
  module     : Nat := 0
  port       : Fin 8 := 0
  deriving DecidableEq, Repr

/-- AUTH (R462, R463): the session, whether its signature verifies and, for a masthead, whether the
attested job digest equals this module's; and the port it arrived on. -/
structure Auth where
  session  : Nat
  sigOk    : Bool
  digestOk : Bool := true
  port     : Fin 8 := 0
  deriving DecidableEq, Repr

/-- A rig image (R335): header words, directory entries of four words, the words of every section in
directory order, the words between these parts in address order (zeros where the list ends), the words of the signature
trailer (R337). -/
structure ImageFile where
  header   : List Word
  dir      : List (List Word)
  sections : List (List Word)
  fill     : List Word := []
  trailer  : List Word := []
  deriving DecidableEq, Repr

/-- The job state block (R419): the step record as words, the router bias by index. -/
structure JobBlock where
  step      : Word := 0
  seed      : Word := 0
  cursor    : Word := 0
  accum     : Nat := 0
  lossScale : Nat := 0
  goodSteps : Nat := 0
  digest    : Nat := 0
  record    : List Word := []
  bias      : List (Nat × Nat) := []
  deriving DecidableEq, Repr

/-- A fault ledger entry (R487) as it travels, before SEQ and PREV. -/
structure LedgerItem where
  seq      : Nat := 0
  time     : Nat := 0
  step     : Word := 0
  kind     : Nat := 0
  cls      : Nat := 0
  injected : Bool := false
  unitType : Nat := 0
  unit     : Nat := 0
  ctx      : Nat := 0
  count    : Nat := 1
  detail0  : Word := 0
  detail1  : Word := 0
  boot     : Nat := 0
  prev     : Nat := 0
  deriving DecidableEq, Repr

/-- What an EVENT carries to a masthead (R515, R516): a ledger entry or a telemetry record. -/
inductive EventPayload where
  | entry (member : Nat) (e : LedgerItem)
  | record (member : Nat) (words : List Word)
  deriving DecidableEq, Repr

/-- One core's result of a plumb unit (R499): passed, failed under stress only, failed at nominal, or
could not be saved or restored (and then whether its memory BIST passes, R498). -/
inductive PlumbResult where
  | pass | stressOnly | nominal | lost (bistOk : Bool)
  deriving DecidableEq, Repr

/-- The end of a 30 ms plumb unit (R497): results of the cores of the group under test. -/
structure PlumbUnit where
  results : List (Fin 128 × PlumbResult)
  deriving DecidableEq, Repr

/-- A calibration entry (R546). -/
structure CalEntry where
  typ    : Nat
  index  : Nat
  writer : Nat
  time   : Nat
  value  : Nat
  deriving DecidableEq, Repr

/-- A firmware image as FW_STAGE reads it (R553, R555), or a transfer failure. -/
structure FwImage where
  transferOk : Bool
  size       : Nat
  formatOk   : Bool
  keyOk      : Bool
  version    : Nat
  svn        : Nat
  digest     : Nat := 0
  deriving DecidableEq, Repr

/-- What a telemetry interval samples (R515): average and peak input power, input voltage. -/
structure TelemSample where
  avgW  : Nat
  peakW : Nat
  vin   : Nat
  deriving DecidableEq, Repr

/-- A remote read request at its owner (R280): the requesting module, the buffer and range. -/
structure RemoteReq where
  module : Nat
  va     : Nat
  length : Nat
  deriving DecidableEq, Repr

/-- A remote read response (R280, R281). -/
structure RemoteResp where
  queue   : Fin 8
  refused : Bool
  noRoute : Bool := false
  data    : List Byte
  poison  : List Bool := []
  crcOk   : Bool
  deriving DecidableEq, Repr

/-- The commands. -/
inductive Instr where
  /-- POWER_ON (R543). -/
  | powerOn (inRange : Bool)
  /-- RAILS_GOOD (R543). -/
  | railsGood (fuses : Fuses)
  /-- FIRMWARE_VERIFIED (R37). -/
  | firmwareVerified
  /-- SELFTEST_DONE (R495). -/
  | selftestDone (r : SelfTest)
  /-- POWER_OFF (R544). -/
  | powerOff (inputHolds : Bool)
  /-- INPUT_OUT_OF_RANGE (R538). -/
  | inputOutOfRange (high : Bool)
  /-- MOD_RESET (R37). -/
  | modReset
  /-- MODULE_CLASS_EVENT (R475). -/
  | moduleClassEvent (cause : ModuleCause)
  /-- FW_WATCHDOG_EXPIRY (R554). -/
  | fwWatchdogExpiry
  /-- LEAK_DETECTED (R542). -/
  | leakDetected
  /-- THERMAL_SAMPLE (R542). -/
  | thermalSample (t : Temps)
  /-- REGULATOR_PHASE_FAULT (R477). -/
  | regulatorPhaseFault (rail : Fin 16) (phase : Fin 6)
  /-- POWER_LIMITER_SAMPLE (R527). -/
  | powerLimiterSample (milliamps millivolts : Nat)
  /-- REEF_LEVEL_CHANGE (R526). -/
  | reefLevelChange (core : Fin 128)
  /-- RESET_REQ (R33). -/
  | resetReq
  /-- UNLOAD_REQ (R33). -/
  | unloadReq
  /-- RESUME_REQ (R33). -/
  | resumeReq
  /-- HALT_REQ (R33). -/
  | haltReq
  /-- CORE_FENCE_WRITE (R35). -/
  | coreFenceWrite (upper : Bool) (value : Word)
  /-- REGISTER_WRITE (R10). -/
  | registerWrite (src : Sender) (addr : Nat) (value : Word)
  /-- TIME_OFFSET_WRITE (R530). -/
  | timeOffsetWrite (value : Word)
  /-- REEF_CTL_WRITE (R526). -/
  | reefCtlWrite (value : Word)
  /-- INJ_MEM (R505). -/
  | injMem (value : Word)
  /-- INJ_SRAM (R505). -/
  | injSram (value : Word)
  /-- INJ_LINK (R506). -/
  | injLink (value : Word)
  /-- INJ_CHECK (R506). -/
  | injCheck (value : Word)
  /-- MATRIX_PASS (R93). -/
  | matrixPass (d : Desc)
  /-- PREEMPT_SAVE (R321). -/
  | preemptSave (core : Fin 128) (save : SaveOp)
  /-- PRELOAD_SHIFT (R108). -/
  | preloadShift (core : Fin 128)
  /-- PASS_STREAM_START (R96). -/
  | passStreamStart (core : Fin 128)
  /-- PASS_DRAIN (R97). -/
  | passDrain (core : Fin 128) (chk : Chk)
  /-- PASS_REPLAY (R115). -/
  | passReplay (core : Fin 128)
  /-- PASS_RETIRE (R95). -/
  | passRetire (core : Fin 128)
  /-- ADD (R135). -/
  | add (v : VeOp)
  /-- SUB (R135). -/
  | sub (v : VeOp)
  /-- MUL (R135). -/
  | mul (v : VeOp)
  /-- FMA (R135). -/
  | fma (v : VeOp)
  /-- FMS (R135). -/
  | fms (v : VeOp)
  /-- DIV (R135). -/
  | div (v : VeOp)
  /-- SQRT (R135). -/
  | sqrt (v : VeOp)
  /-- MIN (R136). -/
  | min (v : VeOp)
  /-- MAX (R136). -/
  | max (v : VeOp)
  /-- ABS (R136). -/
  | abs (v : VeOp)
  /-- NEG (R136). -/
  | neg (v : VeOp)
  /-- SCALB (R135). -/
  | scalb (v : VeOp)
  /-- CMP (R135). -/
  | cmp (v : VeOp)
  /-- SEL (R135). -/
  | sel (v : VeOp)
  /-- CVT (R132). -/
  | cvt (v : VeOp)
  /-- RINT (R135). -/
  | rint (v : VeOp)
  /-- IADD (R135). -/
  | iadd (v : VeOp)
  /-- ISUB (R135). -/
  | isub (v : VeOp)
  /-- IMUL (R135). -/
  | imul (v : VeOp)
  /-- AND (R135). -/
  | and (v : VeOp)
  /-- OR (R135). -/
  | or (v : VeOp)
  /-- XOR (R135). -/
  | xor (v : VeOp)
  /-- SHL (R135). -/
  | shl (v : VeOp)
  /-- SHR (R135). -/
  | shr (v : VeOp)
  /-- IMIN (R135). -/
  | imin (v : VeOp)
  /-- IMAX (R135). -/
  | imax (v : VeOp)
  /-- LDQ (R135). -/
  | ldq (v : VeOp)
  /-- STQ (R135). -/
  | stq (v : VeOp)
  /-- BCAST (R135). -/
  | bcast (v : VeOp)
  /-- MOV (R135). -/
  | mov (v : VeOp)
  /-- RSVEC (R135). -/
  | rsvec (v : VeOp)
  /-- RSUM (R138). -/
  | rsum (v : VeOp)
  /-- RMAX (R138). -/
  | rmax (v : VeOp)
  /-- RMIN (R138). -/
  | rmin (v : VeOp)
  /-- SSUM (R139). -/
  | ssum (v : VeOp)
  /-- SMAX (R139). -/
  | smax (v : VeOp)
  /-- NSTAT (R140). -/
  | nstat (v : VeOp)
  /-- SMXSTEP (R141). -/
  | smxstep (v : VeOp)
  /-- SMCVT (R142). -/
  | smcvt (v : VeOp)
  /-- EXP2 (R149). -/
  | exp2 (v : VeOp)
  /-- LOG2 (R149). -/
  | log2 (v : VeOp)
  /-- RCP (R149). -/
  | rcp (v : VeOp)
  /-- RSQRT (R149). -/
  | rsqrt (v : VeOp)
  /-- SQRT_S (R149). -/
  | sqrtS (v : VeOp)
  /-- TANH (R149). -/
  | tanh (v : VeOp)
  /-- LOGISTIC (R149). -/
  | logistic (v : VeOp)
  /-- UTAB (R154). -/
  | utab (v : VeOp)
  /-- TABLE_LOAD (R155). -/
  | tableLoad (v : VeOp)
  /-- TABLE_SWAP (R155). -/
  | tableSwap (core : Fin 128) (slot : Fin 4)
  /-- EXP (R156). -/
  | exp (v : VeOp)
  /-- LN (R156). -/
  | ln (v : VeOp)
  /-- POW (R156). -/
  | pow (v : VeOp)
  /-- GELU_TANH (R156). -/
  | geluTanh (v : VeOp)
  /-- GELU_ERF (R156). -/
  | geluErf (v : VeOp)
  /-- SILU (R156). -/
  | silu (v : VeOp)
  /-- SOFTPLUS (R156). -/
  | softplus (v : VeOp)
  /-- ERF (R156). -/
  | erf (v : VeOp)
  /-- SMALL_LU (R144). -/
  | smallLu (d : Desc)
  /-- SMALL_CHOLESKY (R144). -/
  | smallCholesky (d : Desc)
  /-- LOWER_SOLVE (R144). -/
  | lowerSolve (d : Desc)
  /-- UPPER_SOLVE (R144). -/
  | upperSolve (d : Desc)
  /-- UNIT_LOWER_SOLVE (R144). -/
  | unitLowerSolve (d : Desc)
  /-- ALLOC (R198). -/
  | alloc (d : Desc)
  /-- SHARE (R198). -/
  | share (d : Desc)
  /-- RELEASE (R198). -/
  | release (d : Desc)
  /-- LOAD (R246). -/
  | load (d : Desc)
  /-- STORE (R246). -/
  | store (d : Desc)
  /-- FILL_FIFO (R253). -/
  | fillFifo (d : Desc)
  /-- DRAIN_FIFO (R253). -/
  | drainFifo (d : Desc)
  /-- GATHER (R259). -/
  | gather (d : Desc)
  /-- ATOMIC_ADD (R260). -/
  | atomicAdd (d : Desc)
  /-- ATOMIC_MIN (R260). -/
  | atomicMin (d : Desc)
  /-- ATOMIC_MAX (R260). -/
  | atomicMax (d : Desc)
  /-- ATOMIC_AND (R260). -/
  | atomicAnd (d : Desc)
  /-- ATOMIC_OR (R260). -/
  | atomicOr (d : Desc)
  /-- ATOMIC_XOR (R260). -/
  | atomicXor (d : Desc)
  /-- HOIST (R265). -/
  | hoist (d : Desc)
  /-- HOIST_EXPERT (R273). -/
  | hoistExpert (d : Desc)
  /-- HOIST_LANDED (R266). -/
  | hoistLanded (core : Fin 128) (hoist : Nat)
  /-- FURL (R276). -/
  | furl (d : Desc)
  /-- UNFURL (R276). -/
  | unfurl (d : Desc)
  /-- DEEP_FURL (R277). -/
  | deepFurl (d : Desc)
  /-- DEEP_UNFURL (R277). -/
  | deepUnfurl (d : Desc)
  /-- REMOTE_READ (R280). -/
  | remoteRead (d : Desc)
  /-- AE_DESCRIPTOR_RETIRE (R247). -/
  | aeDescriptorRetire (core : Fin 128) (queue : Fin 8)
  /-- RUN_AHEAD_PREFETCH (R256). -/
  | runAheadPrefetch (d : Desc)
  /-- STREAM_PREFETCH (R258). -/
  | streamPrefetch (core : Fin 128) (queue : Fin 8) (va : Nat)
  /-- FENCED_WRITE_RELEASE (R254). -/
  | fencedWriteRelease (core : Fin 128) (queue : Fin 8)
  /-- TRANSPOSE (R296). -/
  | transpose (d : Desc)
  /-- BITREV (R296). -/
  | bitrev (d : Desc)
  /-- STRIDE (R296). -/
  | stride (d : Desc)
  /-- LAYOUT_COPY (R296). -/
  | layoutCopy (d : Desc)
  /-- WAIT (R353). -/
  | wait (d : Desc)
  /-- WAIT_SATISFIED (R353). -/
  | waitSatisfied (core : Fin 128) (ctx : Fin 16)
  /-- SIGNAL (R353). -/
  | signal (d : Desc)
  /-- SIGNAL_INCREMENT (R353). -/
  | signalIncrement (core : Fin 128) (ctx : Fin 16)
  /-- LOOP (R354). -/
  | loop (d : Desc)
  /-- ENDLOOP (R353). -/
  | endloop (d : Desc)
  /-- PHASE_END (R353). -/
  | phaseEnd (d : Desc)
  /-- NOP (R353). -/
  | nop (d : Desc)
  /-- PHASE_COMPLETE (R356). -/
  | phaseComplete
  /-- RIG_LOAD_COMPLETE (R365). -/
  | rigLoadComplete (v : LoadVerdict)
  /-- JOB_START_CHECK (R386). -/
  | jobStartCheck (r : JobCheck)
  /-- WALK_COMPLETE (R308). -/
  | walkComplete (n : Nat)
  /-- COW_SERVICE_DONE (R201). -/
  | cowServiceDone (n : Nat)
  /-- INVALIDATION_COMPLETE (R312). -/
  | invalidationComplete (n : Nat)
  /-- PARK_LIMIT_EXPIRY (R317). -/
  | parkLimitExpiry (n : Nat)
  /-- CTX_PREEMPT (R333). -/
  | ctxPreempt (ctx : Fin 16)
  /-- CTX_RESUME (R333). -/
  | ctxResume (ctx : Fin 16)
  /-- CTX_RETRY (R316). -/
  | ctxRetry (ctx : Fin 16)
  /-- CTX_END (R328). -/
  | ctxEnd (ctx : Fin 16)
  /-- CONTEXT_SAVED (R321). -/
  | contextSaved (ctx : Fin 16)
  /-- CONTEXT_RESTORED (R323). -/
  | contextRestored (ctx : Fin 16)
  /-- BUBBLE_WINDOW_OPEN (R324). -/
  | bubbleWindowOpen (window : Nat)
  /-- BUBBLE_WINDOW_CLOSE (R327). -/
  | bubbleWindowClose (window : Nat)
  /-- FILLER_CREDIT_REFILL (R326). -/
  | fillerCreditRefill
  /-- BARRIER (R392). -/
  | barrier (op : Nat)
  /-- SCALAR_ALLREDUCE (R394). -/
  | scalarAllreduce (op : Nat)
  /-- ALL_REDUCE (R395). -/
  | allReduce (op : Nat)
  /-- REDUCE_SCATTER (R395). -/
  | reduceScatter (op : Nat)
  /-- ALL_GATHER (R395). -/
  | allGather (op : Nat)
  /-- BROADCAST (R395). -/
  | broadcast (op : Nat)
  /-- REDUCE (R395). -/
  | reduce (op : Nat)
  /-- ALL_TO_ALL (R395). -/
  | allToAll (op : Nat)
  /-- MOE_DISPATCH (R406). -/
  | moeDispatch (op : Nat)
  /-- MOE_COMBINE (R408). -/
  | moeCombine (op : Nat)
  /-- SEND (R395). -/
  | send (op : Nat)
  /-- RECV (R395). -/
  | recv (op : Nat)
  /-- PHASE0_COMPLETE (R391). -/
  | phase0Complete (op : Nat) (r : Phase0)
  /-- CHUNK_RECEIVED (R401). -/
  | chunkReceived (m : ChunkMsg)
  /-- RESEND_REQUEST (R403). -/
  | resendRequest (op chunk dest : Nat)
  /-- COLLECTIVE_OP_COMPLETE (R402). -/
  | collectiveOpComplete (op : Nat)
  /-- FLIT_RECEIVED (R377). -/
  | flitReceived (stay : Fin 12) (f : Flit)
  /-- CONTROL_SLOT_RECEIVED (R376). -/
  | controlSlotReceived (stay : Fin 12) (c : ControlSlot)
  /-- LANE_DROP (R379). -/
  | laneDrop (stay : Fin 12) (lane : Fin 8)
  /-- STAY_DOWN (R381). -/
  | stayDown (stay : Fin 12)
  /-- PEER_SILENCE_TIMEOUT (R381). -/
  | peerSilenceTimeout (stay : Fin 12)
  /-- TRAVELLER_PAGE_SEND (R179). -/
  | travellerPageSend (down : Bool)
  /-- TRAVELLER_PAGE_RECEIVED (R182). -/
  | travellerPageReceived (down : Bool) (p : Page)
  /-- TRAVELLER_PAGE_ACK (R179). -/
  | travellerPageAck (down : Bool) (page : PageId)
  /-- PAGE_RESEND_REQUEST (R182). -/
  | pageResendRequest (down : Bool) (page : PageId)
  /-- READ (R216). -/
  | read (codeword : Fin 8589934592) (source : Fin 4)
  /-- WRITE (R217). -/
  | write (codeword : Fin 8589934592) (data : List Byte) (mask : BitVec 64) (poison : Bool)
  /-- STACK_COPY (R234). -/
  | stackCopy (src dst : Fin 8388608) (units : Nat)
  /-- FILL_ZERO (R234). -/
  | fillZero (dst : Fin 8388608) (units : Nat)
  /-- LEDGER (R234). -/
  | ledger (stack : Fin 8) (frame : Fin 65536) (write : Option (BitVec 32))
  /-- FURL_PACK (R235). -/
  | furlPack (granule : Fin 134217728) (sizeAt : Nat) (data : List Byte)
  /-- FURL_UNPACK (R236). -/
  | furlUnpack (granule : Fin 134217728) (sizeAt : Nat)
  /-- RAW_READ (R234). -/
  | rawRead (granule : Fin 134217728) (sizeAt : Nat)
  /-- RAW_WRITE (R234). -/
  | rawWrite (granule : Fin 134217728) (sizeAt : Nat) (size : Fin 16) (units : List Byte)
  /-- SCRUB (R222). -/
  | scrub (codeword : Fin 8589934592)
  /-- REFRESH (R221). -/
  | refresh (stack : Fin 8) (channel : Fin 32) (bank : Fin 64) (waiting : Bool)
  /-- GATHER_WINDOW_ISSUE (R233). -/
  | gatherWindowIssue (stack : Fin 8)
  /-- STEP_BOUNDARY (R432). -/
  | stepBoundary (checks : List CheckFail)
  /-- RELEASE_NOTICE (R431): this module's own, or at a masthead the one that module `sender.1` sent for step
  `sender.2`. -/
  | releaseNotice (sender : Option (Nat × Word))
  /-- CLOSE_NOTICE (R433). -/
  | closeNotice (n : Notice)
  /-- CLOSE_WAIT_EXPIRY (R433). -/
  | closeWaitExpiry
  /-- HELLO (R462). -/
  | hello (h : Hello)
  /-- AUTH (R462). -/
  | auth (a : Auth)
  /-- HANDSHAKE_TIMEOUT (R462). -/
  | handshakeTimeout (session : Nat)
  /-- CLOSE (R465). -/
  | close (e : Env)
  /-- KEEPALIVE (R463). -/
  | keepalive (e : Env)
  /-- SESSION_IDLE_TIMEOUT (R463). -/
  | sessionIdleTimeout (session : Nat)
  /-- SESSION_LIMIT_EXPIRY (R462). -/
  | sessionLimitExpiry (session : Nat)
  /-- IDENTITY (R465). -/
  | identity (e : Env)
  /-- ATTEST (R552). -/
  | attest (e : Env) (nonce : Nat) (signature : Nat)
  /-- REG_READ (R465). -/
  | regRead (e : Env) (addrs : List Nat)
  /-- REG_WRITE (R465). -/
  | regWrite (e : Env) (pairs : List (Nat × Word))
  /-- RIG_LOAD (R363). -/
  | rigLoad (e : Env) (image : ImageFile) (store : Bool)
  /-- RIG_LOAD_CACHED (R363). -/
  | rigLoadCached (e : Env) (digest : Nat)
  /-- RIG_CACHE_LIST (R465). -/
  | rigCacheList (e : Env)
  /-- RIG_CACHE_DELETE (R465). -/
  | rigCacheDelete (e : Env) (digest : Nat)
  /-- JOB_START (R508). -/
  | jobStart (e : Env) (restored : Option JobBlock)
  /-- JOB_HALT (R465). -/
  | jobHalt (e : Env)
  /-- JOB_RESUME (R465). -/
  | jobResume (e : Env)
  /-- UNLOAD (R465). -/
  | unload (e : Env)
  /-- RESET (R465). -/
  | reset (e : Env)
  /-- SNAPSHOT (R420). -/
  | snapshot (e : Env) (qp : Fin 16) (rkey addr : Nat)
  /-- PUBLISHED (R418). -/
  | published (e : Env) (version : Word)
  /-- ROLLBACK_REQUEST (R436). -/
  | rollbackRequest (e : Env) (step : Word)
  /-- SET_ACCUM (R437). -/
  | setAccum (e : Env) (count : Nat) (step : Word)
  /-- STEP_OPEN (R562). -/
  | stepOpen (e : Env) (step : Word) (accum : Nat) (lossScale : Nat)
  /-- CLOSED (R438). -/
  | closed (e : Env) (step : Word) (skipped : Bool)
  /-- ROLLBACK (R434). -/
  | rollback (e : Env) (step : Word)
  /-- MAP_PAGES (R309). -/
  | mapPages (e : Env) (ctx : Fin 16) (entries : List (Nat × Word))
  /-- UNMAP_PAGES (R309). -/
  | unmapPages (e : Env) (ctx : Fin 16) (vas : List Nat)
  /-- SET_REGION (R456). -/
  | setRegion (e : Env) (ctx : Fin 16) (region : Nat) (base : Nat) (rkey : Nat)
  /-- QP_CONNECT (R452). -/
  | qpConnect (e : Env) (qp : Fin 4096) (remote : Nat) (sendPsn recvPsn : Nat)
  /-- QP_CLOSE (R465). -/
  | qpClose (e : Env) (qp : Fin 4096)
  /-- OPEN_REGION (R452). -/
  | openRegion (e : Env) (buffer : Nat)
  /-- SET_ADDR (R450). -/
  | setAddr (e : Env) (addrs : List (Nat × Nat)) (udpPort : Option Nat)
  /-- LINK_RETRAIN (R380). -/
  | linkRetrain (e : Env)
  /-- MACSEC_CAK (R460). -/
  | macsecCak (e : Env) (port : Fin 8) (cak : Nat)
  /-- SUBSCRIBE (R465). -/
  | subscribe (e : Env) (classes : Fin 16)
  /-- EVENT (R516). -/
  | event (e : Env) (payload : EventPayload)
  /-- TELEMETRY_READ (R518). -/
  | telemetryRead (e : Env) (source count first : Nat) (addrs : List Nat)
  /-- BATTEN_SCHEDULE (R523). -/
  | battenSchedule (e : Env) (id : Nat) (scope : Nat) (t : Word)
  /-- LEDGER_READ (R489). -/
  | ledgerRead (e : Env) (first : Nat) (count : Nat)
  /-- PLUMB_SCHEDULE (R496). -/
  | plumbSchedule (e : Env) (word0 word1 : Word)
  /-- PLUMB_UNIT_DONE (R497). -/
  | plumbUnitDone (r : PlumbUnit)
  /-- CAL_READ (R548). -/
  | calRead (e : Env)
  /-- CAL_WRITE (R548). -/
  | calWrite (e : Env) (entries : List CalEntry)
  /-- FW_STAGE (R555). -/
  | fwStage (e : Env) (f : FwImage)
  /-- FW_ACTIVATE (R555). -/
  | fwActivate (e : Env)
  /-- OWNER_ENROLL (R551): the new key and the values r and s of the signature field. -/
  | ownerEnroll (e : Env) (key : Nat) (sig : Nat × Nat)
  /-- ENROLL_WINDOW_OPEN (R551). -/
  | enrollWindowOpen (value : Byte)
  /-- ENROLL_WINDOW_EXPIRY (R551). -/
  | enrollWindowExpiry
  /-- NOTIFY_REPEAT (R464). -/
  | notifyRepeat (n : Nat)
  /-- MASTHEAD_RESEND (R466). -/
  | mastheadResend (n : Nat)
  /-- TELEMETRY_INTERVAL (R515). -/
  | telemetryInterval (t : TelemSample)
  /-- LOAD_STAGGER_WAVE (R528). -/
  | loadStaggerWave (wave : Fin 8)
  /-- PORT_DOWN (R457). -/
  | portDown (port : Fin 8)
  /-- AUTONEG_RETRY (R458). -/
  | autonegRetry (port : Fin 8)
  /-- ROCE_NAK (R453). -/
  | roceNak (qp : Fin 4096) (psn : Nat)
  /-- ROCE_TIMEOUT (R453). -/
  | roceTimeout (qp : Fin 4096)
  /-- ROCE_REMOTE_NAK (R313). -/
  | roceRemoteNak (qp : Fin 4096) (core : Fin 128) (queue : Fin 17)
  /-- HOST_RDMA_WRITE (R452). -/
  | hostRdmaWrite (qp : Fin 4096) (rkey offset : Nat) (data : List Byte)
  /-- HOST_RDMA_READ (R452). -/
  | hostRdmaRead (qp : Fin 4096) (rkey offset length : Nat)
  /-- CNP_RECEIVED (R451). -/
  | cnpReceived (qp : Fin 4096)
  /-- CNP_RATE_RESTORE (R451). -/
  | cnpRateRestore (qp : Fin 4096)
  /-- MKA_SAK_INSTALL (R460). -/
  | mkaSakInstall (port : Fin 8)
  /-- PTP_SYNC (R519). -/
  | ptpSync (port : Fin 8) (offset : Int) (rate : Int)
  /-- SYNC_LOSS_TIMEOUT (R521). -/
  | syncLossTimeout
  /-- PPS_IN_EDGE (R522). -/
  | ppsInEdge (timestamp : Word)
  /-- PPS_LOST_TIMEOUT (R522). -/
  | ppsLostTimeout
  /-- PPS_OUT_EDGE (R522). -/
  | ppsOutEdge
  /-- REF10M_LOST (R537). -/
  | ref10mLost
  /-- BATTEN_FIRE (R524). -/
  | battenFire
  /-- LEDGER_COALESCE_EXPIRY (R488). -/
  | ledgerCoalesceExpiry (n : Nat)
  /-- INPUT_IN_RANGE (R37). -/
  | inputInRange
  /-- MOD_RESET_RELEASE (R543). -/
  | modResetRelease
  /-- STAY_TRAINED (R380). -/
  | stayTrained (stay : Fin 12) (lanes : BitVec 8)
  /-- PORT_LINK_UP (R448). -/
  | portLinkUp (port : Fin 8) (speed : Fin 3)
  /-- ROCE_ACK_RECEIVED (R453). -/
  | roceAckReceived (qp : Fin 4096) (psn : Nat) (data : List Byte)
  /-- HALYARD_RESPONSE_RECEIVED (R464, R466): an acknowledgement on session `peer`, whose message has SEQ `seq`, or with
  `member` the response of member module `peer` to a masthead's request. -/
  | halyardResponseReceived (member : Bool) (peer seq refSeq status : Nat)
  /-- LAYOUT_TILE_DONE (R298). -/
  | layoutTileDone (core : Fin 128) (chk : Chk)
  /-- ROUTINE_GROUP_DONE (R148). -/
  | routineGroupDone (core : Fin 128) (chk : Chk)
  /-- REMOTE_READ_REQUEST_RECEIVED (R280). -/
  | remoteReadRequestReceived (r : RemoteReq)
  /-- REMOTE_READ_RESPONSE (R281). -/
  | remoteReadResponse (core : Fin 128) (r : RemoteResp)
  /-- PTP_SYNC_TRANSMIT (R520). -/
  | ptpSyncTransmit (announce : Bool)
  /-- PTP_DELAY_REQUEST (R459). -/
  | ptpDelayRequest (port : Fin 8) (peer : Bool)
  /-- REF10M_LOCK (R537). -/
  | ref10mLock
  /-- LEDGER_ENTRY_WRITTEN (R488). -/
  | ledgerEntryWritten
  /-- PFC_PAUSE_FRAME (R451). -/
  | pfcPauseFrame (port : Fin 8) (quanta : Nat)
  deriving DecidableEq, Repr

end Sys2Proof
end

