-- ==== Sys2Proof/Decode.lean ====
section
/-! DEFINITION. Commands as words of the table: spec/opcode_table.json gives no row any bits. -/
namespace Sys2Proof

/-- The command a word spells by the table's bits. No row of the table has bits, so none does. -/
def decodeTableWord (_nbits _w : Nat) : Option Instr := none

end Sys2Proof
end

