-- ==== Sys2Proof/Machine/Bits.lean ====
section
/-! DEFINITION. Bit fields of words and byte order (00 R4–R6). -/
namespace Sys2Proof.Machine

/-- Field [hi:lo] of a natural number read as a word (00 R4). -/
def bits (w hi lo : Nat) : Nat := (w >>> lo) % 2 ^ (hi + 1 - lo)

/-- Field [hi:lo] of a 64-bit word (00 R4). -/
def fld (w : Word) (hi lo : Nat) : Nat := bits w.toNat hi lo

/-- `w` with field [hi:lo] replaced by `v` (00 R4). -/
def setFld (w : Word) (hi lo v : Nat) : Word :=
  let n := w.toNat
  BitVec.ofNat 64
    (n - (bits n hi lo) <<< lo + (v % 2 ^ (hi + 1 - lo)) <<< lo)

/-- Bit `n` of a word. -/
def bitAt (w : Word) (n : Nat) : Bool := w.toNat.testBit n

/-- `w` with bit `n` set. -/
def setBit (w : Word) (n : Nat) : Word := w ||| BitVec.ofNat 64 (1 <<< n)

/-- `w` with bit `n` clear. -/
def clearBit (w : Word) (n : Nat) : Word := w &&& ~~~ (BitVec.ofNat 64 (1 <<< n))

/-- A word with the given fields, each `(lo, value)`, over zero. -/
def packWord (fs : List (Nat × Nat)) : Word :=
  BitVec.ofNat 64 (fs.foldl (fun a f => a + f.2 <<< f.1) 0)

/-- The `n`-bit two's complement number `x` as an integer. -/
def signed (n x : Nat) : Int :=
  let y := x % 2 ^ n
  if y < 2 ^ (n - 1) then (y : Int) else (y : Int) - (2 ^ n : Nat)

/-- An integer as an `n`-bit two's complement pattern. -/
def unsigned (n : Nat) (x : Int) : Nat := (x % ((2 ^ n : Nat) : Int)).toNat

/-- The `n` low bytes of `x`, least significant first (00 R5). -/
def leBytes : Nat → Nat → List Byte
  | 0, _ => []
  | n + 1, x => BitVec.ofNat 8 (x % 256) :: leBytes n (x / 256)

/-- The number that a little-endian byte list spells (00 R5). -/
def ofLeBytes : List Byte → Nat
  | [] => 0
  | b :: bs => b.toNat + 256 * ofLeBytes bs

/-- Number of one bits among the low `n` bits. -/
def popcount : Nat → Nat → Nat
  | 0, _ => 0
  | n + 1, x => x % 2 + popcount n (x / 2)

/-- `x` rounded up to a multiple of `m`. -/
def ceilTo (x m : Nat) : Nat := (x + m - 1) / m * m

/-- `x / m` rounded up. -/
def ceilDiv (x m : Nat) : Nat := (x + m - 1) / m

end Sys2Proof.Machine
end

