-- ==== Sys2Proof/Machine/Digest.lean ====
section
/-! DEFINITION. The published digests the spec names: SHA-384 (R337, R343, R487) and CRC-32C (R277, R375,
R400, R423). -/
namespace Sys2Proof.Machine

/-- 2^64: the words of SHA-384 are numbers below it. -/
def shaWord : Nat := 0x10000000000000000

/-- The operations of SHA-384 on such words: sum, exclusive or of three, rotation to the right, choice, majority. -/
def addW (x y : Nat) : Nat := Nat.mod (Nat.add x y) shaWord
def xor3 (x y z : Nat) : Nat := Nat.xor (Nat.xor x y) z
def rotr (x n : Nat) : Nat := Nat.lor (Nat.shiftRight x n) (Nat.mod (Nat.shiftLeft x (Nat.sub 64 n)) shaWord)
def shaCh (e f g : Nat) : Nat := Nat.xor (Nat.land e f) (Nat.land (Nat.sub 0xFFFFFFFFFFFFFFFF e) g)
def shaMaj (a b c : Nat) : Nat := xor3 (Nat.land a b) (Nat.land a c) (Nat.land b c)

/-- The round constants of SHA-384. -/
def shaK : List Nat :=
  [0x428A2F98D728AE22, 0x7137449123EF65CD, 0xB5C0FBCFEC4D3B2F, 0xE9B5DBA58189DBBC,
    0x3956C25BF348B538, 0x59F111F1B605D019, 0x923F82A4AF194F9B, 0xAB1C5ED5DA6D8118,
    0xD807AA98A3030242, 0x12835B0145706FBE, 0x243185BE4EE4B28C, 0x550C7DC3D5FFB4E2,
    0x72BE5D74F27B896F, 0x80DEB1FE3B1696B1, 0x9BDC06A725C71235, 0xC19BF174CF692694,
    0xE49B69C19EF14AD2, 0xEFBE4786384F25E3, 0x0FC19DC68B8CD5B5, 0x240CA1CC77AC9C65] ++
    [0x2DE92C6F592B0275, 0x4A7484AA6EA6E483, 0x5CB0A9DCBD41FBD4, 0x76F988DA831153B5,
    0x983E5152EE66DFAB, 0xA831C66D2DB43210, 0xB00327C898FB213F, 0xBF597FC7BEEF0EE4,
    0xC6E00BF33DA88FC2, 0xD5A79147930AA725, 0x06CA6351E003826F, 0x142929670A0E6E70,
    0x27B70A8546D22FFC, 0x2E1B21385C26C926, 0x4D2C6DFC5AC42AED, 0x53380D139D95B3DF,
    0x650A73548BAF63DE, 0x766A0ABB3C77B2A8, 0x81C2C92E47EDAEE6, 0x92722C851482353B] ++
    [0xA2BFE8A14CF10364, 0xA81A664BBC423001, 0xC24B8B70D0F89791, 0xC76C51A30654BE30,
    0xD192E819D6EF5218, 0xD69906245565A910, 0xF40E35855771202A, 0x106AA07032BBD1B8,
    0x19A4C116B8D2D0C8, 0x1E376C085141AB53, 0x2748774CDF8EEB99, 0x34B0BCB5E19B48A8,
    0x391C0CB3C5C95A63, 0x4ED8AA4AE3418ACB, 0x5B9CCA4F7763E373, 0x682E6FF3D6B2B8A3,
    0x748F82EE5DEFB2FC, 0x78A5636F43172F60, 0x84C87814A1F0AB72, 0x8CC702081A6439EC] ++
    [0x90BEFFFA23631E28, 0xA4506CEBDE82BDE9, 0xBEF9A3F7B2C67915, 0xC67178F2E372532B,
    0xCA273ECEEA26619C, 0xD186B8C721C0C207, 0xEADA7DD6CDE0EB1E, 0xF57D4F7FEE6ED178,
    0x06F067AA72176FBA, 0x0A637DC5A2C898A6, 0x113F9804BEF90DAE, 0x1B710B35131C471B,
    0x28DB77F523047D84, 0x32CAAB7B40C72493, 0x3C9EBE0A15C9BEBC, 0x431D67C49C100D4C,
    0x4CC5D4BECB3E42B6, 0x597F299CFC657E2A, 0x5FCB6FAB3AD6FAEC, 0x6C44198C4A475817]

/-- The initial hash words of SHA-384. -/
def shaInit : List Nat :=
  [0xCBBB9D5DC1059ED8, 0x629A292A367CD507, 0x9159015A3070DD17, 0x152FECD8F70E5939,
    0x67332667FFC00B31, 0x8EB44A8768581511, 0xDB0C2E0D64F98FA7, 0x47B5481DBEFA4FA4]

/-- The next word of a message schedule, from its last sixteen words, newest first. -/
def shaNext (w : List Nat) : Nat :=
  match w with
  | _ :: b :: _ :: _ :: _ :: _ :: c :: _ :: _ :: _ :: _ :: _ :: _ :: _ :: a :: d :: _ =>
    addW (addW d (xor3 (rotr a 1) (rotr a 8) (Nat.shiftRight a 7))) (addW c (xor3 (rotr b 19) (rotr b 61) (Nat.shiftRight b 6)))
  | _ => 0

/-- The 80 words of a message schedule, newest first. -/
def shaSchedule : Nat → List Nat → List Nat
  | 0, w => w
  | n + 1, w => shaSchedule n (shaNext w :: w)

/-- The rounds of a block on the working words a to h: one round for each constant and schedule word. -/
def shaRounds : List Nat → List Nat → Nat → Nat → Nat → Nat → Nat → Nat → Nat → Nat → List Nat
  | k :: ks, w :: ws, a, b, c, d, e, f, g, h =>
    let t1 := addW (addW h (xor3 (rotr e 14) (rotr e 18) (rotr e 41))) (addW (shaCh e f g) (addW k w))
    let t2 := addW (xor3 (rotr a 28) (rotr a 34) (rotr a 39)) (shaMaj a b c)
    shaRounds ks ws (addW t1 t2) a b c (addW d t1) e f g
  | _, _, a, b, c, d, e, f, g, h => [a, b, c, d, e, f, g, h]

/-- One block of SHA-384: the hash words after sixteen message words. -/
def shaBlock (v m : List Nat) : List Nat :=
  match v with
  | [a, b, c, d, e, f, g, h] =>
    List.zipWith addW v (shaRounds shaK (shaSchedule 64 m.reverse).reverse a b c d e f g h)
  | _ => []

/-- A big-endian number from its bytes. -/
def ofBeBytes (bs : List Byte) : Nat := bs.foldl (fun a b => a * 256 + b.toNat) 0

/-- The first `n` big-endian words of a byte string. -/
def beWords : Nat → List Byte → List Nat
  | 0, _ => []
  | n + 1, bs => ofBeBytes (bs.take 8) :: beWords n (bs.drop 8)

/-- The hash words after `n` blocks of sixteen message words. -/
def shaBlocks : Nat → List Nat → List Nat → List Nat
  | 0, _, h => h
  | n + 1, ws, h => shaBlocks n (ws.drop 16) (shaBlock h (ws.take 16))

/-- A message with the padding of SHA-384. -/
def shaPad (bs : List Byte) : List Byte :=
  let n := bs.length
  let z := (128 - (n + 17) % 128) % 128
  bs ++ [0x80] ++ List.replicate z 0 ++ (leBytes 16 (8 * n)).reverse

/-- SHA-384 of a byte string, as 48 bytes in digest output order. -/
def sha384 (bs : List Byte) : List Byte :=
  let p := shaPad bs
  let h := shaBlocks (p.length / 128) (beWords (p.length / 8) p) shaInit
  (h.take 6).flatMap (fun w => (leBytes 8 w).reverse)

/-- A word's bytes (R5) read as a big-endian number. -/
def beOf (w : Word) : Nat := ofBeBytes (leBytes 8 w.toNat)

/-- The message words of little-endian words (R5) with the padding of SHA-384. -/
def shaMessage (ws : List Word) : List Nat :=
  let n := ws.length
  ws.map beOf ++ [2 ^ 63] ++ List.replicate ((16 - (n + 3) % 16) % 16) 0 ++ [64 * n / shaWord % shaWord, 64 * n % shaWord]

/-- SHA-384 of the bytes of little-endian words (R5): `sha384` on whole words, `sha384_words` of Laws/Digest.lean. -/
def sha384Words (ws : List Word) : List Byte :=
  let p := shaMessage ws
  ((shaBlocks (p.length / 16) p shaInit).take 6).flatMap (fun w => (leBytes 8 w).reverse)

/-- One bit of the reflected CRC-32C register. -/
def crcBit (c : BitVec 32) : BitVec 32 :=
  if c.toNat % 2 = 1 then (c >>> 1) ^^^ 0x82F63B78 else c >>> 1

/-- One byte of CRC-32C. -/
def crcByte (c : BitVec 32) (b : Byte) : BitVec 32 :=
  let x := c ^^^ b.setWidth 32
  crcBit (crcBit (crcBit (crcBit (crcBit (crcBit (crcBit (crcBit x)))))))

/-- CRC-32C of a byte string (R375). -/
def crc32c (bs : List Byte) : BitVec 32 := ~~~ (bs.foldl crcByte 0xFFFFFFFF)

/-- The bytes of little-endian words (R5). -/
def wordsBytes (ws : List Word) : List Byte := ws.flatMap (fun w => leBytes 8 w.toNat)

/-- Little-endian words of a byte string, `n` of them (R5). -/
def bytesWords : Nat → List Byte → List Word
  | 0, _ => []
  | n + 1, bs => BitVec.ofNat 64 (ofLeBytes (bs.take 8)) :: bytesWords n (bs.drop 8)

end Sys2Proof.Machine
end

