-- ==== Sys2Proof/Config.lean ====
section
/-! DEFINITION. The free values: what the spec leaves open, as constants with no body. No proof can
see what any of them is. -/
namespace Sys2Proof

/-- R149, R152: which of the FP32 results within the stated error bound a special-function primitive
gives, as a function of profile, primitive number and operand bits (the coefficients are not given). -/
opaque Config.sfeChoice : Nat → Nat → Nat → Nat

/-- R31: CHIP_ID.STEPPING, fixed in the part. -/
opaque Config.stepping : Nat

/-- R238: SC_ID.BASE_REV, fixed in the part. -/
opaque Config.baseRev : Nat

/-- R450: the MAC address of H0, fixed in the part. -/
opaque Config.macBase : Nat

/-- R462, R549: the module serial number, fixed in the part. -/
opaque Config.serial : Nat

/-- A free value: the n-th one a run takes. -/
opaque Config.freeValue : Nat → Nat

/-- R219: which columns of weight 5 the SRAM code has, and which column each data bit has, as draws from those left. -/
opaque Config.secdedHeavy : Nat → Nat
opaque Config.secdedDeal : Nat → Nat

/-- R235, R236: the 256-B units the private furl encoding takes for a granule's bytes; 0 when they do
not fit in 15 units. -/
opaque Config.furlUnits : List (BitVec 8) → Nat

/-- R235, R236: the stored bytes of the private furl encoding. -/
opaque Config.furlEncode : List (BitVec 8) → List (BitVec 8)

/-- R182: the tackle counter that counts a direction's verified pages (up, down). -/
opaque Config.pageCounter : Bool → Fin 4096

/-- The bytes of a message on the stays whose layout the spec does not give, by the message's free value and position. -/
opaque Config.messageByte : Nat → Nat → BitVec 8

/-- R465, R549: the device chain that IDENTITY returns, the device and product CA certificates, fixed in the part. -/
opaque Config.deviceChain : List (BitVec 64)

/-- R548: whether a calibration VALUE lies in its type's range, by type and value; the ranges are not given. -/
opaque Config.calInRange : Nat → Nat → Bool

/-- R122, R123, R128, R262: what a sampled field of the feeders (0 to 2) or of the access engine (3) of a core shows, by field,
core and module time. -/
opaque Config.feederSample : Nat → Nat → Nat → Nat

/-- The mesh port, of the four columns of a stack, that answers a read at a physical address. -/
opaque Config.meshPort : Nat → Nat → Nat

/-- R440: the attention entry whose layer an online softmax step belongs to, by phase, core and number of the step in the phase. -/
opaque Config.attnEntry : Nat → Nat → Nat → Nat

/-- R441: one more than the parameter group whose gradient a matrix pass drains, 0 for none, by phase, core and number of the
pass in the phase. -/
opaque Config.gradGroup : Nat → Nat → Nat → Nat

/-- R296: the element a STRIDE reads along its dimension when its run-time size is no multiple of RFAC, by RFAC, size and index. -/
opaque Config.strideSource : Nat → Nat → Nat → Nat

/-- R69: exponent EA or EB of digits that no LOAD sliced, by core and core-store byte (log entry 27). -/
opaque Config.digitExp : Nat → Nat → Int

/-- R452: the primary port of queue pair 0 to 15, which no image gives. -/
opaque Config.ctx0Port : Nat → Nat

end Sys2Proof
end

