-- ==== Sys2Proof/Machine/Fp.lean ====
section
/-! DEFINITION. Exact arithmetic on the number formats of chapter 02 and its single rounding. -/
namespace Sys2Proof.Machine

/-- An exact value: a NaN, a signed infinity, or (−1)^s · m · 2^e. A zero keeps its sign. -/
inductive Num where
  | nan
  | inf (s : Bool)
  | fin (s : Bool) (m : Nat) (e : Int)
  deriving DecidableEq, Repr

/-- The element formats of R46, in code order. -/
inductive Fmt where
  | fp32 | fp64 | bf16 | e4m3 | e5m2 | mxE4m3 | mxE5m2 | mxE2m3 | mxE3m2 | mxE2m1
  | int8 | int32 | e8m0 | slice
  deriving DecidableEq, Repr

/-- R46: the format a code names; reserved codes name none. -/
def Fmt.ofCode : Nat → Option Fmt
  | 0x00 => some .fp32 | 0x01 => some .fp64 | 0x02 => some .bf16 | 0x03 => some .e4m3
  | 0x04 => some .e5m2 | 0x05 => some .mxE4m3 | 0x06 => some .mxE5m2 | 0x07 => some .mxE2m3
  | 0x08 => some .mxE3m2 | 0x09 => some .mxE2m1 | 0x0A => some .int8 | 0x0B => some .int32
  | 0x0C => some .e8m0 | 0x0D => some .slice | _ => none

/-- R46: the code of a format. -/
def Fmt.code : Fmt → Nat
  | .fp32 => 0x00 | .fp64 => 0x01 | .bf16 => 0x02 | .e4m3 => 0x03 | .e5m2 => 0x04
  | .mxE4m3 => 0x05 | .mxE5m2 => 0x06 | .mxE2m3 => 0x07 | .mxE3m2 => 0x08 | .mxE2m1 => 0x09
  | .int8 => 0x0A | .int32 => 0x0B | .e8m0 => 0x0C | .slice => 0x0D

/-- R46: bits of one element. -/
def Fmt.width : Fmt → Nat
  | .fp32 => 32 | .fp64 => 64 | .bf16 => 16 | .e4m3 => 8 | .e5m2 => 8 | .mxE4m3 => 8
  | .mxE5m2 => 8 | .mxE2m3 => 6 | .mxE3m2 => 6 | .mxE2m1 => 4 | .int8 => 8 | .int32 => 32
  | .e8m0 => 8 | .slice => 8

/-- R46: the formats with one E8M0 scale per block of 32. -/
def Fmt.isMx : Fmt → Bool
  | .mxE4m3 | .mxE5m2 | .mxE2m3 | .mxE3m2 | .mxE2m1 => true
  | _ => false

/-- Which codes of the top exponent are special (R47, R48, R51). -/
inductive Specials where
  | ieee   -- all-ones exponent: Inf and NaN
  | ocpE4  -- only S.1111.111 is NaN, no Inf
  | none   -- no special values
  deriving DecidableEq, Repr

/-- A binary floating-point layout: significand bits with the hidden one, exponent width, bias. -/
structure Layout where
  p     : Nat
  ew    : Nat
  bias  : Nat
  spec  : Specials
  deriving DecidableEq, Repr

/-- R47, R48, R51: the layout of a floating-point element type. -/
def Fmt.layout : Fmt → Option Layout
  | .fp32   => some ⟨24, 8, 127, .ieee⟩
  | .fp64   => some ⟨53, 11, 1023, .ieee⟩
  | .bf16   => some ⟨8, 8, 127, .ieee⟩
  | .e4m3   => some ⟨4, 4, 7, .ocpE4⟩
  | .e5m2   => some ⟨3, 5, 15, .ieee⟩
  | .mxE4m3 => some ⟨4, 4, 7, .ocpE4⟩
  | .mxE5m2 => some ⟨3, 5, 15, .ieee⟩
  | .mxE2m3 => some ⟨4, 2, 1, .none⟩
  | .mxE3m2 => some ⟨3, 3, 3, .none⟩
  | .mxE2m1 => some ⟨2, 2, 1, .none⟩
  | _ => none

/-- R51: the exponent of the largest binade, emax. -/
def Fmt.emax : Fmt → Int
  | .fp32 | .bf16 => 127 | .fp64 => 1023
  | .e4m3 | .mxE4m3 => 8 | .e5m2 | .mxE5m2 => 15
  | .mxE2m3 => 2 | .mxE3m2 => 4 | .mxE2m1 => 2
  | _ => 0

/-- Exponent of the smallest normal. -/
def Layout.emin (l : Layout) : Int := 1 - (l.bias : Int)

/-- Exponent of the smallest subnormal, the finest quantum. -/
def Layout.qmin (l : Layout) : Int := l.emin - ((l.p : Int) - 1)

/-- The largest finite value, as the integer of the encoding's magnitude bits. -/
def Layout.maxBits (l : Layout) : Nat :=
  match l.spec with
  | .ieee  => (2 ^ l.ew - 1) * 2 ^ (l.p - 1) - 1
  | .ocpE4 => 2 ^ l.ew * 2 ^ (l.p - 1) - 2
  | .none  => 2 ^ l.ew * 2 ^ (l.p - 1) - 1

/-- Bits of the format without the sign. -/
def Layout.magWidth (l : Layout) : Nat := l.ew + l.p - 1

/-- R51: the value of an encoding. -/
def Layout.decode (l : Layout) (b : Nat) : Num :=
  let s := b.testBit l.magWidth
  let mag := b % 2 ^ l.magWidth
  let ex := mag / 2 ^ (l.p - 1)
  let fr := mag % 2 ^ (l.p - 1)
  let special : Bool := match l.spec with
    | .ieee  => ex == 2 ^ l.ew - 1
    | .ocpE4 => mag == 2 ^ l.magWidth - 1
    | .none  => false
  if special then
    match l.spec with
    | .ieee => if fr = 0 then .inf s else .nan
    | _ => .nan
  else if ex = 0 then .fin s fr l.qmin
  else .fin s (fr + 2 ^ (l.p - 1)) (l.qmin + ((ex : Int) - 1))

/-- Sign bit of a layout's encoding. -/
def Layout.signBit (l : Layout) (s : Bool) : Nat := if s then 2 ^ l.magWidth else 0

/-- R50: the default NaN, positive, quiet, with an otherwise zero payload; in E4M3 the all-ones
code and in E5M2 S.11111.10. -/
def Layout.defaultNaN (l : Layout) : Nat :=
  match l.spec with
  | .ieee  => (2 ^ l.ew - 1) * 2 ^ (l.p - 1) + 2 ^ (l.p - 2)
  | .ocpE4 => 2 ^ l.magWidth - 1
  | .none  => 0

/-- Infinity of an IEEE layout. -/
def Layout.infBits (l : Layout) (s : Bool) : Nat :=
  l.signBit s + (2 ^ l.ew - 1) * 2 ^ (l.p - 1)

/-- `m / 2^d` rounded to nearest, ties to even (R55). -/
def rneShift (m d : Nat) : Nat :=
  if d = 0 then m
  else if Nat.log2 m + 2 ≤ d then 0 else
  let q := m / 2 ^ d
  let r := m % 2 ^ d
  let half := 2 ^ (d - 1)
  if r > half ∨ (r = half ∧ q % 2 = 1) then q + 1 else q

/-- floor(log2 (m · 2^e)) for m > 0. -/
def flog2 (m : Nat) (e : Int) : Int := (Nat.log2 m : Int) + e

/-- R57, R59: m·2^e at the layout's precision with an unbounded exponent above and subnormals below,
as an integer count of quanta and the quantum's exponent. -/
def Layout.roundMag (l : Layout) (m : Nat) (e : Int) : Nat × Int :=
  let q := max (flog2 m e - ((l.p : Int) - 1)) l.qmin
  if e ≥ q then (m * 2 ^ (e - q).toNat, q) else (rneShift m (q - e).toNat, q)

/-- Magnitude bits of n quanta of 2^q; may exceed `maxBits` where the value does. -/
def Layout.magBits (l : Layout) (n : Nat) (q : Int) : Nat :=
  if n < 2 ^ (l.p - 1) then n
  else (n - 2 ^ (l.p - 1)) + ((q - l.qmin).toNat + 1) * 2 ^ (l.p - 1)

/-- The counters of one conversion site and format (R85). -/
structure Tally where
  total : Nat := 0
  sat   : Nat := 0
  ovf   : Nat := 0
  ftz   : Nat := 0
  sub   : Nat := 0
  inf   : Nat := 0
  nan   : Nat := 0
  deriving DecidableEq, Repr

/-- Counts add field by field. -/
def Tally.add (a b : Tally) : Tally :=
  ⟨a.total + b.total, a.sat + b.sat, a.ovf + b.ovf, a.ftz + b.ftz, a.sub + b.sub,
    a.inf + b.inf, a.nan + b.nan⟩

/-- R57–R59: one conversion of an exact value to a floating-point layout. `sat` is the operation's
saturation control; MX elements always saturate (R57) and are converted with `sat := true`. -/
def Layout.convert (l : Layout) (sat : Bool) (v : Num) : Nat × Tally :=
  match v with
  | .nan => (l.defaultNaN, { total := 1, nan := 1 })
  | .inf s =>
    match l.spec with
    | .ieee  => (l.infBits s, { total := 1, inf := 1 })
    | .ocpE4 => (l.signBit s + l.defaultNaN, { total := 1, nan := 1 })
    | .none  => (l.signBit s + l.maxBits, { total := 1, sat := 1 })
  | .fin s m e =>
    if m = 0 then (l.signBit s, { total := 1 })
    else
      let (n, q) := l.roundMag m e
      let b := l.magBits n q
      if b > l.maxBits then
        if sat then (l.signBit s + l.maxBits, { total := 1, sat := 1 })
        else match l.spec with
          | .ieee  => (l.infBits s, { total := 1, ovf := 1 })
          | .ocpE4 => (l.signBit s + l.defaultNaN, { total := 1, ovf := 1 })
          | .none  => (l.signBit s + l.maxBits, { total := 1, sat := 1 })
      else if b = 0 then (l.signBit s, { total := 1, ftz := 1 })
      else if b < 2 ^ (l.p - 1) then (l.signBit s + b, { total := 1, sub := 1 })
      else (l.signBit s + b, { total := 1 })

/-- The layouts of FP32, FP64 and BF16, by name. -/
def layout32 : Layout := ⟨24, 8, 127, .ieee⟩
def layout64 : Layout := ⟨53, 11, 1023, .ieee⟩
def layoutBf : Layout := ⟨8, 8, 127, .ieee⟩

/-- One IEEE rounding to a layout (R55), overflow giving ±Inf (R63). -/
def Layout.rne (l : Layout) (v : Num) : Nat := (l.convert false v).1

/-- Sign of a value; NaN counts as positive. -/
def Num.sign : Num → Bool
  | .nan => false
  | .inf s => s
  | .fin s _ _ => s

/-- Is the value a NaN. -/
def Num.isNan : Num → Bool
  | .nan => true
  | _ => false

/-- Is the value an infinity. -/
def Num.isInf : Num → Bool
  | .inf _ => true
  | _ => false

/-- Is the value finite. -/
def Num.isFin : Num → Bool
  | .fin _ _ _ => true
  | _ => false

/-- Is the value a zero of either sign. -/
def Num.isZero : Num → Bool
  | .fin _ m _ => m == 0
  | _ => false

/-- +0. -/
def Num.zero : Num := .fin false 0 0

/-- 1. -/
def Num.one : Num := .fin false 1 0

/-- The value of an integer. -/
def Num.ofInt (i : Int) : Num := .fin (decide (i < 0)) i.natAbs 0

/-- Opposite sign. -/
def Num.neg : Num → Num
  | .nan => .nan
  | .inf s => .inf (!s)
  | .fin s m e => .fin (!s) m e

/-- Clear sign. -/
def Num.abs : Num → Num
  | .nan => .nan
  | .inf _ => .inf false
  | .fin _ m e => .fin false m e

/-- The signed integer significand of a finite value. -/
def sgn (s : Bool) (m : Nat) : Int := if s then -(m : Int) else (m : Int)

/-- Exact IEEE sum; +Inf − Inf is NaN and an exact zero sum of unlike zeros or values is +0. -/
def Num.add : Num → Num → Num
  | .nan, _ => .nan
  | _, .nan => .nan
  | .inf s, .inf t => if s = t then .inf s else .nan
  | .inf s, _ => .inf s
  | _, .inf t => .inf t
  | .fin s m e, .fin t n f =>
    let g := min e f
    let a := sgn s m * (2 ^ (e - g).toNat : Nat)
    let b := sgn t n * (2 ^ (f - g).toNat : Nat)
    let c := a + b
    if c = 0 then .fin (m == 0 && n == 0 && s && t) 0 0
    else .fin (decide (c < 0)) c.natAbs g

/-- Exact IEEE product; 0 × Inf is NaN. -/
def Num.mul : Num → Num → Num
  | .nan, _ => .nan
  | _, .nan => .nan
  | .inf s, .inf t => .inf (s != t)
  | .inf s, .fin t n _ => if n = 0 then .nan else .inf (s != t)
  | .fin s m _, .inf t => if m = 0 then .nan else .inf (s != t)
  | .fin s m e, .fin t n f => .fin (s != t) (m * n) (e + f)

/-- Exact difference. -/
def Num.sub (a b : Num) : Num := a.add b.neg

/-- Times 2^k. -/
def Num.scale (a : Num) (k : Int) : Num :=
  match a with
  | .fin s m e => .fin s m (e + k)
  | v => v

/-- IEEE quotient, exact or, where it does not terminate, to 200 bits with a sticky last bit, enough
for one correct rounding to any format of R46. 0/0 and Inf/Inf are NaN; x/0 is Inf. -/
def Num.div : Num → Num → Num
  | .nan, _ => .nan
  | _, .nan => .nan
  | .inf _, .inf _ => .nan
  | .inf s, .fin t _ _ => .inf (s != t)
  | .fin s _ _, .inf t => .fin (s != t) 0 0
  | .fin s m e, .fin t n f =>
    if n = 0 then (if m = 0 then .nan else .inf (s != t))
    else if m = 0 then .fin (s != t) 0 0
    else
      let k := 200 + Nat.log2 n
      let q := (m * 2 ^ k) / n
      let r := (m * 2 ^ k) % n
      .fin (s != t) (2 * q + (if r = 0 then 0 else 1)) (e - f - k - 1)

/-- Integer square root by bits from the top: the largest r with r² ≤ x, r < 2^n. -/
def isqrtBits (x : Nat) : Nat → Nat → Nat
  | 0, r => r
  | n + 1, r =>
    let c := r + 2 ^ n
    if c * c ≤ x then isqrtBits x n c else isqrtBits x n r

/-- IEEE square root with a sticky last bit, enough for one correct rounding; negative values give
NaN and −0 gives −0. -/
def Num.sqrt : Num → Num
  | .nan => .nan
  | .inf s => if s then .nan else .inf false
  | .fin s m e =>
    if m = 0 then .fin s 0 0
    else if s then .nan
    else
      -- an even exponent and at least 130 result bits
      let e' := if e % 2 = 0 then e else e - 1
      let m' := if e % 2 = 0 then m else 2 * m
      let x := m' * 2 ^ 260
      let r := isqrtBits x (Nat.log2 x / 2 + 1) 0
      let sticky := if r * r = x then 0 else 1
      .fin false (2 * r + sticky) (e' / 2 - 130 - 1)

/-- Exact comparison of two finite or infinite values; NaN compares false. -/
def Num.lt : Num → Num → Bool
  | .nan, _ => false
  | _, .nan => false
  | .inf s, .inf t => s && !t
  | .inf s, _ => s
  | _, .inf t => !t
  | .fin s m e, .fin t n f =>
    let g := min e f
    decide (sgn s m * (2 ^ (e - g).toNat : Nat) < sgn t n * (2 ^ (f - g).toNat : Nat))

/-- IEEE equality: −0 equals +0, NaN equals nothing. -/
def Num.eq (a b : Num) : Bool :=
  match a, b with
  | .nan, _ => false
  | _, .nan => false
  | _, _ => !(a.lt b) && !(b.lt a)

/-- Rounding to an integer, ties to even (R55); NaN and infinities give 0 here, callers test first. -/
def Num.toInt : Num → Int
  | .fin s m e =>
    if e ≥ 0 then sgn s (m * 2 ^ e.toNat) else sgn s (rneShift m (-e).toNat)
  | _ => 0

/-- The integer part toward −Inf; NaN and infinities give 0. -/
def Num.floor : Num → Int
  | .fin s m e =>
    if e ≥ 0 then sgn s (m * 2 ^ e.toNat) else (sgn s m) / ((2 ^ (-e).toNat : Nat) : Int)
  | _ => 0

/-- floor(log2 |x|) of a nonzero finite value (R76); 0 for the others. -/
def Num.expo : Num → Int
  | .fin _ m e => if m = 0 then 0 else flog2 m e
  | _ => 0

/-- R52: the value 2^(code − 127) of an E8M0 scale code; 0xFF is NaN. -/
def e8m0Value (c : Nat) : Num := if c = 0xFF then .nan else .fin false 1 ((c : Int) - 127)

/-- The value of an unscaled element of any format (R47–R54). -/
def Fmt.decode (f : Fmt) (b : Nat) : Num :=
  match f.layout with
  | some l => l.decode b
  | none =>
    match f with
    | .int8 | .slice => Num.ofInt (signed 8 b)
    | .int32 => Num.ofInt (signed 32 b)
    | _ => e8m0Value b

/-- The value of an element under its block scale (R52, R65). -/
def Fmt.decodeScaled (f : Fmt) (scale b : Nat) : Num :=
  if f.isMx then
    (if scale = 0xFF then .nan else (f.decode b).scale ((scale : Int) - 127))
  else f.decode b

/-- R57, R58: conversion of an exact value to INT32. -/
def toInt32 (v : Num) : Nat × Tally :=
  match v with
  | .nan => (0, { total := 1, nan := 1 })
  | .inf s => (if s then 2 ^ 31 else 2 ^ 31 - 1, { total := 1, sat := 1 })
  | v =>
    let i := v.toInt
    if i > 2 ^ 31 - 1 then (2 ^ 31 - 1, { total := 1, sat := 1 })
    else if i < -(2 ^ 31) then (2 ^ 31, { total := 1, sat := 1 })
    else (unsigned 32 i, { total := 1 })

/-- R54: INT8 quantisation by 1/f and the zero point z. A NaN product, that of an infinity and a zero 1/f too, gives z
(DEDUCED, log 154). -/
def quantInt8 (v : Num) (recip : Num) (z : Int) : Nat × Tally :=
  let clampI (i : Int) : Int := if i > 127 then 127 else if i < -128 then -128 else i
  match v.mul recip with
  | .nan => (unsigned 8 z, { total := 1, nan := 1 })
  | .inf s => (if s then 0x80 else 0x7F, { total := 1, sat := 1 })
  | p =>
    let r := p.toInt
    let q := clampI (r + z)
    (unsigned 8 q,
      { total := 1, sat := if q = r + z then 0 else 1,
        ftz := if r = 0 ∧ v.isZero = false then 1 else 0 })

/-- R54: INT8 dequantisation to a floating layout, one rounding of the exact product. -/
def dequantInt8 (l : Layout) (sat : Bool) (q : Nat) (f : Num) (z : Int) : Nat × Tally :=
  l.convert sat ((Num.ofInt (signed 8 q - z)).mul f)

/-- R50 rule 4, R58: the NaN of a conversion to FP32, FP64 or BF16: sign and the upper payload bits that fit, quiet bit
set. -/
def convNaN (src dst : Layout) (b : Nat) : Nat :=
  let s := b.testBit src.magWidth
  let fr := b % 2 ^ (src.p - 1)
  let fr' :=
    if dst.p ≥ src.p then fr * 2 ^ (dst.p - src.p) else fr / 2 ^ (src.p - dst.p)
  let quiet := 2 ^ (dst.p - 2)
  let fr'' := if fr' / quiet % 2 = 1 then fr' else fr' + quiet
  dst.signBit s + (2 ^ dst.ew - 1) * 2 ^ (dst.p - 1) + fr''

/-- R56–R59: conversion of an encoding of one floating format to another, NaNs by R50 rules 4, 5. A
format widened exactly (R56) counts no saturation, overflow or flush. -/
def convBits (src dst : Fmt) (sat : Bool) (b : Nat) : Nat × Tally :=
  match src.layout, dst.layout with
  | some ls, some ld =>
    match ls.decode b with
    | .nan =>
      if 8 ≤ ld.p then (convNaN ls ld b, { total := 1, nan := 1 })
      else (ld.signBit (b.testBit ls.magWidth) + ld.defaultNaN, { total := 1, nan := 1 })
    | v => ld.convert sat v
  | some ls, none =>
    match dst with
    | .int32 => toInt32 (ls.decode b)
    | _ => (b, { total := 1 })
  | none, some ld => ld.convert sat (src.decode b)
  | none, none =>
    match src, dst with
    | .int8, .int32 => (unsigned 32 (signed 8 b), { total := 1 })
    | _, _ => (b, { total := 1 })

/-- R60, R61: the scale code and elements of one MX block, with its counts. -/
def quantMx (f : Fmt) (vs : List Num) : Nat × List Nat × Tally :=
  match f.layout with
  | none => (0x7F, vs.map (fun _ => 0), {})
  | some l =>
    if vs.any (fun v => !v.isFin) then
      (0xFF, vs.map (fun _ => 0), { total := vs.length, nan := vs.length })
    else
      let amaxExp : Option Int := vs.foldl (fun a v =>
        match v with
        | .fin _ m e =>
          if m = 0 then a else
          match a with
          | none => some (flog2 m e)
          | some x => some (max x (flog2 m e))
        | _ => a) none
      match amaxExp with
      | none => (0x7F, vs.map (fun v => l.signBit v.sign), { total := vs.length })
      | some x =>
        let X := max (-127) (min 127 (x - f.emax))
        let rs := vs.map (fun v => l.convert true (v.scale (-X)))
        ((X + 127).toNat, rs.map (·.1), rs.foldl (fun t r => t.add r.2) {})

/-- R55, R132: conversion to an E8M0 code takes the binade of the input. Values without one (zeros,
NaNs, infinities and negative values) have no stated code but 0xFF for NaN. -/
def e8m0OfExp (x : Int) : Nat := (max 0 (min 254 (x + 127))).toNat

/-! R69–R71: split-mantissa slicing. -/

/-- R69: EA of a row over a pass: the largest exponent of its nonzero finite elements plus 1. -/
def sliceExp (row : List Num) : Int :=
  let m : Option Int := row.foldl (fun a v =>
    match v with
    | .fin _ m e => if m = 0 then a else
      match a with
      | none => some (flog2 m e)
      | some x => some (max x (flog2 m e))
    | _ => a) none
  match m with
  | none => 0
  | some x => x + 1

/-- R69: the integer m of an element under the row's exponent. -/
def sliceInt (ea : Int) (v : Num) : Int := (v.scale (54 - ea)).toInt

/-- R70: the seven signed digits d0 … d6, produced from d6 upward. -/
def sliceDigits : Nat → Int → List Int → List Int
  | 0, _, acc => acc
  | n + 1, m, acc =>
    let d := (m + 128) % 256 - 128
    sliceDigits n ((m - d) / 256) (d :: acc)

/-- R71: the integer of one K position: the digit pairs with s + t ≤ 6, weighted. -/
def slicePair (da db : List Int) : Int :=
  (List.range 7).foldl (fun acc s =>
    (List.range (7 - s)).foldl (fun acc t =>
      acc + da.getD s 0 * db.getD t 0 * ((256 ^ (6 - s - t) : Nat) : Int)) acc) 0

/-! R76–R80: order-free sums. -/

/-- R76: E_max of a chunk: the largest exponent of its finite nonzero contributions, if any. -/
def emaxOf (vs : List Num) : Option Int :=
  vs.foldl (fun a v =>
    match v with
    | .fin _ m e => if m = 0 then a else
      match a with
      | none => some (flog2 m e)
      | some x => some (max x (flog2 m e))
    | _ => a) none

/-- R77: the fixed-point integer of a finite contribution. -/
def toFixed (emax : Int) (v : Num) : Int := (v.scale (96 - emax)).toInt

/-- R79, R80: the result of an element from its contributions, one rounding to the target; overflow
gives ±Inf and is counted OVF, S = 0 gives +0. -/
def orderFree (target : Layout) (emax : Int) (vs : List Num) : Nat × Tally :=
  let nan := vs.any Num.isNan
  let pinf := vs.any (fun v => v.isInf && !v.sign)
  let ninf := vs.any (fun v => v.isInf && v.sign)
  let ftz := (vs.filter (fun v =>
    v.isFin && !v.isZero && decide (toFixed emax v = 0))).length
  if nan || (pinf && ninf) then (target.defaultNaN, { total := 1, nan := 1, ftz := ftz })
  else if pinf then (target.infBits false, { total := 1, inf := 1, ftz := ftz })
  else if ninf then (target.infBits true, { total := 1, inf := 1, ftz := ftz })
  else
    let S := vs.foldl (fun a v => if v.isFin then a + toFixed emax v else a) (0 : Int)
    let r := target.convert false ((Num.ofInt S).scale (emax - 96))
    (r.1, { r.2 with ftz := ftz + r.2.ftz })

/-! R81–R84: Philox-4×32-10. -/

/-- One Philox round on the counter (c0, c1, c2, c3) with key (k0, k1) (R81). -/
def philoxRound (c : Nat × Nat × Nat × Nat) (k0 k1 : Nat) : Nat × Nat × Nat × Nat :=
  let (c0, c1, c2, c3) := c
  let p0 := 0xD2511F53 * c0
  let p1 := 0xCD9E8D57 * c2
  ((p1 / 2 ^ 32) ^^^ c1 ^^^ k0, p1 % 2 ^ 32, (p0 / 2 ^ 32) ^^^ c3 ^^^ k1, p0 % 2 ^ 32)

/-- `n` Philox rounds with the key increments of R81. -/
def philoxRounds : Nat → Nat × Nat × Nat × Nat → Nat → Nat → Nat × Nat × Nat × Nat
  | 0, c, _, _ => c
  | n + 1, c, k0, k1 =>
    philoxRounds n (philoxRound c k0 k1) ((k0 + 0x9E3779B9) % 2 ^ 32) ((k1 + 0xBB67AE85) % 2 ^ 32)

/-- R82, R83: the random word of the element at global position `p`. -/
def randomWord (seed step layer tensor use p : Nat) : Nat :=
  let k0 := seed % 2 ^ 32
  let k1 := (seed / 2 ^ 32 % 2 ^ 32) ^^^ (step / 2 ^ 32 % 2 ^ 32)
  let b := p / 4
  let c : Nat × Nat × Nat × Nat :=
    (b % 2 ^ 32, (tensor % 2 ^ 16) * 2 ^ 16 + b / 2 ^ 32 % 2 ^ 16,
      (use % 256) * 2 ^ 24 + layer % 2 ^ 24, step % 2 ^ 32)
  let r := philoxRounds 10 c k0 k1
  match p % 4 with
  | 0 => r.1
  | 1 => r.2.1
  | 2 => r.2.2.1
  | _ => r.2.2.2

/-- R84: the uniform value (w >> 8) · 2^−24. -/
def uniform (w : Nat) : Num := .fin false (w / 256) (-24)

/-- R84: a dropout element is kept when w ≥ T and then multiplied by the keep factor; a dropped one becomes +0
(DESIGN CHOICE, log 155: the rule gives the kept value only). -/
def dropout (w T : Nat) (v keep : Num) : Nat :=
  if w ≥ T then layout32.rne (v.mul keep) else 0

end Sys2Proof.Machine
end

