-- ==== Sys2Proof/Machine/Lanes.lean ====
section
/-! DEFINITION. Vector-engine arithmetic on element bit patterns (chapter 04), with no machine state. -/
namespace Sys2Proof.Machine

/-! ## Element layouts (R130, R132) -/

/-- The 32-bit lanes of a register read as one number, lane 0 lowest (R132's image). -/
def lanesToNat : List Nat → Nat
  | [] => 0
  | x :: r => x % 2 ^ 32 + 2 ^ 32 * lanesToNat r

/-- The first `n` lanes of an image. -/
def natToLanes : Nat → Nat → List Nat
  | 0, _ => []
  | n + 1, x => x % 2 ^ 32 :: natToLanes n (x / 2 ^ 32)

/-- The `n` elements of width `w` of an image, element 0 lowest (R6, R287). -/
def unpack (w : Nat) : Nat → Nat → List Nat
  | 0, _ => []
  | n + 1, x => x % 2 ^ w :: unpack w n (x / 2 ^ w)

/-- The image that holds the given elements of width `w`. -/
def pack (w : Nat) : List Nat → Nat
  | [] => 0
  | x :: r => x % 2 ^ w + 2 ^ w * pack w r

/-- R130, R132: elements per register (per pair for FP64). -/
def elemCount : Fmt → Nat
  | .fp32 | .int32 | .fp64 => 256
  | .bf16 => 512
  | .mxE2m1 => 2048
  | _ => 1024

/-- R130, R132: the elements of the register `lo`, or of the pair `lo`, `hi` for FP64. -/
def elemsOf (f : Fmt) (lo hi : List Nat) : List Nat :=
  match f with
  | .fp32 | .int32 => lo
  | .fp64 => List.zipWith (fun a b => a + 2 ^ 32 * b) lo hi
  | .bf16 => unpack 16 512 (lanesToNat lo)
  | f => unpack f.width (elemCount f) (lanesToNat lo)

/-- R130, R132: the lanes that hold the given elements; the second list is the high half of an FP64
pair and empty otherwise. -/
def lanesOf (f : Fmt) (es : List Nat) : List Nat × List Nat :=
  match f with
  | .fp32 | .int32 => (es.map (· % 2 ^ 32), [])
  | .fp64 => (es.map (· % 2 ^ 32), es.map (· / 2 ^ 32 % 2 ^ 32))
  | f => (natToLanes 256 (pack f.width es), [])

/-- The lanes of a format's element `i` (R131, R132): lane i for FP32, INT32 and FP64, else the lane
its first bit lies in. -/
def laneOfElem (f : Fmt) (i : Nat) : Nat :=
  match f with
  | .fp32 | .int32 | .fp64 => i
  | f => i * f.width / 32

/-! ## Arithmetic on one element (R135, R136) -/

/-- R50 rule 2: a NaN with its quiet bit set. -/
def quietNaN (l : Layout) (b : Nat) : Nat :=
  if b / 2 ^ (l.p - 2) % 2 = 1 then b else b + 2 ^ (l.p - 2)

/-- R50 rule 2: the first NaN operand, quieted. -/
def firstNaN (l : Layout) : List Nat → Option Nat
  | [] => none
  | b :: r => if (l.decode b).isNan then some (quietNaN l b) else firstNaN l r

/-- One arithmetic operation with one RNE; NaN operands by R50 rule 2, invalid results by rule 1. -/
def arith1 (l : Layout) (f : Num → Num) (a : Nat) : Nat :=
  match firstNaN l [a] with
  | some n => n
  | none => l.rne (f (l.decode a))

/-- As `arith1`, with two operands. -/
def arith2 (l : Layout) (f : Num → Num → Num) (a b : Nat) : Nat :=
  match firstNaN l [a, b] with
  | some n => n
  | none => l.rne (f (l.decode a) (l.decode b))

/-- As `arith1`, with three operands. -/
def arith3 (l : Layout) (f : Num → Num → Num → Num) (a b c : Nat) : Nat :=
  match firstNaN l [a, b, c] with
  | some n => n
  | none => l.rne (f (l.decode a) (l.decode b) (l.decode c))

/-- The layout of an arithmetic format; FP32 stands in for formats that have none. -/
def layoutOf (f : Fmt) : Layout := f.layout.getD layout32

/-- R135: ADD. -/
def addBits (f : Fmt) (a b : Nat) : Nat := arith2 (layoutOf f) Num.add a b
/-- R135: SUB. -/
def subBits (f : Fmt) (a b : Nat) : Nat := arith2 (layoutOf f) Num.sub a b
/-- R135: MUL. -/
def mulBits (f : Fmt) (a b : Nat) : Nat := arith2 (layoutOf f) Num.mul a b
/-- R135: FMA, one rounding of the exact a·b + c. -/
def fmaBits (f : Fmt) (a b c : Nat) : Nat :=
  arith3 (layoutOf f) (fun x y z => (x.mul y).add z) a b c
/-- R135: FMS. -/
def fmsBits (f : Fmt) (a b c : Nat) : Nat :=
  arith3 (layoutOf f) (fun x y z => (x.mul y).sub z) a b c
/-- R135, R136: DIV. -/
def divBits (f : Fmt) (a b : Nat) : Nat := arith2 (layoutOf f) Num.div a b
/-- R135: SQRT. -/
def sqrtBits (f : Fmt) (a : Nat) : Nat := arith1 (layoutOf f) Num.sqrt a

/-- R136: the lesser operand; −0 lies below +0, a NaN operand is returned by R50 rule 2. -/
def minBits (f : Fmt) (a b : Nat) : Nat :=
  match f with
  | .int32 => if signed 32 b < signed 32 a then b else a
  | f =>
    let l := layoutOf f
    match firstNaN l [a, b] with
    | some n => n
    | none =>
      if (l.decode a).lt (l.decode b) then a
      else if (l.decode b).lt (l.decode a) then b
      else if (l.decode a).sign then a else b

/-- R136: the greater operand, as `minBits`. -/
def maxBits (f : Fmt) (a b : Nat) : Nat :=
  match f with
  | .int32 => if signed 32 a < signed 32 b then b else a
  | f =>
    let l := layoutOf f
    match firstNaN l [a, b] with
    | some n => n
    | none =>
      if (l.decode a).lt (l.decode b) then b
      else if (l.decode b).lt (l.decode a) then a
      else if (l.decode a).sign then b else a

/-- R136: clears the sign bit, nothing else. -/
def absBits (f : Fmt) (a : Nat) : Nat := a % 2 ^ (layoutOf f).magWidth

/-- R136: inverts the sign bit, nothing else. -/
def negBits (f : Fmt) (a : Nat) : Nat := a ^^^ 2 ^ (layoutOf f).magWidth

/-- R135: SRC1 × 2^SRC2, one RNE. -/
def scalbBits (f : Fmt) (a : Nat) (k : Nat) : Nat :=
  arith1 (layoutOf f) (fun x => x.scale (signed 32 k)) a

/-- R135: RINT; a zero result keeps the operand's sign. -/
def rintBits (f : Fmt) (a : Nat) : Nat :=
  arith1 (layoutOf f) (fun x =>
    match x with
    | .fin s m e => if e ≥ 0 then .fin s m e else .fin s (rneShift m (-e).toNat) 0
    | v => v) a

/-- R135: does the relation of CMP hold: 0 =, 1 <, 2 ≤, 3 ≠, 4 unordered. -/
def cmpHolds (f : Fmt) (rel a b : Nat) : Bool :=
  match f with
  | .int32 =>
    let x := signed 32 a
    let y := signed 32 b
    match rel with
    | 0 => decide (x = y)
    | 1 => decide (x < y)
    | 2 => decide (x ≤ y)
    | 3 => decide (x ≠ y)
    | _ => false
  | f =>
    let x := (layoutOf f).decode a
    let y := (layoutOf f).decode b
    match rel with
    | 0 => x.eq y
    | 1 => x.lt y
    | 2 => x.lt y || x.eq y
    | 3 => !(x.eq y)
    | _ => x.isNan || y.isNan

/-- R135: the element CMP writes: all ones or all zeros. -/
def cmpBits (f : Fmt) (rel a b : Nat) : Nat :=
  if cmpHolds f rel a b then 2 ^ f.width - 1 else 0

/-- R135: integer operations modulo 2^32. -/
def iaddBits (a b : Nat) : Nat := (a + b) % 2 ^ 32
def isubBits (a b : Nat) : Nat := (a + 2 ^ 32 - b % 2 ^ 32) % 2 ^ 32
def imulBits (a b : Nat) : Nat := (a * b) % 2 ^ 32
def shlBits (a n : Nat) : Nat := if n ≥ 32 then 0 else (a <<< n) % 2 ^ 32
def shrBits (a n : Nat) : Nat := if n ≥ 32 then 0 else a >>> n

/-! ## Reductions (R138–R140) -/

/-- One level of the fixed tree: neighbours combine, a value with no neighbour passes unchanged. -/
def treeLevel (op : Nat → Nat → Nat) : List Nat → List Nat
  | a :: b :: r => op a b :: treeLevel op r
  | l => l

/-- The levels of the tree, at most `n` of them. -/
def treeLevels (op : Nat → Nat → Nat) : Nat → List Nat → List Nat
  | 0, l => l
  | n + 1, l => treeLevels op n (treeLevel op l)

/-- R138: the fixed tree over a list; its shape depends only on the length. -/
def fixedTree (op : Nat → Nat → Nat) (l : List Nat) : Nat :=
  (treeLevels op 20 l).headD 0

/-- `l` cut into consecutive runs of `n` values. -/
def chunksOf (n : Nat) : Nat → List Nat → List (List Nat)
  | 0, _ => []
  | k + 1, l => l.take n :: chunksOf n k (l.drop n)

/-- R138: across-lane reduction in groups of 2^g lanes; group i's result in lane i, +0 elsewhere. -/
def reduceLanes (op : Nat → Nat → Nat) (g : Nat) (l : List Nat) : List Nat :=
  let n := 256 / 2 ^ g
  (chunksOf (2 ^ g) n l).map (fixedTree op) ++ List.replicate (256 - n) 0

/-- Column `i` of a list of vectors. -/
def columnOf (vs : List (List Nat)) (i : Nat) : List Nat := vs.map (fun v => v.getD i 0)

/-- R139: the tree over the vector index, lane by lane, of 256 elements. -/
def streamTree (op : Nat → Nat → Nat) (vs : List (List Nat)) : List Nat :=
  (List.range 256).map (fun i => fixedTree op (columnOf vs i))

/-- R140: the correctly rounded FP32 reciprocal of a vector count. -/
def recipCount (n : Nat) : Nat := layout32.rne (Num.one.div (Num.ofInt n))

/-- R140 mode 0 or 1 for one lane: (mean or +0, rstd argument RNE(var + eps), var or ms). -/
def nstatLane (mode n eps : Nat) (xs : List Nat) : Nat × Nat × Nat :=
  let rn := recipCount n
  let add := addBits .fp32
  let mul := mulBits .fp32
  if mode = 0 then
    let mean := mul (fixedTree add xs) rn
    let sq := xs.map (fun x => let d := subBits .fp32 x mean; mul d d)
    let var := mul (fixedTree add sq) rn
    (mean, add var eps, var)
  else
    let ms := mul (fixedTree add (xs.map (fun x => mul x x))) rn
    (0, add ms eps, ms)

/-! ## Format conversion (R132) -/

/-- One converted element of CVT with the three INT8 constants f, 1/f and z (FP32 patterns), for
formats without a block scale. The E8M0 rules are R132's. -/
def cvtElem (src dst : Fmt) (sat : Bool) (fC invC zC : Nat) (scale b : Nat) : Nat × Tally :=
  let z := (layout32.decode zC).toInt
  match dst with
  | .int8 => quantInt8 (src.decodeScaled scale b) (layout32.decode invC) z
  | .e8m0 =>
    match src.decodeScaled scale b with
    | .nan => (0xFF, { total := 1, nan := 1 })
    | .inf _ => (0xFF, { total := 1, nan := 1 })
    | .fin _ m e =>
      if m = 0 then (0, { total := 1 })
      else
        let x := flog2 m e
        if x ≥ 128 then (0xFE, { total := 1, sat := 1 })
        else if x < -127 then (0, { total := 1, ftz := 1 })
        else (e8m0OfExp x, { total := 1 })
  | .int32 =>
    match src with
    | .int8 => (unsigned 32 (signed 8 b), { total := 1 })
    | _ => toInt32 (src.decodeScaled scale b)
  | dst =>
    match dst.layout with
    | none => (b, { total := 1 })
    | some l =>
      match src with
      | .int8 => dequantInt8 l sat b (layout32.decode fC) z
      | _ =>
        match src.decodeScaled scale b with
        | .nan => if src.isMx && scale == 0xFF then l.convert sat .nan else convBits src dst sat b
        | v => l.convert sat v

/-- R60, R132: MX blocks of 32 source values: the elements, the scale codes and the counts. -/
def cvtMx (dst : Fmt) : Nat → List Num → List Nat × List Nat × Tally
  | 0, _ => ([], [], {})
  | k + 1, vs =>
    let (s, es, t) := quantMx dst (vs.take 32)
    let (es', ss, t') := cvtMx dst k (vs.drop 32)
    (es ++ es', s :: ss, t.add t')

/-- R132: how many elements one CVT converts. -/
def cvtCount (src dst : Fmt) : Nat :=
  if dst.width < 16 then elemCount src
  else if src.width < 16 then elemCount dst
  else min (elemCount src) (elemCount dst)

end Sys2Proof.Machine
end

