-- ==== Sys2Proof/Machine/Special.lean ====
section
/-! DEFINITION. Special-function primitives, user tables and composed functions (R149–R156). A finite
result that the coefficients would give is one of the FP32 values within the stated bound of the exact
function value; which one is a free value (`Config.sfeChoice`). -/
namespace Sys2Proof.Machine

/-! ## Reference values: exact functions to well over 100 bits -/

/-- ln 2 · 2^160, rounded. -/
def ln2Fix : Nat := 1013035739299659071135698605846798551586536899366

/-- (2/√π) · 2^192, rounded. -/
def twoOverSqrtPiFix : Nat := 7082950827949419406546779429796514218173736946937360083502

/-- Σ y^k/k! for 0 ≤ y < 1 in units of 2^-160, by `n` more terms from term number k. -/
def expSeries (y : Nat) : Nat → Nat → Nat → Nat → Nat
  | 0, _, _, acc => acc
  | n + 1, k, term, acc =>
    let t := term * y / 2 ^ 160 / k
    expSeries y n (k + 1) t (acc + t)

/-- 2^(f / 2^160) for a fraction f, in units of 2^-160. -/
def exp2Fix (f : Nat) : Nat := expSeries (f * ln2Fix / 2 ^ 160) 40 1 (2 ^ 160) (2 ^ 160)

/-- A nonnegative or negative value in units of 2^-160, rounded down; for finite values. -/
def toFix (v : Num) : Int := (v.scale 160).floor

/-- 2^t for an exact finite t: floor and fraction apart. -/
def exp2Ref (t : Num) : Num :=
  let n := t.floor
  let f := (toFix (t.sub (Num.ofInt n))).toNat
  .fin false (exp2Fix f) (n - 160)

/-- e^t for an exact finite t with |t| < 2^20. -/
def expRef (t : Num) : Num :=
  exp2Ref (.fin (decide (toFix t < 0)) ((toFix t).natAbs * 2 ^ 160 / ln2Fix) (-160))

/-- Σ t^(2k+1)/(2k+1) in units of 2^-160. -/
def atanhSeries (t2 : Nat) : Nat → Nat → Nat → Nat → Nat
  | 0, _, _, acc => acc
  | n + 1, k, pw, acc => atanhSeries t2 n (k + 2) (pw * t2 / 2 ^ 160) (acc + pw / k)

/-- log2 of m · 2^e, m > 0. -/
def log2Ref (m : Nat) (e : Int) : Num :=
  let x := flog2 m e
  -- the significand in [1, 2) in units of 2^-160
  let r := m * 2 ^ 160 / 2 ^ Nat.log2 m
  let t := (r - 2 ^ 160) * 2 ^ 160 / (r + 2 ^ 160)
  let ln := 2 * atanhSeries (t * t / 2 ^ 160) 56 1 t 0
  Num.add (Num.ofInt x) (.fin false (ln * 2 ^ 160 / ln2Fix) (-160))

/-- erf of x in units of 2^-192 by its alternating series, 0 ≤ x < 4. -/
def erfSeries (x2 : Nat) : Nat → Nat → Int → Int → Int
  | 0, _, _, acc => acc
  | n + 1, k, term, acc =>
    -- term = ± x^(2k+1)/k!
    let t := -(term * x2 / (2 ^ 192 : Nat) / (k + 1 : Nat))
    erfSeries x2 n (k + 1) t (acc + t / (2 * k + 3 : Nat))

/-- erf of a nonnegative value below 4. -/
def erfRef (v : Num) : Num :=
  let x := ((v.scale 192).floor).toNat
  let s := erfSeries (x * x / 2 ^ 192) 120 0 (x : Int) (x : Int)
  .fin false ((s * twoOverSqrtPiFix / (2 ^ 192 : Nat)).toNat) (-192)

/-! ## A result within the stated bound -/

/-- |a − b| ≤ k ulp of the exact result `a`, the ulp being 2^-149 below the normal range (R149). -/
def withinUlp (k : Nat) (a b : Num) : Bool :=
  let u : Num := .fin false k (max (a.expo - 23) (-149))
  match (a.sub b).abs with
  | .fin _ m e => !(u.lt (.fin false m e))
  | _ => false

/-- R149: a nonnegative FP32 result within `k` ulp of the exact value `ref`: the candidate that
`choice` picks among the nearest FP32 value and its neighbours inside the bound. -/
def pickWithin (k choice : Nat) (ref : Num) : Nat :=
  let r := layout32.rne ref
  if (layout32.decode r).isInf then r else
  let near := (List.range (2 * k + 1)).map (fun i => r + i - k)
  let ok := near.filter (fun b => (layout32.decode b).isFin && withinUlp k ref (layout32.decode b))
  ok.getD (choice % ok.length) r

/-- `pickWithin` for a value of either sign. -/
def pickSigned (k choice : Nat) (ref : Num) : Nat :=
  pickWithin k choice ref.abs + (if ref.sign then 2 ^ 31 else 0)

/-- The seven primitives of R149, in opcode order. -/
inductive Prim where
  | exp2 | log2 | rcp | rsqrt | sqrtS | tanh | logistic
  deriving DecidableEq, Repr

/-- Number of a primitive, the low bits of its opcode; 7 stands for the internal erf table. -/
def Prim.num : Prim → Nat
  | .exp2 => 0 | .log2 => 1 | .rcp => 2 | .rsqrt => 3 | .sqrtS => 4 | .tanh => 5 | .logistic => 6

/-- R149: the bound of a primitive in ulp; profile 1 is native, 0 Kenis. -/
def Prim.bound : Prim → Nat → Nat
  | .exp2, p | .log2, p | .rsqrt, p => if p = 1 then 1 else 2
  | .rcp, _ | .sqrtS, _ => 1
  | .tanh, p | .logistic, p => if p = 1 then 2 else 3

/-- FP32 patterns of the special values. -/
def fpOne : Nat := 0x3F800000
def fpInf : Nat := 0x7F800000
def fpNInf : Nat := 0xFF800000
def fpNaN : Nat := 0x7FC00000
def fpHalf : Nat := 0x3F000000
def fpNZero : Nat := 0x80000000
def fpNOne : Nat := 0xBF800000

/-- How a primitive takes its FP32 result from the operand bits and the exact value. -/
abbrev Pick := Nat → Num → Nat

/-- R149: a result from the tables, free within the bound. -/
def Prim.tabled (pr : Prim) (prof : Nat) : Pick := fun x ref => pickSigned (pr.bound prof) (Config.sfeChoice prof pr.num x) ref

/-- The correctly rounded result, which lies in every bound and is monotone. -/
def roundedPick : Pick := fun _ ref => layout32.rne ref

/-- R152: is a positive argument one of the two seams at which TANH steps back in profile 0. -/
def tanhSeam (x : Nat) : Bool := x % 2 ^ 31 == 0x3F220000 || x % 2 ^ 31 == 0x40340000

/-- R149: the exact hyperbolic tangent of a positive finite argument. -/
def tanhRef (x : Nat) : Num :=
  let e := expRef ((layout32.decode x).scale 1)
  (e.sub .one).div (e.add .one)

/-- R149, R152: TANH of a positive finite argument. In profile 0 the two seams of R152 lie one ulp
below the next lower input's result. -/
def tanhPos (pick : Pick) (prof x : Nat) : Nat :=
  let v := layout32.decode x
  if v.lt (.fin false 1 (-12)) then x
  else if !(v.lt (.fin false 16 0)) then fpOne
  else if prof = 0 ∧ tanhSeam x then pick (x - 1) (tanhRef (x - 1)) - 1
  else pick x (tanhRef x)

/-- R149: LOGISTIC of a nonzero finite argument. -/
def logisticFin (pick : Pick) (x : Nat) : Nat :=
  let v := layout32.decode x
  if v.abs.lt (.fin false 1 (-12)) then layout32.rne ((v.scale (-2)).add (.fin false 1 (-1)))
  else if !v.sign && !(v.lt (.fin false 32 0)) then fpOne
  else if v.sign && !(Num.lt (.fin true 128 0) v) then 0
  else
    let e := expRef v.abs
    pick x (if v.sign then Num.one.div (Num.one.add e) else e.div (Num.one.add e))

/-- R149: one primitive in profile `prof` under a choice of its results, special values by the second table. -/
def primWith (pick : Pick) (prof : Nat) (pr : Prim) (x : Nat) : Nat :=
  match firstNaN layout32 [x] with
  | some n => n
  | none =>
    let v := layout32.decode x
    match pr with
    | .exp2 =>
      match v with
      | .inf s => if s then 0 else fpInf
      | v =>
        if v.isZero then fpOne
        else if !(v.lt (.fin false 128 0)) then fpInf
        else if v.lt (.fin true 151 0) then 0
        else pick x (exp2Ref v)
    | .log2 =>
      match v with
      | .inf s => if s then fpNaN else fpInf
      | .fin s m e =>
        if m = 0 then fpNInf
        else if s then fpNaN
        else pick x (log2Ref m e)
      | .nan => fpNaN
    | .rcp =>
      match v with
      | .inf s => if s then fpNZero else 0
      | v =>
        if v.isZero then (if v.sign then fpNInf else fpInf)
        else if prof = 1 then layout32.rne (Num.one.div v)
        else pick x (Num.one.div v)
    | .rsqrt =>
      match v with
      | .inf s => if s then fpNaN else 0
      | v =>
        if v.isZero then (if v.sign then fpNInf else fpInf)
        else if v.sign then fpNaN
        else pick x ((Num.one.div v).sqrt)
    | .sqrtS =>
      match v with
      | .inf s => if s then fpNaN else fpInf
      | v =>
        if v.isZero then x
        else if v.sign then fpNaN
        else if prof = 1 then layout32.rne v.sqrt
        else pick x v.sqrt
    | .tanh =>
      match v with
      | .inf s => if s then fpNOne else fpOne
      | v =>
        if v.isZero then x
        else if v.sign then tanhPos pick prof (x - 2 ^ 31) + 2 ^ 31
        else tanhPos pick prof x
    | .logistic =>
      match v with
      | .inf s => if s then 0 else fpOne
      | v => if v.isZero then fpHalf else logisticFin pick x

/-- R151: are the results `f` of two inputs in the order of a primitive: rising with the input, or for RCP and RSQRT
falling within each sign. -/
def Prim.ordered (pr : Prim) (f : Nat → Nat) (x y : Nat) : Bool :=
  let below := fun a b => (layout32.decode a).lt (layout32.decode b)
  if pr = .rcp ∨ pr = .rsqrt then x / 2 ^ 31 != y / 2 ^ 31 || !(below x y) || !(below (f x) (f y))
  else !(below x y) || !(below (f y) (f x))

/-- R149, R152: do the two seams of TANH in profile 0 stay in the bound of 3 ulp. -/
def seamsFit (pick : Pick) : Bool :=
  [0x3F220000, 0x40340000].all (fun x => withinUlp 3 (tanhRef x) (layout32.decode (tanhPos pick 0 x)))

/-- R151, R152: is a choice of results monotone over the whole FP32 domain; in profile 0 the seams of TANH apart, which stay in
their bound. -/
@[irreducible] def Prim.monotone (pr : Prim) (prof : Nat) (pick : Pick) : Bool :=
  (prof != 0 || pr != .tanh || seamsFit pick) && decide (∀ x, x < 2 ^ 32 → ∀ y, y < 2 ^ 32 →
    (prof = 0 ∧ pr = .tanh ∧ (tanhSeam x = true ∨ tanhSeam y = true)) ∨ pr.ordered (primWith pick prof pr) x y = true)

/-- R149, R151: the free results where they are monotone, else the correctly rounded ones: any results that the spec
allows, and no others. -/
def Prim.pick (pr : Prim) (prof : Nat) : Pick :=
  if pr.monotone prof (pr.tabled prof) then pr.tabled prof else roundedPick

/-- R149: one primitive in profile `prof`. -/
def primBits (prof : Nat) (pr : Prim) (x : Nat) : Nat := primWith (pr.pick prof) prof pr x

/-! ## User tables (R153, R154) -/

/-- A user table: the header fields of R153 and its coefficients c0 … c3 per segment, FP32. -/
structure UTable where
  lo      : Nat
  hi      : Nat
  scale   : Nat
  log2Seg : Nat
  outLo   : Nat
  outHi   : Nat
  coef    : List Nat
  deriving DecidableEq, Repr

/-- The polynomial step of R154 with coefficients c0 … c3. -/
def cubic (c0 c1 c2 c3 u : Nat) : Nat :=
  fmaBits .fp32 (fmaBits .fp32 (fmaBits .fp32 c3 u c2) u c1) u c0

/-- R154: one lookup. -/
def utabBits (t : UTable) (x : Nat) : Nat :=
  match firstNaN layout32 [x] with
  | some n => n
  | none =>
    let v := layout32.decode x
    if v.lt (layout32.decode t.lo) then t.outLo
    else if !(v.lt (layout32.decode t.hi)) then t.outHi
    else
      let d := layout64.rne (v.sub (layout32.decode t.lo))
      let q := layout64.rne ((layout64.decode d).mul (layout32.decode t.scale))
      let seg : Int := (2 ^ t.log2Seg : Nat)
      let qv := layout64.decode q
      -- an overflowing product clamps to the last segment
      let k := if qv.isInf then seg - 1 else max 0 (min (seg - 1) qv.floor)
      let u := layout32.rne (qv.sub (Num.ofInt k))
      let c (i : Nat) : Nat := t.coef.getD (4 * k.toNat + i) 0
      cubic (c 0) (c 1) (c 2) (c 3) u

/-! ## Composed functions (R156) -/

/-- R156: LOG2E and LN2 in FP64. -/
def cLog2e : Num := layout64.decode 0x3FF71547652B82FE
def cLn2 : Num := layout64.decode 0x3FE62E42FEFA39EF
/-- R156: K0, K1 and R2, the FP32 values nearest to the decimals given. -/
def cK0 : Nat := 0x3F4C422A
def cK1 : Nat := 0x3D122279
def cR2 : Nat := 0x3F3504F3

/-- R156: expt of an exact argument t that is not a NaN. -/
def expt (prof : Nat) (t : Num) : Nat :=
  match t with
  | .nan => fpNaN
  | .inf s => if s then 0 else fpInf
  | t =>
    let n := max (-300) (min 300 t.toInt)
    let f := layout32.rne (t.sub (Num.ofInt n))
    layout32.rne ((layout32.decode (primBits prof .exp2 f)).scale n)

/-- R156: EXP. -/
def expBits (prof x : Nat) : Nat :=
  match firstNaN layout32 [x] with
  | some n => n
  | none => expt prof ((layout32.decode x).mul cLog2e)

/-- R156: LN. -/
def lnBits (prof x : Nat) : Nat :=
  arith1 layout32 (fun y => y.mul cLn2) (primBits prof .log2 x)

/-- R156: POW, the first case that applies. -/
def powBits (prof x y : Nat) : Nat :=
  let vx := layout32.decode x
  let vy := layout32.decode y
  if vy.isZero || vx.eq .one then fpOne
  else match firstNaN layout32 [x, y] with
  | some n => n
  | none =>
    if x = fpNZero || (vx.sign && !vx.isZero) then fpNaN
    else if vx.isZero || vx.isInf then
      (if vx.isZero = vy.sign then fpInf else 0)
    else expt prof (vy.mul (layout32.decode (primBits prof .log2 x)))

/-- R156: ERF; the internal table's value is within 2 ulp of the exact one. DESIGN CHOICE (log 158): the bound is stated for
profile 1, and the model takes it in profile 0 too. -/
def erfBits (prof x : Nat) : Nat :=
  match firstNaN layout32 [x] with
  | some n => n
  | none =>
    let a := x % 2 ^ 31
    let v := layout32.decode a
    let r := if v.lt (.fin false 4 0) then pickWithin 2 (Config.sfeChoice prof 7 a) (erfRef v)
      else fpOne
    r + (if x ≥ 2 ^ 31 then 2 ^ 31 else 0)

/-- R156: the GELU shape FMA(h, t, h) with h = RNE(0.5 × x), ±Inf by the closing rule. -/
def geluBits (t : Nat → Nat) (x : Nat) : Nat :=
  match firstNaN layout32 [x] with
  | some n => n
  | none =>
    if x = fpInf then fpInf else if x = fpNInf then 0 else
    let h := mulBits .fp32 fpHalf x
    fmaBits .fp32 h (t x) h

/-- R156: GELU in tanh form. -/
def geluTanhBits (prof x : Nat) : Nat :=
  geluBits (fun x =>
    let u := mulBits .fp32 x x
    let z := mulBits .fp32 x (fmaBits .fp32 cK1 u cK0)
    primBits prof .tanh z) x

/-- R156: GELU in erf form. -/
def geluErfBits (prof x : Nat) : Nat := geluBits (fun x => erfBits prof (mulBits .fp32 x cR2)) x

/-- R156: SILU. The product −Inf × LOGISTIC(−Inf) follows the step as written. -/
def siluBits (prof x : Nat) : Nat := mulBits .fp32 x (primBits prof .logistic x)

/-- R156: SOFTPLUS. -/
def softplusBits (prof x : Nat) : Nat :=
  match firstNaN layout32 [x] with
  | some n => n
  | none =>
    if x = fpInf then fpInf else if x = fpNInf then 0 else
    let u := expBits prof (x % 2 ^ 31 + 2 ^ 31)
    let w := addBits .fp32 fpOne u
    let g := if w = fpOne then u
      else divBits .fp32 (mulBits .fp32 (lnBits prof w) u) (subBits .fp32 w fpOne)
    addBits .fp32 (maxBits .fp32 x 0) g

/-- R141: the running maximum and the correction of one lane. -/
def smxStep (prof m mb : Nat) : Nat × Nat :=
  let mn := maxBits .fp32 m mb
  (mn, if mn = fpNInf then fpOne else expBits prof (subBits .fp32 m mn))

end Sys2Proof.Machine
end

