-- ==== Sys2Proof/Machine/Store.lean ====
section
/-! DEFINITION. Sparse maps in one canonical form: keys strictly rising, no entry equal to what an
unlisted key reads as. Memory, registers and every numbered collection of the module use them. -/
namespace Sys2Proof.Machine

/-- A sparse map from addresses or numbers to values. -/
abbrev KMap (α : Type) := List (Nat × α)

/-- The value at `k`, or `d` where `k` is not listed. -/
def kget {α : Type} (d : α) (m : KMap α) (k : Nat) : α :=
  match m with
  | [] => d
  | (k', v) :: r => if k = k' then v else kget d r k

/-- Puts `v` at `k` whatever the default is. -/
def kput {α : Type} (m : KMap α) (k : Nat) (v : α) : KMap α :=
  match m with
  | [] => [(k, v)]
  | (k', v') :: r =>
    if k < k' then (k, v) :: (k', v') :: r
    else if k = k' then (k, v) :: r
    else (k', v') :: kput r k v

/-- Takes the entry at `k` out. -/
def kdel {α : Type} (m : KMap α) (k : Nat) : KMap α := m.filter (fun p => p.1 ≠ k)

/-- Writes `v` at `k`; writing the default takes the entry out. -/
def kset {α : Type} [DecidableEq α] (d : α) (m : KMap α) (k : Nat) (v : α) : KMap α :=
  if v = d then kdel m k else kput m k v

/-- Changes the value at `k`. -/
def kmod {α : Type} [DecidableEq α] (d : α) (m : KMap α) (k : Nat) (f : α → α) : KMap α :=
  kset d m k (f (kget d m k))

/-- Every key of `m` is above `b`. -/
def kabove {α : Type} (b : Nat) (m : KMap α) : Bool :=
  m.all (fun p => b < p.1)

/-- Keys strictly rising. -/
def ksorted {α : Type} : KMap α → Bool
  | [] => true
  | (k, _) :: r => kabove k r && ksorted r

/-- The canonical form of a map whose default may depend on the key. -/
def kwf {α : Type} [DecidableEq α] (d : Nat → α) (m : KMap α) : Bool :=
  ksorted m && m.all (fun p => !(decide (p.2 = d p.1)))

end Sys2Proof.Machine
end

