-- ==== Sys2Proof/Machine/State.lean ====
section
/-! DEFINITION. The state of one module as plain data, its reset value, and the reasons a step can stop. -/
namespace Sys2Proof.Machine

/-- Why the machine stops with a fault. The spec gives every event of the module a continuation, so no
command raises one: the type has no constructor. Safe. -/
inductive Fault where
  deriving DecidableEq, Repr

/-- Why a command has no meaning. -/
inductive Refusal where
  /-- Raised by `exec` for a command whose meaning is not written; `mnemonic` names its row. Safe. -/
  | notModelled (mnemonic : String)
  deriving DecidableEq, Repr

/-! ## Module, power, time -/

/-- The device states of R37. -/
inductive ModState where
  | off | powering | selftest | ready | loaded | running | halted | faulted
  deriving DecidableEq, Repr

/-- The pins of J4 (R535) that the module drives or samples. -/
structure Pins where
  pwrEn      : Bool := true
  pwrGood    : Bool := false
  modResetN  : Bool := true
  faultN     : Bool := true
  thermAlertN : Bool := true
  leakN      : Bool := true
  ppsOut     : Bool := false
  ref10m     : Bool := false
  slotId     : Nat := 0
  deriving DecidableEq, Repr

/-- Power conversion, ceilings and limiter history (R477, R526, R527, R539, R541, R542): phases switched off
by rail, the ceilings, whether limiter holds act, the last power samples in mW (newest first), microseconds
sampled, microseconds above 1,600 W without a break, whether the 10 ms row is lowering, 100 µs samples above
and below the thermal thresholds and with the alert on, the thresholds crossed, and energy below 1 mJ. -/
structure Power where
  inRange     : Bool := true
  railsUp     : Bool := false
  shed        : List (Nat × Nat) := []
  limiterCeil : Nat := 16
  thermCeil   : Nat := 16
  regCeil     : Nat := 16
  holding     : Bool := false
  samples     : List Nat := []
  ticks       : Nat := 0
  overRun     : Nat := 0
  lowering    : Bool := false
  hotTicks    : Nat := 0
  coolTicks   : Nat := 0
  alertTicks  : Nat := 0
  crossed     : Nat := 0
  energyNj    : Nat := 0
  deriving DecidableEq, Repr

/-- A scheduled batten (R523). -/
structure Batten where
  id    : Nat
  scope : Nat
  t     : Nat
  at_   : Nat
  deriving DecidableEq, Repr

/-- Module time, PTP servo and battens (R519–R524). -/
structure TimeUnit where
  now        : Nat := 0
  frac       : Nat := 0
  rate       : Int := 0
  batten     : Option Batten := none
  shadows    : List (Nat × Word) := []
  lastSync   : Nat := 0
  lastPps    : Nat := 0
  deriving DecidableEq, Repr

/-! ## Storage -/

/-- One chip-cache line (R224): physical line number PA/256, its way, owner context, dirty, its 256 bytes and
the poison of its 32 words. `hoist` tags an unconfirmed line (R265): the order of its hoist, and the bytes it landed, bit b for
byte b. -/
structure CLine where
  line   : Nat
  way    : Nat
  ctx    : Nat
  dirty  : Bool
  data   : List Byte
  poison : List Bool
  hoist  : Option (Nat × Nat) := none
  deriving DecidableEq, Repr

/-- One core-cache line (R227): physical line number PA/128, its way, its bytes and the poison of its words. -/
structure KLine where
  line   : Nat
  way    : Nat
  data   : List Byte
  poison : List Bool
  deriving DecidableEq, Repr

/-- Per stack: refresh postponement (R221), patrol position (R222), free frames of the KV pool and the
page ledger (R200), gather window and the codewords that the gather read in progress shares with it (R233). -/
structure Stack where
  postponed : KMap Nat := []
  patrolled : Nat := 0
  ledger    : KMap (BitVec 32) := []
  window    : List (Nat × Nat) := []
  joined    : List Nat := []
  deriving DecidableEq, Repr

/-! ## Engines of one core -/

/-- A vector register (R129, R131): 256 lanes and their poison bits. -/
structure VReg where
  lanes  : List Nat
  poison : List Bool
  deriving DecidableEq, Repr

/-- A register of zeros without poison. -/
def VReg.zero : VReg := ⟨List.replicate 256 0, List.replicate 256 false⟩

/-- Where a matrix pass stands (R95–R97, R115). -/
inductive PassPhase where
  | queued      -- issued, its stream not started
  | shifted     -- its preload has shifted in
  | streamed    -- its tile stands finished in its bank
  | failed      -- a check failed; its replay is due
  | drained     -- every check passed; write-back under way
  deriving DecidableEq, Repr

/-- A matrix pass in flight (R93, R110): sequence number, context, descriptor words with loop strides
applied, run-time shape, K position at which its stream begins, the row-scale factors and the preload buffer
it holds, whether a save left it a partial tile, its result cells (row × 64 + column; in split-mantissa mode
an integer), its NaN cells in that mode, the valid rows and columns it streamed, the columns (engine × 64 +
column) whose comparison is skipped (1) or fails (2), whether it met poison, the engines whose check failed
once, and the microbatch it issued in (R441). -/
structure Pass where
  seq      : Nat
  ctx      : Nat
  plan     : Nat
  words    : List Word
  m        : Nat
  n        : Nat
  k        : Nat
  kFrom    : Nat := 0
  phase    : PassPhase := .queued
  rowScale : Option (List Nat) := none
  pre      : KMap Int := []
  resumed  : Bool := false
  cells    : KMap Int := []
  nanCells : List Nat := []
  poison   : Bool := false
  rows     : List Nat := []
  cols     : List Nat := []
  checks   : KMap Nat := []
  replay   : List Nat := []
  micro    : Nat := 0
  ord      : Nat × Nat := (0, 0)
  deriving DecidableEq, Repr

/-- One column of the split-mantissa drain path (R99, R142): per row the integer, the exponent sum and
the NaN mark of R74; and the context whose pass drained it. -/
structure SmColumn where
  ctx  : Nat := 0
  vals : List (Int × Int × Bool)
  deriving DecidableEq, Repr

/-- A user-table slot (R155) with the loader's copy of its initial content. -/
structure TSlot where
  initial : Option UTable := none
  active  : Option UTable := none
  shadow  : Option UTable := none
  epoch   : Nat := 0
  waiting : Nat := 0
  deriving DecidableEq, Repr

/-- A small-matrix routine in progress (R143, R148), numbered as the items of its core are. -/
structure Routine where
  ctx   : Nat
  plan  : Nat
  words : List Word
  batch : Nat
  num   : Nat := 0
  group : Nat := 0
  deriving DecidableEq, Repr

/-- A layout operation in progress (R295, R298). -/
structure LayoutOp where
  seq   : Nat
  ctx   : Nat
  plan  : Nat
  words : List Word
  sizes : List Nat
  edge  : List Nat := []
  tile  : Nat := 0
  deriving DecidableEq, Repr

/-- Where an access-engine descriptor stands (R247, R314). -/
inductive AePhase where
  | ready                                -- may move its next granule
  | walking (va : Nat) (write : Bool)    -- waits for a table walk
  | cow (va : Nat)                       -- waits for a copy-on-write service
  | parked                               -- parked on a translation fault
  | fenced                               -- its write waits for the retire fence
  | waiting                              -- waits for a FIFO, a hoist, credit, the host or another module
  | finished                             -- every granule done; waits to retire in order
  deriving DecidableEq, Repr

/-- An access-engine descriptor in a queue (R245, R247): its number on its core, context, words with loop strides
applied, run-time sizes, the K positions at which its sliced lines are cut (R69), whether it has started, its next
granule (or vector, index, element), where it stands, what it counted and what its host granule under way counts,
whether it ever parked; what the host has returned by virtual address, what is still to be asked
for and how many host messages are unanswered, whether the granule's host write has been sent; vectors popped for
a DRAIN_FIFO; whether a hoist is still to be confirmed; for a version-checked load its stage, slot, header as first read, whether the shard was loaded before in the step and
how often it ran; for a furl its packed, stored and poisoned counts; whether E_COW is recorded for its write. -/
structure AeItem where
  num      : Nat
  ctx      : Nat
  plan     : Nat
  words    : List Word
  sizes    : List Nat
  edge     : List Nat := []
  cuts     : List (Nat × Bool) := []
  started  : Bool := false
  next     : Nat := 0
  phase    : AePhase := .ready
  tally    : Tally := {}
  gran     : Tally := {}
  resumed  : Bool := false
  host     : List (Nat × List (Byte × Bool)) := []
  need     : List (Nat × Nat) := []
  wait     : Nat := 0
  wrote    : Bool := false
  paid     : Nat := 0
  short    : Bool := false
  buf      : List VReg := []
  confirm  : Bool := false
  vstage   : Nat := 0
  slot     : Nat := 0
  header   : List Byte := []
  again    : Bool := false
  tries    : Nat := 0
  packed   : Nat := 0
  stored   : Nat := 0
  poisoned : Nat := 0
  cowed    : Bool := false
  deriving DecidableEq, Repr

/-- A retire-fence entry (R254): byte range of the core store and its owner (kind and number). -/
structure FenceRange where
  lo    : Nat
  hi    : Nat
  ctx   : Nat
  kind  : Nat
  owner : Nat
  deriving DecidableEq, Repr

/-- A TLB entry (R310): address space, page base and size, the PTE and the level of its leaf. -/
structure TlbEntry where
  asid  : Nat
  base  : Nat
  size  : Nat
  pte   : Word
  level : Nat
  deriving DecidableEq, Repr

/-- A page operation in progress (R197, R198): its number on its core, the pages it runs over and its next one. -/
structure PageOp where
  ctx   : Nat
  words : List Word
  count : Nat
  num   : Nat := 0
  page  : Nat := 0
  phase : AePhase := .ready
  deriving DecidableEq, Repr

/-- A loop of a program (R353, R354); `micro` when it runs over the accumulation count (SOURCE 1). -/
structure LoopFrame where
  count     : Nat
  iter      : Nat := 0
  descStep  : Nat
  thrStep   : Nat
  micro     : Bool := false
  deriving DecidableEq, Repr

/-- A SIGNAL whose increment is still to come (R353): its counter, its increment, and the earlier items that had not
retired when it was issued, each by kind and number. -/
structure Signal where
  cnt    : Nat
  inc    : Nat
  before : List (Nat × Nat) := []
  deriving DecidableEq, Repr

/-- The sequencer of one core for one context (R352–R354); `passes` and `steps` number the matrix passes and the online
softmax steps it has issued in the phase. -/
structure Seq where
  loops   : List LoopFrame := []
  waitCnt : Option (Nat × Nat × Bool) := none
  signals : List Signal := []
  skip    : Nat := 0
  ended   : Bool := false
  passes  : Nat := 0
  steps   : Nat := 0
  deriving DecidableEq, Repr

/-- A hoist and its watch entry (R265–R271): its core, context, identifier and descriptor number, the slice pair,
the physical source range (empty for a host source), words and sizes, allocation order, whether a write touched
the source, whether it landed, whether it can still be confirmed, whether it holds its watch entry, the slice of that entry,
the version it read, its counts, the source bytes by virtual address, and what it still waits for from the host. -/
structure Hoist where
  core     : Nat
  ctx      : Nat
  id       : Nat
  num      : Nat
  pair     : Nat
  lo       : Nat
  hi       : Nat
  words    : List Word
  sizes    : List Nat
  edge     : List Nat := []
  src      : Nat
  dst      : Nat
  plan     : Nat
  order    : Nat
  stale    : Bool := false
  landed   : Bool := false
  usable   : Bool := true
  watched  : Bool := true
  slice    : Nat := 0
  version  : Word := 0
  tally    : Tally := {}
  bytes    : List (Nat × List (Byte × Bool)) := []
  need     : List (Nat × Nat) := []
  wait     : Nat := 0
  deriving DecidableEq, Repr

/-- Counts of a load that wait for the retire of an operation that reads what it wrote (R86, R87, R251): context,
site, code of the target format, the core-store bytes it wrote as [lo, hi), and the counts. -/
structure Due where
  ctx    : Nat
  site   : Nat
  fmt    : Nat
  ranges : List (Nat × Nat)
  tally  : Tally
  deriving DecidableEq, Repr

/-- The engines of one core. `slices` keeps, by core-store offset of digit plane 0 of a sliced element, the
exponent EA or EB of its line and whether the element is a NaN or infinity (R69, R74). `dues` keeps the counts of loads not yet consumed, and
`fillDue` those of the vectors in each input FIFO (format code and counts, one a vector), under 16 those of the
stream reduction under way (R251). `veCtx` is the context whose work the vector engines hold: the last that ran an instruction
there since a save. -/
structure Core where
  vregs    : KMap VReg := []
  slices   : KMap (Int × Bool) := []
  passes   : List Pass := []
  drainBusy : Bool := false
  rsFifo   : List (List Nat × Bool) := []
  smFifo   : List SmColumn := []
  fifos    : KMap (List VReg) := []
  dues     : List Due := []
  fillDue  : KMap (List (Nat × Tally)) := []
  veCtx    : Nat := 0
  passSeq  : Nat := 0
  veSeq    : Nat := 0
  sfeSeq   : Nat := 0
  leSeq    : Nat := 0
  leWaits  : Bool := false
  stream   : List VReg := []
  slots    : KMap TSlot := []
  routine  : Option Routine := none
  layouts  : List LayoutOp := []
  queues   : KMap (List AeItem) := []
  fence    : List FenceRange := []
  tlb      : List TlbEntry := []
  pageOps  : List PageOp := []
  cache    : KMap (List KLine) := []
  missed   : List Nat := []
  misses   : KMap (Nat × Nat) := []
  aeNum    : Nat := 0
  seqs     : KMap Seq := []
  veFails  : List (Bool × Nat) := []
  logits   : KMap Nat := []
  level    : Nat := 16
  deriving DecidableEq, Repr

/-! ## Translation and contexts -/

/-- A table walk (R311) of one 64 KiB page of a context, running or queued. Everything that waits for the page
takes its result. -/
structure Walk where
  ctx     : Nat
  va      : Nat
  running : Bool
  deriving DecidableEq, Repr

/-- A parked descriptor (R314–R317). `code` is 9 for E_XLATE_FAULT and 10 for E_PERM. `since` is when it parked, or, while
its context does not run, how long it had been parked; `item` is the number of the descriptor or page operation. -/
structure Park where
  core    : Nat
  ctx     : Nat
  engine  : Nat
  queue   : Nat
  granule : Nat
  va      : Nat
  write   : Bool
  code    : Nat
  since   : Nat
  item    : Nat := 0
  pool    : Option Nat := none
  deriving DecidableEq, Repr

/-- Where a copy-on-write stands (R201, R202): waiting for BUSY of its frame, keeping its frame, or copying into a
new one. -/
inductive CowStage where
  | busy | keep | copy (frame : Nat)
  deriving DecidableEq, Repr

/-- A copy-on-write in service (R201): the context, page and frame, by stack and frame of its pool; a frame outside
the pool has none. -/
structure Cow where
  ctx   : Nat
  va    : Nat
  stack : Nat
  frame : Option Nat
  stage : CowStage
  deriving DecidableEq, Repr

/-- A TLB invalidation still to be acknowledged (R312): address space and range, the frames (stack, frame) to
return, the page operation (core, number) or the halyard request (its envelope and code) that it completes. -/
structure Inval where
  asid  : Nat
  lo    : Nat
  hi    : Nat
  frees : List (Nat × Nat) := []
  op    : Option (Nat × Nat) := none
  reply : Option (Env × Nat) := none
  deriving DecidableEq, Repr

/-- A context (R318, R319, R346). `state` has the codes of R333. -/
structure Ctx where
  cls      : Nat := 0
  asid     : Nat := 0
  primary  : Nat := 0
  cores    : Nat := 0
  csBase   : Nat := 0
  csSize   : Nat := 0
  aeQueues : Nat := 0
  slots    : Nat := 0
  cntBase  : Nat := 0
  cntCount : Nat := 0
  saveBuf  : Nat := 0
  regions  : Nat := 0
  state    : Nat := 0
  code     : Nat := 0
  credit   : Nat := 0
  pending  : List Nat := []
  saved    : KMap Core := []
  deriving DecidableEq, Repr

/-- A host memory region entry (R455). -/
structure Region where
  base   : Nat := 0
  length : Nat := 0
  rkey   : Nat := 0
  qpA    : Nat := 0
  qpB    : Nat := 0
  deriving DecidableEq, Repr

/-- A placed memory-plan buffer (R348, R350): its entry words and the physical address of each part,
as (stack, physical base) in order. -/
structure Placed where
  id    : Nat
  words : List Word
  phys  : List (Nat × Nat)
  deriving DecidableEq, Repr

/-- The resident rig image: the selected sections by (type, instance), where its buffers lie, and what its sail plans state
of long-sequence attention. -/
structure Image where
  header   : List Word := []
  sections : List (Nat × Nat × List Word) := []
  digest   : Nat := 0
  placed   : List Placed := []
  fromCache : Bool := false
  seq      : SeqPlan := {}
  deriving DecidableEq, Repr

/-- A load in progress (R363–R366): the request it answers, the image, whether it comes from the flash cache, whether
the cache keeps it, and the cores fenced at the first sample. -/
structure Load where
  env     : Env
  image   : ImageFile
  cached  : Bool
  store   : Bool
  fence0  : Nat
  deriving DecidableEq, Repr

/-! ## Stays, collectives, track -/

/-- One stay (R372–R382): whether it is up or trains, its active lanes, those a self-test keeps out, its sequence
numbers, what it asks to have replayed, flits sent and not acknowledged, how often the first was replayed, flits that
wait to leave with the stay whose receive buffer holds them (12: this module's own), credits held and buffers
freed since the last control slot by class of buffer (R376), whether the lane set has changed since then (R379), flits of VC1 sent
since the last of VC3 (R382), slots sent of the present frame (R373), and the module and stay last seen at the far end. -/
structure Stay where
  up       : Bool := false
  training : Bool := false
  lanes    : Nat := 0
  excluded : Nat := 0
  txSeq    : Nat := 0
  rxSeq    : Nat := 0
  nak      : Option Nat := none
  replay   : List Flit := []
  tries    : Nat := 0
  waiting  : List (Flit × Nat) := []
  credits  : List Nat := [32, 96, 96, 192, 16, 16]
  freed    : List Nat := [0, 0, 0, 0, 0, 0]
  change   : Bool := false
  turn     : Nat := 0
  slot     : Nat := 0
  seen     : Nat × Nat := (0, 0)
  deriving DecidableEq, Repr

/-- Where a tackle operation stands (R387, R390, R402): armed, reading its source, in phase 0, moving data, done, or
failed. -/
inductive OpPhase where
  | armed | reading | phase0 | moving | done | failed
  deriving DecidableEq, Repr

/-- A tackle operation (R388–R408): its number in the section, the list, context, plans of its sources and destinations and phase index it was armed for,
where it stands, its own source elements (code, scale, poison), its counts from phase 0, the exponent vector, and by
result element the partial sums, the special marks and the poisoned ones; chunks verified by (source rank, chunk),
those asked for again, those it retains a copy of by (destination rank, chunk), the words it sent in phase 0, messages that came before its phase
0 ended, and what it has still to write: core store or memory, and the bits. -/
structure CollOp where
  op       : Nat
  list     : Nat := 0
  ctx      : Nat
  src      : Nat := 0
  plan     : Nat := 0
  pidx     : Nat := 0
  phase    : OpPhase := .armed
  own      : List (Nat × Nat × Bool) := []
  counts   : List Nat := []
  expo     : List Nat := []
  sums     : KMap Int := []
  specials : KMap Nat := []
  bad      : List Nat := []
  got      : List (Nat × Nat) := []
  asked    : List (Nat × Nat) := []
  retained : List (Nat × Nat) := []
  said     : List Word := []
  early    : List ChunkMsg := []
  writes   : List (Bool × KMap (Nat × Nat × Bool)) := []
  deriving DecidableEq, Repr

/-- A page that stands in a traveller buffer: its header, the byte of the direction's buffers at which its payload begins,
the byte ranges of a return page's valid tokens that the module has yet to store its part into, and whether the next module has
verified the copy sent on (R179, R194). -/
structure HeldPage where
  page  : Page
  place : Nat
  due   : List (Nat × Nat) := []
  acked : Bool := false
  deriving DecidableEq, Repr

/-- A traveller buffer that holds a ring step of a traveller (R179): the traveller's sequence number, its hops, which of the
direction's buffers it is, and how many descriptors that read it have retired. -/
structure TrackBuf where
  travel : Nat
  hop    : Nat
  index  : Nat
  reads  : Nat := 0
  deriving DecidableEq, Repr

/-- One direction of the track (R175–R185): whether a traveller is in circulation and whether the module's own pages of it
stand in a buffer, its ring step and sequence number, the sequence numbers of the first traveller of the step and of the step
before, credits from downstream and credits that buffers there still hold, in pages of 64 KiB; the last page verified of each
kind, hop and head; the buffers in use, the pages in them, the pages sent and kept until acknowledged, and the pages verified
and sent in all. -/
structure TrackDir where
  active   : Bool := false
  own      : Bool := false
  step     : Nat := 0
  travel   : Nat := 0
  opened   : Nat := 0
  before   : Nat := 0
  credits  : Nat := 0
  owed     : Nat := 0
  seen     : List PageId := []
  bufs     : List TrackBuf := []
  held     : List HeldPage := []
  kept     : List Page := []
  verified : Nat := 0
  pagesOut : Nat := 0
  deriving DecidableEq, Repr

/-! ## Host side -/

/-- A host port (R448–R460). -/
structure Port where
  enabled : Bool := true
  cak     : Option Nat := none
  paused  : Nat := 0
  badLanes : Nat := 0
  triedAt : Option Nat := none
  deriving DecidableEq, Repr

/-- The kinds of message that leave the module. -/
inductive SentKind where
  | response | notification | acknowledgement | helloM | authOk
  | closeNotice | releaseNotice | stepRecord | rdmaWrite | rdmaRead | rdmaNak | rdmaAck | flit | control | page | pageAck
  | pageResend | pageCredit | chunk | resendRequest | phase0 | remoteRequest | remoteResponse | ptp | mhRequest
  | aggregate | stackData
  deriving DecidableEq, Repr

/-- A message that left the module, with where it went and what it carried. -/
structure Sent where
  kind  : SentKind
  dest  : Nat := 0
  code  : Nat := 0
  status : Nat := 0
  words : List Word := []
  bytes : List Byte := []
  deriving DecidableEq, Repr

/-- A RoCEv2 message not yet acknowledged (R453): its PSN, its owner (an access-engine descriptor by core, queue
and number, queue 8 for a hoist, core 128 for the module itself), the address it serves, whether it reads, and the
message as sent. -/
structure Unacked where
  psn   : Nat
  core  : Nat
  queue : Nat
  num   : Nat
  va    : Nat
  read  : Bool
  msg   : Sent
  deriving DecidableEq, Repr

/-- A RoCEv2 queue pair (R452, R453, R457); `waiting` holds messages of the module itself that its port has no room for yet. -/
structure Qp where
  connected : Bool := false
  ctx       : Nat := 0
  primary   : Nat := 0
  onAlt     : Bool := false
  remote    : Nat := 0
  nextPsn   : Nat := 0
  ackPsn    : Nat := 0
  recvPsn   : Nat := 0
  unacked   : List Unacked := []
  waiting   : List Unacked := []
  rateLow   : Bool := false
  lastCnp   : Nat := 0
  deriving DecidableEq, Repr

/-- A stored halyard response (R464). -/
structure Response where
  seq    : Nat
  tag    : Nat
  code   : Nat
  status : Nat
  words  : List Word
  deriving DecidableEq, Repr

/-- A halyard session (R461–R464): its level (3 stands for M), a masthead's module number, every SEQ up to `received`
executed, requests that came ahead of an earlier one, SEQs of acknowledgements that came ahead, the last 64 responses,
when its last message came and when it opened, the SEQ of its next message to the client, and the event classes it
subscribes to. -/
structure Session where
  id        : Nat
  level     : Nat
  module    : Nat := 0
  received  : Nat := 0
  early     : List Instr := []
  ahead     : List Nat := []
  responses : List Response := []
  lastUse   : Nat := 0
  openedAt  : Nat := 0
  outSeq    : Nat := 1
  classes   : Nat := 0
  deriving DecidableEq, Repr

/-- A handshake in progress (R462). -/
structure Handshake where
  id    : Nat
  hello : Hello
  since : Nat
  deriving DecidableEq, Repr

/-- A notification not yet acknowledged (R464), or a masthead request not yet answered (R466). -/
structure Outgoing where
  session : Nat
  seq     : Nat
  code    : Nat
  words   : List Word
  sends   : Nat := 1
  deriving DecidableEq, Repr

/-! ## Step, ledger, flash, masthead -/

/-- What the training step holds besides its registers (R417–R441): whether a job runs, its block and the copy of
the last STEP_OPEN, the phase, whether the phase or its tack runs, whether every phase has ended, loss-scale
overflow, faulted primaries and fillers, the RELEASE notice sent, pairs dropped, the step's counts, version-checked
loads done, gradient shards whose header is acknowledged, what of the step record is still to be sent and to be
acknowledged, whether it was lost, whether the close notice is still due, a job start under way: its request
and the block to restore; and for shard headers (R423, R441) the acknowledged gradient bytes of each shard by offset, how often
each FP64 square of a gradient element occurs by parameter group and microbatch, and the members of each shard's reduction. -/
structure StepState where
  job       : Bool := false
  block     : JobBlock := {}
  copy      : Option JobBlock := none
  phase     : Nat := 0
  phaseOn   : Bool := false
  tackOn    : Bool := false
  atBoundary : Bool := false
  overflow  : Bool := false
  faulted   : Bool := false
  fillerFaulted : Bool := false
  released  : Bool := false
  drops     : Nat := 0
  telltales : KMap Tally := []
  gathered  : List (Nat × Nat) := []
  shardsOut : List Nat := []
  recDue    : List (Nat × List Byte) := []
  recWait   : Nat := 0
  recLost   : Bool := false
  noticeDue : Bool := false
  exports   : KMap (KMap Byte) := []
  squares   : KMap (KMap Nat) := []
  members   : KMap Nat := []
  pendingStart : Option (Env × Option JobBlock) := none
  deriving DecidableEq, Repr

/-- A buffered ledger entry (R488): open until `closes` for an absorbed one, due at once otherwise. -/
structure Buffered where
  item   : LedgerItem
  closes : Option Nat
  deriving DecidableEq, Repr

/-- A boot record copy (R553). -/
structure BootRec where
  seq       : Nat := 0
  preferred : Nat := 0
  trial     : Bool := false
  attempted : Bool := false
  crcOk     : Bool := true
  deriving DecidableEq, Repr

/-- A firmware slot (R553, R555): whether it verifies, and its image's VERSION, SVN and digest. -/
structure FwSlot where
  valid   : Bool := true
  version : Nat := 0
  svn     : Nat := 0
  digest  : Nat := 0
  deriving DecidableEq, Repr

/-- Module flash, fuses and what firmware keeps (R545–R556). A calibration rewrite lasts until `calUntil` (R548);
with `calDefaults` the block was damaged at the last POWERING and the module runs with defaults (R547). -/
structure Flash where
  boot0    : BootRec := { seq := 1 }
  boot1    : BootRec := {}
  slotA    : FwSlot := {}
  slotB    : FwSlot := {}
  runSlot  : Nat := 0xFF
  staged   : Option Nat := none
  fuseSvn  : Nat := 0
  reverted : Bool := false
  fallback : Bool := false
  recovery : Bool := false
  calEntries : List CalEntry := []
  calWrites : Nat := 0
  calDamaged : Bool := false
  calUntil : Nat := 0
  calDefaults : Bool := false
  owner    : Nat := 0
  ownerCount : Nat := 0
  ownerTime : Nat := 0
  cache    : List (Nat × ImageFile) := []
  ledger   : List LedgerItem := []
  boots    : Nat := 1
  deriving DecidableEq, Repr

/-- A key of the event intake (R516). -/
structure Key where
  kind     : Nat
  unitType : Nat
  unit     : Nat
  count    : Nat
  mask     : Nat
  deriving DecidableEq, Repr

/-- What a masthead holds (R418, R431–R437, R514–R518, R528): the newest telemetry record of each member and when
it came, the keys and overflow counters and detail queue of the intake, close notices of the step by member and when
the first came, whether the close is settled, the versions published, the step last opened, the counts set for later
steps, by their first step, and the count in force, modules that released the step, whether the next opening staggers the load, the stagger
under way (its start, its next wave), the group's ceiling, members marked missing, the SEQ of the next request to each member,
requests not yet answered, the SEQs
of the last notifications taken by session, and a batten request whose answer waits for members: the request, those
still to answer, how many accepted, a mask of those that refused. -/
structure Masthead where
  records   : KMap (List Word) := []
  recordAt  : KMap Nat := []
  keys      : List Key := []
  overflow  : KMap Nat := []
  queue     : List LedgerItem := []
  notices   : List Notice := []
  noticeAt  : Option Nat := none
  settled   : Bool := false
  published : List Word := []
  opened    : Option Word := none
  accumAt   : KMap Nat := []
  accum     : Nat := 0
  releases  : List Nat := []
  restagger : Bool := false
  stagger   : Option (Nat × Nat) := none
  ceiling   : Nat := 16
  missing   : KMap Word := []
  seqs      : KMap Nat := []
  requests  : List Outgoing := []
  heard     : KMap (List Nat) := []
  battenReply : Option (Env × List Nat × Nat × Nat) := none
  deriving DecidableEq, Repr

/-- A plumb run in progress (R496–R499): its field and mode, the runs to come, the largest rail reduction, the rail step
0 to 2 and the group 0 to 3 under test, and the worst result of each core so far: 1 under stress only, 2 at nominal
conditions, 3 lost. -/
structure Plumb where
  field  : Nat
  mode   : Nat
  left   : Nat
  railMv : Nat
  step   : Nat := 0
  group  : Nat := 0
  results : KMap Nat := []
  deriving DecidableEq, Repr

/-! ## The module -/

/-- The state of one module. -/
structure State where
  /-- commands that wait, first in first out -/
  pending  : List Instr := []
  mode     : ModState := .powering
  cause    : Nat := 0
  pins     : Pins := {}
  power    : Power := {}
  time     : TimeUnit := {}
  /-- registers by offset from 0x0200_0000_0000; an unlisted one reads `regReset` -/
  regs     : KMap Word := []
  /-- bytes of stack DRAM and core stores by device address; an unlisted one reads 0 -/
  mem      : KMap Byte := []
  /-- syndromes of stack codewords by codeword number; an unlisted one is 0, clean -/
  synd     : KMap Nat := []
  /-- error masks of SRAM words by target, unit and word; an unlisted one is 0, clean -/
  sramErr  : KMap Nat := []
  /-- words that an injection altered (R501): a codeword by its number, an SRAM word by 2^33 + its number -/
  hurt     : List Nat := []
  /-- device-space writes to a core store that wait for the retire fence (R254): core, word, value -/
  devWrites : List (Nat × Nat × Word) := []
  chipCache : KMap (List CLine) := []
  /-- plain bytes of every granule content the codec has packed, no two with the same units -/
  plains   : List (List Byte) := []
  stackUnits : KMap Stack := []
  cores    : KMap Core := []
  ctxs     : KMap Ctx := []
  walks    : List Walk := []
  parks    : List Park := []
  cows     : List Cow := []
  invals   : List Inval := []
  hoists   : List Hoist := []
  hoistSeq : Nat := 0
  regions  : KMap Region := []
  image    : Option Image := none
  load     : Option Load := none
  tackle   : KMap Nat := []
  ops      : List CollOp := []
  up       : TrackDir := {}
  down     : TrackDir := {}
  stays    : KMap Stay := []
  /-- what each stay's decoders saw in the last millisecond (R379, R410): time, lane, symbols corrected, codewords lost -/
  fec      : KMap (List (Nat × Nat × Nat × Nat)) := []
  ports    : KMap Port := []
  qps      : KMap Qp := []
  opened   : List (Nat × Nat) := []
  addrs    : List (Nat × Nat) := []
  sessions : List Session := []
  shakes   : List Handshake := []
  nextSession : Nat := 1
  notes    : List Outgoing := []
  /-- STEP_OPEN and CLOSED messages that wait for RESUME_REQ (R443) -/
  held     : List Instr := []
  step     : StepState := {}
  buffered : List Buffered := []
  flash    : Flash := {}
  masthead : Masthead := {}
  plumb    : Option Plumb := none
  /-- module time at which the enrolment window closes; 0 closed (R551) -/
  enrollUntil : Nat := 0
  windows  : List Nat := []
  /-- SEQ of the newest telemetry record of the job (R515) -/
  telemSeq : Nat := 0
  /-- messages that left the module, oldest first -/
  sent     : List Sent := []
  /-- the model's own counter that numbers free values -/
  free     : Nat := 0
  deriving DecidableEq, Repr

/-- R12, R32: the module right after a power-on has begun: POWERING, registers at their reset values, no
command waiting, no image, nothing in memory. The pins and the empty flash stand as the log names them. -/
def State.reset : State := {}

end Sys2Proof.Machine
end

