-- ==== Sys2Proof/Machine/RegMap.lean ====
section
/-! DEFINITION. The register map: addresses, reset values and access masks of every register (R7–R12, R29,
R30 and the register tables of each chapter). Offsets count from 0x0200_0000_0000. -/
namespace Sys2Proof.Machine

/-- How a register behaves (R10–R12): its reset value, the RW bits, the W1C bits, and the bits that keep
their value through a module reset. -/
structure RegSpec where
  reset : Nat := 0
  rw    : Nat := 0
  w1c   : Nat := 0
  keep  : Nat := 0

/-- A free-running counter: RO, reset only at power-on (R12). -/
def rCounter : RegSpec := { keep := 2 ^ 64 - 1 }
/-- A read-only register with a reset value. -/
def rRo (v : Nat) : RegSpec := { reset := v }
/-- An event register with `n` flags and their OVERRUN bits at 8 + f (R11). -/
def rEvent (n : Nat) : RegSpec := { w1c := (2 ^ n - 1) + (2 ^ n - 1) <<< 8 }
/-- An event enable register with `n` enables, all set at reset. -/
def rEnable (n : Nat) : RegSpec := { reset := 2 ^ n - 1, rw := 2 ^ n - 1 }
/-- A read/write register. -/
def rRw (reset mask : Nat) : RegSpec := { reset := reset, rw := mask }

/-! Block bases (R29, R30). -/
def bPower : Nat := 0x01001000
def bRig : Nat := 0x01008000
def bHly : Nat := 0x01009000
def bMh : Nat := 0x0100A000
def bMod : Nat := 0x0100B000
def bTime : Nat := 0x02000000
def bStack (k : Nat) : Nat := 0x03000000 + k * 0x100000
def bLedger (k : Nat) : Nat := bStack k + 0x80000
def bCache : Nat := 0x04000000
def bHoist : Nat := 0x04100000
def bXl : Nat := 0x05000000
def bStay (s : Nat) : Nat := 0x06000000 + s * 0x100000
def bPort (h : Nat) : Nat := 0x07000000 + h * 0x100000
def bColl : Nat := 0x08000000
def bTackle : Nat := 0x08100000
def bTrack : Nat := 0x08800000
def bFault : Nat := 0x09000000
def bPert : Nat := 0x09100000
def bTell : Nat := 0x0A000000
def bCore (n : Nat) : Nat := 0x10000000 + n * 0x100000
def bMe (n e : Nat) : Nat := bCore n + (e + 1) * 0x10000
def bVe (n : Nat) : Nat := bCore n + 0x50000
def bSfe (n : Nat) : Nat := bCore n + 0x60000
def bAe (n : Nat) : Nat := bCore n + 0x70000
def bLe (n : Nat) : Nat := bCore n + 0x80000
def bCs (n : Nat) : Nat := bCore n + 0x90000

/-- Is `o` one of the 8-byte offsets lo, lo + 8, … hi. -/
def inRegs (o lo hi : Nat) : Bool := lo ≤ o && o ≤ hi && (o - lo) % 8 == 0

/-- R31: the value of CHIP_ID; the stepping is fixed in the part. -/
def chipId : Nat :=
  0x0001 <<< 48 + 1 <<< 44 + (Config.stepping % 256) <<< 32 + 0x0416 <<< 16 + 0x080

/-- Chip identity and control (R31–R35). -/
def specChip (o : Nat) : Option RegSpec :=
  match o with
  | 0x00 => some (rRo chipId)
  | 0x08 => some (rRo 1)
  | 0x10 => some (rRo 0)
  | 0x18 => some { w1c := 3, keep := 0xFFFFFFFF <<< 32 }
  | 0x20 | 0x28 => some (rRo 0)
  | _ => none

/-- Power and reefing (R532). -/
def specPower (o : Nat) : Option RegSpec :=
  match o with
  | 0x00 => some (rRo 0)
  | 0x08 => some (rRw 0x10 0x1F)
  | 0x10 => some (rRo (0x10 <<< 5 + 0x10))
  | 0x18 => some (rEvent 3)
  | 0x20 => some (rEnable 3)
  | 0x100 | 0x108 | 0x110 => some rCounter
  | _ => none

/-- Rig loader (R367–R371). -/
def specRig (o : Nat) : Option RegSpec :=
  if o = 0x00 then some (rRo 0)
  else if o = 0x08 then some { keep := 2 ^ 64 - 1 }
  else if o = 0x10 then some (rRo 0x3FF)
  else if inRegs o 0x18 0x48 then some (rRo 0)
  else if o = 0x50 then some (rEvent 4)
  else if o = 0x58 then some (rEnable 4)
  else if o = 0x100 ∨ o = 0x108 then some rCounter
  else none

/-- Halyard (R471). -/
def specHly (o : Nat) : Option RegSpec :=
  if o = 0x00 then some (rRo (0x1A63 <<< 48))
  else if o = 0x08 then some (rEvent 4)
  else if o = 0x10 then some (rEnable 4)
  else if inRegs o 0x100 0x118 then some rCounter
  else none

/-- Masthead (R533). -/
def specMh (o : Nat) : Option RegSpec :=
  if o = 0x00 then some (rRw 0x00A (0xFFFFFFFF <<< 32 + 0x3FF))
  else if inRegs o 0x08 0x48 then some (rRo 0)
  else if o = 0x50 then some (rEvent 4)
  else if o = 0x58 then some (rEnable 4)
  else if inRegs o 0x100 0x118 then some rCounter
  else none

/-- Module (R558–R560). -/
def specMod (o : Nat) : Option RegSpec :=
  match o with
  | 0x00 => some (rRo 0)
  | 0x08 => some (rRw 0 1)
  | 0x10 => some (rRo (0x10 <<< 5))
  | 0x18 | 0x20 => some (rRo 0)
  | 0x28 => some (rEvent 6)
  | 0x30 => some (rEnable 6)
  | 0x100 | 0x108 => some rCounter
  | _ => none

/-- Time and batten (R530, R531). -/
def specTime (o : Nat) : Option RegSpec :=
  match o with
  | 0x00 => some rCounter
  | 0x08 => some (rRw 0 (2 ^ 64 - 1))
  | 0x10 => some (rRw 0x100 0x1FFFF)
  | 0x18 | 0x20 | 0x28 | 0x30 => some (rRo 0)
  | 0x38 => some (rEvent 5)
  | 0x40 => some (rEnable 5)
  | 0x100 | 0x108 | 0x110 => some rCounter
  | _ => none

/-- Stack controller k (R238–R241) and its page ledger (R208–R210). -/
def specStack (k o : Nat) : Option RegSpec :=
  if o = 0x00 then some (rRo (1 <<< 20 + 0x20 <<< 12 + 0x10 <<< 7 + (Config.baseRev % 16) <<< 3 + k))
  else if o = 0x08 then some (rRo 0)
  else if o = 0x10 then some (rRw 2 3)
  else if o = 0x18 then some { reset := 0x0C, rw := 0xFF, keep := 0xFFFFFFFF <<< 32 }
  else if o = 0x20 then some (rEvent 7)
  else if o = 0x28 then some (rEnable 7)
  else if o = 0x30 ∨ o = 0x38 then some (rRo 0)
  else if inRegs o 0x100 0x150 then some rCounter
  else if o = 0x80000 ∨ o = 0x80008 then some (rRo 0)
  else if o = 0x80010 then some { w1c := 0xB0B }
  else if o = 0x80018 then some (rEnable 4)
  else if inRegs o 0x80100 0x80120 then some rCounter
  else none

/-- Chip cache (R242) and hoist watch (R274, R275). -/
def specCache (o : Nat) : Option RegSpec :=
  if inRegs o 0x00 0x78 then some (rRo 0)
  else if 0x1000 ≤ o ∧ o < 0x2000 ∧ inRegs (o % 0x100) 0x00 0x20 then some rCounter
  else if inRegs o 0x100000 0x100038 then some (rRo 0)
  else if o = 0x100040 then some (rEvent 2)
  else if o = 0x100048 then some (rEnable 2)
  else if inRegs o 0x100100 0x100120 then some rCounter
  else none

/-- Translation (R329–R334). -/
def specXl (o : Nat) : Option RegSpec :=
  if o = 0x00 then some (rRo 0x1740)
  else if o = 0x08 then some (rRo 0)
  else if o = 0x10 then some (rEvent 6)
  else if o = 0x18 then some (rEnable 6)
  else if inRegs o 0x20 0x30 then some (rRo 0)
  else if inRegs o 0x100 0x2F8 then some (rRo 0)
  else if inRegs o 0x300 0x378 then some (rRw 0 0xFFFFFFFF)
  else if inRegs o 0x800 0x838 then some rCounter
  else none

/-- Stay (R410–R412). -/
def specStay (o : Nat) : Option RegSpec :=
  if inRegs o 0x00 0x10 then some (rRo 0)
  else if o = 0x18 then some (rEvent 5)
  else if o = 0x20 then some (rEnable 5)
  else if inRegs o 0x100 0x138 then some rCounter
  else none

/-- Host port h (R468–R470). -/
def specPort (h o : Nat) : Option RegSpec :=
  if o = 0x00 then
    some (rRw (0x1A <<< 52 + 0x2E <<< 46 + 3 <<< 43 + 6 <<< 40 + 1 <<< 39 + 1)
      (0x3F <<< 52 + 0x3F <<< 46 + 7 <<< 43 + 7 <<< 40 + 1 <<< 39 + 3 <<< 1))
  else if o = 0x08 then some (rRo (3 <<< 3))
  else if o = 0x10 then some (rRo ((Config.macBase + h) % 2 ^ 48))
  else if o = 0x18 then some (rEvent 7)
  else if o = 0x20 then some (rEnable 7)
  else if inRegs o 0x100 0x158 then some rCounter
  else none

/-- Collective engine, tackle counters and track (R413–R416, R204–R207). -/
def specColl (o : Nat) : Option RegSpec :=
  if o = 0x00 then some (rRo 0)
  else if o = 0x08 then some (rRw 0 3)
  else if o = 0x10 then some (rEvent 7)
  else if o = 0x18 then some (rEnable 7)
  else if inRegs o 0x20 0x38 then some (rRo 0)
  else if inRegs o 0x100 0x140 then some rCounter
  else if inRegs o 0x100000 0x107FF8 then some (rRo 0)
  else if o = 0x800000 ∨ o = 0x800008 then some (rRo 0)
  else if o = 0x800010 then some (rEvent 5)
  else if o = 0x800018 then some (rEnable 5)
  else if inRegs o 0x800100 0x800128 then some rCounter
  else none

/-- Faults, ledger, perturbation and injection (R501–R506, R511–R513). -/
def specFault (o : Nat) : Option RegSpec :=
  if o = 0x00 then some (rRo 0)
  else if o = 0x08 then some (rEvent 7)
  else if o = 0x10 then some (rEnable 7)
  else if o = 0x18 then some (rRo 0)
  else if o = 0x20 then some { reset := 0, keep := 0xFFFFFFFF <<< 32 }
  else if inRegs o 0x100 0x130 then some rCounter
  else if o = 0x100000 then some (rRw 0 (0xFFFFFFFF <<< 32 + 3))
  else if o = 0x100008 then some (rRw 0 (0x7FFF <<< 49 + 0xFFFF <<< 32))
  else if o = 0x100010 then some (rRw 0 (0xFFFFFFFFFFFF <<< 16))
  else if o = 0x100018 then some (rRw 0 (0xFF <<< 52 + 0xFFFFFFFF <<< 16))
  else if inRegs o 0x100020 0x100038 then some (rRw 0 (0xFFFFFFFFFF <<< 24))
  else if inRegs o 0x100100 0x100118 then some (rRo 0)
  else none

/-- Step and telltales (R444–R447). -/
def specTell (o : Nat) : Option RegSpec :=
  if inRegs o 0x00 0x18 then some (rRo 0)
  else if o = 0x20 then some (rEvent 6)
  else if o = 0x28 then some (rEnable 6)
  else if inRegs o 0x100 0x128 then some rCounter
  else none

/-- An identification register of the shape of R121 and R162. -/
def idWord (formats core engine : Nat) : Nat := formats <<< 16 + 1 <<< 12 + core <<< 2 + engine

/-- Matrix engine e of core n (R121–R128). -/
def specMe (n e o : Nat) : Option RegSpec :=
  if o = 0x00 then some (rRo (idWord 0x27FD n e))
  else if o = 0x08 ∨ o = 0x10 then some (rRo 0)
  else if o = 0x18 then some (rEvent 6)
  else if o = 0x20 then some (rEnable 6)
  else if o = 0x28 ∨ o = 0x30 then some (rRo 0)
  else if inRegs o 0x100 0x148 then some rCounter
  else if e = 0 ∧ o = 0x200 then some (rRo 0)
  else if e = 0 ∧ inRegs o 0x208 0x210 then some rCounter
  else none

/-- The sub-blocks of core n (R30): engines, core store and cache. -/
def specCore (n o : Nat) : Option RegSpec :=
  let q := o % 0x10000
  match o / 0x10000 with
  | 1 => specMe n 0 q
  | 2 => specMe n 1 q
  | 3 => specMe n 2 q
  | 4 => specMe n 3 q
  | 5 =>
    if q = 0x00 then some (rRo (idWord 0x0807 n 0))
    else if q = 0x08 ∨ q = 0x10 then some (rRo 0)
    else if q = 0x18 then some (rEvent 6)
    else if q = 0x20 then some (rEnable 6)
    else if q = 0x28 ∨ q = 0x30 then some (rRo 0)
    else if inRegs q 0x100 0x130 then some rCounter
    else none
  | 6 =>
    if q = 0x00 then some (rRo (idWord 0x0001 n 0))
    else if inRegs q 0x08 0x18 then some (rRo 0)
    else if q = 0x20 then some (rEvent 5)
    else if q = 0x28 then some (rEnable 5)
    else if q = 0x30 ∨ q = 0x38 then some (rRo 0)
    else if inRegs q 0x100 0x120 then some rCounter
    else none
  | 7 =>
    if q = 0x00 then some (rRo (idWord 0x3FFF n 0))
    else if q = 0x08 then some (rRo 0)
    else if q = 0x10 then some (rRw 0x11 0x1F)
    else if q = 0x18 then some (rEvent 6)
    else if q = 0x20 then some (rEnable 6)
    else if inRegs q 0x100 0x158 then some rCounter
    else none
  | 8 =>
    if q = 0x00 then some (rRo (idWord 0x3C1F n 0))
    else if q = 0x08 then some (rRo 0)
    else if q = 0x10 then some (rEvent 4)
    else if q = 0x18 then some (rEnable 4)
    else if inRegs q 0x100 0x120 then some rCounter
    else none
  | 9 =>
    if q = 0x00 then some (rEvent 3)
    else if q = 0x08 then some (rEnable 3)
    else if inRegs q 0x100 0x128 then some rCounter
    else none
  | _ => none

/-- R29: does the offset lie in a register block. -/
def inRegBlock (off : Nat) : Bool :=
  off < 0x03800000 || (0x04000000 ≤ off && off < 0x06C00000) ||
  (0x07000000 ≤ off && off < 0x07800000) || (0x08000000 ≤ off && off < 0x0B000000) ||
  (0x10000000 ≤ off && off < 0x18000000)

/-- The register at an offset; an offset that names none has no specification (R9). -/
def regSpec (off : Nat) : Option RegSpec :=
  let b := off / 0x1000000
  let o := off % 0x1000000
  match b with
  | 0 => specChip o
  | 1 =>
    match o / 0x1000 with
    | 1 => specPower (o % 0x1000)
    | 8 => specRig (o % 0x1000)
    | 9 => specHly (o % 0x1000)
    | 0xA => specMh (o % 0x1000)
    | 0xB => specMod (o % 0x1000)
    | _ => none
  | 2 => specTime o
  | 3 => if o / 0x100000 < 8 then specStack (o / 0x100000) (o % 0x100000) else none
  | 4 => specCache o
  | 5 => specXl o
  | 6 => if o / 0x100000 < 12 then specStay (o % 0x100000) else none
  | 7 => if o / 0x100000 < 8 then specPort (o / 0x100000) (o % 0x100000) else none
  | 8 => specColl o
  | 9 => specFault o
  | 0xA => specTell o
  | _ =>
    if 0x10 ≤ b ∧ b < 0x18 then
      specCore ((off - 0x10000000) / 0x100000) (off % 0x100000)
    else none

/-- The value an unlisted register reads: its reset value, zero where the offset names none (R9, R12). -/
def regReset (off : Nat) : Word :=
  match regSpec off with
  | some r => BitVec.ofNat 64 r.reset
  | none => 0

/-- The stored value of a register. -/
def State.reg (s : State) (off : Nat) : Word := kget (regReset off) s.regs off

/-- Stores a register; the reset value takes the entry out. -/
def State.setReg (s : State) (off : Nat) (v : Word) : State :=
  { s with regs := kset (regReset off) s.regs off v }

/-- Field [hi:lo] of a stored register. -/
def State.rfld (s : State) (off hi lo : Nat) : Nat := fld (s.reg off) hi lo

/-- Sets field [hi:lo] of a stored register. -/
def State.setRfld (s : State) (off hi lo v : Nat) : State := s.setReg off (setFld (s.reg off) hi lo v)

/-- A counter counts `n` more, modulo 2^64 (R12). -/
def State.count (s : State) (off n : Nat) : State :=
  s.setReg off (s.reg off + BitVec.ofNat 64 n)

/-- R11: hardware sets flag `f` of an event register; a flag that stands already sets its OVERRUN bit
8 + f. -/
def State.flag (s : State) (off f : Nat) : State :=
  if bitAt (s.reg off) f then s.setReg off (setBit (s.reg off) (8 + f))
  else s.setReg off (setBit (s.reg off) f)

/-- R12: registers after a module reset: free-running counters and kept fields stay, the rest returns to
its reset value. -/
def resetRegs (m : KMap Word) : KMap Word :=
  m.filterMap (fun p =>
    match regSpec p.1 with
    | none => none
    | some r =>
      let keep := BitVec.ofNat 64 r.keep
      let v := (p.2 &&& keep) ||| (BitVec.ofNat 64 r.reset &&& ~~~ keep)
      if v = BitVec.ofNat 64 r.reset then none else some (p.1, v))

/-- R10, R11: the stored value after a software write of `v`: RW bits take it, W1C bits clear where it
has ones, everything else keeps. -/
def writtenValue (r : RegSpec) (old v : Word) : Word :=
  let rw := BitVec.ofNat 64 r.rw
  let w1c := BitVec.ofNat 64 r.w1c
  ((old &&& ~~~ rw) ||| (v &&& rw)) &&& ~~~ (v &&& w1c)

end Sys2Proof.Machine
end

