-- ==== Sys2Proof/Machine/Rig.lean ====
section
/-! DEFINITION. Reading the resident rig image: its sections and the fields the machine consults at run time
(R342–R361, R387, R389). -/
namespace Sys2Proof.Machine

/-- Word `i` of a word list; zero past its end. -/
def wd (ws : List Word) (i : Nat) : Word := ws.getD i 0

/-- Field [hi:lo] of word `i`. -/
def wfld (ws : List Word) (i hi lo : Nat) : Nat := fld (wd ws i) hi lo

/-- A section of an image by type and instance (R342); no words where it has none. -/
def Image.section (g : Image) (t i : Nat) : List Word :=
  match g.sections.find? (fun x => x.1 = t ∧ x.2.1 = i) with
  | some x => x.2.2
  | none => []

/-- A section of the resident image. -/
def State.section (s : State) (t i : Nat) : List Word :=
  match s.image with
  | some g => g.section t i
  | none => []

/-! ## ROLE (R344) -/

/-- The ROLE section of the resident image. -/
def State.roleSec (s : State) : List Word := s.section 0x0001 0

/-- R26, R344: 0 worker, 1 group masthead, 2 top and group masthead. -/
def State.role (s : State) : Nat := wfld s.roleSec 0 63 62

/-- Does the module hold a masthead role. -/
def State.isMasthead (s : State) : Bool := s.image.isSome && 0 < s.role

/-- Does the module hold the top masthead role. -/
def State.isTop (s : State) : Bool := s.image.isSome && s.role == 2

def State.groupSize (s : State) : Nat := wfld s.roleSec 0 59 50 + 1
def State.member (s : State) : Nat := wfld s.roleSec 0 49 40
def State.group (s : State) : Nat := wfld s.roleSec 0 39 32
def State.modules (s : State) : Nat := wfld s.roleSec 0 31 16 + 1
def State.moduleNo (s : State) : Nat := wfld s.roleSec 0 15 0
def State.groupMasthead (s : State) : Nat := wfld s.roleSec 3 63 48
def State.topMasthead (s : State) : Nat := wfld s.roleSec 3 47 32

/-- The module number of this module's masthead: for a group masthead the top masthead. -/
def State.myMasthead (s : State) : Nat :=
  if s.role = 0 then s.groupMasthead else s.topMasthead

/-- USE, PEER and PEER_STAY of a stay (R344). -/
def State.stayUse (s : State) (t : Nat) : Nat := wfld s.roleSec (4 + t) 63 60
def State.stayPeer (s : State) (t : Nat) : Nat := wfld s.roleSec (4 + t) 59 44
def State.stayPeerStay (s : State) (t : Nat) : Nat := wfld s.roleSec (4 + t) 43 40

/-! ## JOB, PLAN, FAULT_POLICY, BUBBLES, HOST_REGIONS -/

def State.jobSec (s : State) : List Word := s.section 0x0006 0
/-- R356: phases per step. -/
def State.phases (s : State) : Nat := wfld s.jobSec 2 47 42
/-- R356: the 16-bit entry of phase p. -/
def State.phaseEntry (s : State) (p : Nat) : Nat :=
  wfld s.jobSec (4 + p / 4) (16 * (p % 4) + 15) (16 * (p % 4))
/-- R356: sail plan of phase p. -/
def State.phasePlan (s : State) (p : Nat) : Nat := s.phaseEntry p % 16
/-- R356: tack before phase p, 0xFF none. -/
def State.phaseTack (s : State) (p : Nat) : Nat := s.phaseEntry p / 256

/-- R367: the sail plan now running. -/
def State.plan (s : State) : Nat := s.phasePlan s.step.phase

def State.planSec (s : State) (p : Nat) : List Word := s.section 0x0010 p

/-- R351, R283: tensor descriptor `d` of plan `p`, sixteen words. -/
def State.tensor (s : State) (p d : Nat) : List Word :=
  let ws := s.planSec p
  (ws.drop ((wd ws 1).toNat / 8 + 16 * d)).take 16

/-! ## TELLTALES (R439) -/

def State.tellSec (s : State) : List Word := s.section 0x0021 0
/-- R438: LS_INTERVAL; zero disables loss scaling. -/
def State.lsInterval (s : State) : Nat := wfld s.tellSec 1 31 0
/-- R439: the shard entries, four words each, with their numbers. -/
def State.shards (s : State) : List (Nat × List Word) :=
  (List.range (wfld s.tellSec 0 63 52)).map (fun i => (i, (s.tellSec.drop ((wd s.tellSec 3).toNat / 8 + 4 * i)).take 4))
/-- R439: is a shard entry's KIND gradient. -/
def isGradient (e : List Word) : Bool := bitAt (wd e 0) 39

/-- R351, R438: constant `k` of plan `p`; with loss scaling slot 255 holds the scale in force. -/
def State.const (s : State) (p k : Nat) : Word :=
  if k = 255 ∧ s.lsInterval ≠ 0 then BitVec.ofNat 64 (s.rfld (0x0A000000 + 8) 47 16)
  else
    let ws := s.planSec p
    wd ws ((wd ws 2).toNat / 8 + k)

/-- R351, R153: TABLE_LOAD descriptor `k` of plan `p`, eight words. -/
def State.tableDesc (s : State) (p k : Nat) : List Word :=
  let ws := s.planSec p
  (ws.drop ((wd ws 3).toNat / 8 + 8 * k)).take 8

/-- R351: random-number entry `k` of plan `p`, two words. -/
def State.rng (s : State) (p k : Nat) : List Word :=
  let ws := s.planSec p
  (ws.drop ((wd ws 4).toNat / 8 + 2 * k)).take 2

/-- R351: byte length of the program of core `n` in plan `p`. -/
def State.progLen (s : State) (p n : Nat) : Nat :=
  let ws := s.planSec p
  (wd ws ((wd ws 5).toNat / 8 + 2 * n + 1)).toNat

/-- R351: the program of core `n` in plan `p`. -/
def State.program (s : State) (p n : Nat) : List Word :=
  let ws := s.planSec p
  let e := (wd ws 5).toNat / 8 + 2 * n
  (ws.drop ((wd ws e).toNat / 8)).take ((wd ws (e + 1)).toNat / 8)

/-- R352: words of the item that starts with `w`. -/
def itemSize (w : Word) : Nat :=
  let b := fld w 63 56
  if b < 0x80 then 8 else if b < 0xE0 then 1 else 2

/-- R352: the items of a program, at most `n`. -/
def progItems : Nat → List Word → List (List Word)
  | 0, _ => []
  | _, [] => []
  | n + 1, w :: r => (w :: r).take (itemSize w) :: progItems n ((w :: r).drop (itemSize w))

/-- R360: fields of FAULT_POLICY. -/
def State.policy (s : State) (hi lo : Nat) : Nat := wfld (s.section 0x0023 0) 0 hi lo

/-- R359: the bubble windows, eight words each. -/
def State.bubble (s : State) (w : Nat) : List Word := ((s.section 0x0022 0).drop (8 * w)).take 8

/-- R455: entry of QP `q` in the QP table, if the image has one. -/
def State.qpEntry (s : State) (q : Nat) : Option Word :=
  let ws := s.section 0x0005 0
  let n := wfld ws 0 63 51
  ((ws.drop ((wd ws 1).toNat / 8)).take n).find? (fun w => fld w 63 52 = q)

/-- R455: LENGTH, QP_A and QP_B of region `r` of context `c`. -/
def State.regionRow (s : State) (c r : Nat) : List Word :=
  let ws := s.section 0x0005 0
  (ws.drop (wfld ws (16 + c) 31 0 / 8 + 4 * r)).take 4

/-! ## MEMORY (R348) -/

/-- R348: the memory-plan entry of a buffer, eight words; none where no entry has the identifier. -/
def bufferEntry : Nat → List Word → Nat → Option (List Word)
  | 0, _, _ => none
  | n + 1, ws, b =>
    if ws = [] then none
    else if fld (wd ws 0) 63 48 = b then some (ws.take 8) else bufferEntry n (ws.drop 8) b

/-- R348: the memory-plan entry of a buffer of the resident image. -/
def State.buffer (s : State) (b : Nat) : Option (List Word) :=
  let ws := s.section 0x0004 0
  bufferEntry (ws.length / 8) ws b

/-- Word list of every memory-plan entry. -/
def State.bufferList (s : State) : List (List Word) :=
  let ws := s.section 0x0004 0
  (List.range (ws.length / 8)).map (fun i => (ws.drop (8 * i)).take 8)

/-- R350: the physical pieces of a placed buffer as (physical base, bytes), in VA order. -/
def Placed.pieces (p : Placed) : List (Nat × Nat) :=
  let size := (wd p.words 2).toNat
  let part := if fld (wd p.words 0) 39 36 = 8 then size / 8 else size
  p.phys.map (fun x => (x.2, part))

end Sys2Proof.Machine
end

