-- ==== Sys2Proof/Machine/Mesh.lean ====
section
/-! DEFINITION. The mesh: where its routers sit and the routes of its two planes (R13, R16, R345). -/
namespace Sys2Proof.Machine

/-- R13: row and column of a core's router. -/
def meshAt (n : Nat) : Nat × Nat := (n / 16, n % 16)

/-- Distance of two coordinates. -/
def meshDist (a b : Nat) : Nat := max a b - min a b

/-- One step from a coordinate to another. -/
def meshStep (a b : Nat) : Nat := if a < b then a + 1 else a - 1

/-- R345: the core that a hop from `n` towards `dst` reaches, along the column or along the row. -/
def meshHop (n dst : Nat) (column : Bool) : Nat :=
  let p := meshAt n
  let q := meshAt dst
  if column then 16 * meshStep p.1 q.1 + p.2 else 16 * p.1 + meshStep p.2 q.2

/-- The routers of a packet from `n` to `dst` that takes the moves. -/
def meshWalk (dst : Nat) : Nat → List Bool → List Nat
  | n, [] => [n]
  | n, m :: r => n :: meshWalk dst (meshHop n dst m) r

/-- R16: the default moves: along the row first on plane 0, along the column first on plane 1. -/
def defaultMoves (plane src dst : Nat) : List Bool :=
  let row := List.replicate (meshDist (meshAt src).2 (meshAt dst).2) false
  let column := List.replicate (meshDist (meshAt src).1 (meshAt dst).1) true
  if plane = 0 then row ++ column else column ++ row

/-- R345: SRC, DST and PLANE of a ROUTES entry. -/
def routePair (w : Word) : Nat × Nat × Nat := (fld w 63 54, fld w 53 44, fld w 43 43)

/-- R345: the moves that an entry names, as many as the pair has hops. -/
def entryMoves (w : Word) : List Bool :=
  let p := routePair w
  let hops := (defaultMoves 0 p.1 p.2.1).length
  (List.range hops).map (fun h => bitAt w (21 + h))

/-- R16: the moves of a core-to-core pair on a plane: those of the resident image, or the default. -/
def State.meshMoves (s : State) (plane src dst : Nat) : List Bool :=
  match (s.section 0x0003 0).find? (fun w => routePair w == (src, dst, plane)) with
  | some w => entryMoves w
  | none => defaultMoves plane src dst

/-- R16: the routers of a packet from a core to a core on a plane. -/
def State.meshRoute (s : State) (plane src dst : Nat) : List Nat := meshWalk dst src (s.meshMoves plane src dst)

/-- The router at which a stack answers a read at a physical address; which of its four columns is not given. -/
def stackRouter (k pa : Nat) : Nat := (if k < 4 then 0 else 112) + 4 * (k % 4) + Config.meshPort k pa % 4

/-- R16, R345: the routers of read data from a stack to a core: plane 1, on the default route. -/
def readRoute (pa n : Nat) : List Nat :=
  let from_ := stackRouter (pa / 2 ^ 36 % 8) pa
  meshWalk n from_ (defaultMoves 1 from_ n)

end Sys2Proof.Machine
end

