-- ==== Sys2Proof/Machine/PassShape.lean ====
section
/-! DEFINITION. The fields of a matrix pass and the cycles its stream takes (R90–R95, R105). -/
namespace Sys2Proof.Machine

/-! ## The descriptor (R93) -/

def pFmtA (ws : List Word) : Fmt := (Fmt.ofCode (wfld ws 0 55 51)).getD .bf16
def pFmtB (ws : List Word) : Fmt := (Fmt.ofCode (wfld ws 0 50 46)).getD .bf16
def pFmtOut (ws : List Word) : Fmt := (Fmt.ofCode (wfld ws 0 45 41)).getD .fp32
def pBank (ws : List Word) : Nat := wfld ws 0 39 39
def pPreload (ws : List Word) : Bool := bitAt (wd ws 0) 38
def pRowScale (ws : List Word) : Bool := bitAt (wd ws 0) 37
def pK (ws : List Word) : Nat := wfld ws 1 31 0
def pCnt (ws : List Word) : Nat := wfld ws 7 39 24
def pMask (ws : List Word) : Nat := wfld ws 7 63 40
/-- R69–R75: does the pass run in split-mantissa mode. -/
def pSplit (ws : List Word) : Bool := pFmtA ws == .slice

/-- R90: K positions per feeder entry. -/
def entryK : Fmt → Nat
  | .bf16 => 4 | .fp32 => 2 | .mxE2m1 => 16 | .slice => 1 | _ => 8

/-- R90: CCLK an entry lasts. -/
def entryCycles : Fmt → Nat
  | .fp32 => 8 | .slice => 14 | _ => 4

/-- R91, R95: the stream cycles of `fed` K positions, at the lower of the two operands' rates. -/
def streamCycles (fa fb : Fmt) (fed : Nat) : Nat :=
  max (fed / entryK fa * entryCycles fa) (fed / entryK fb * entryCycles fb)

/-- R95, R105: the K edge of the positions fed. -/
def fedK (ws : List Word) (k : Nat) : Nat := ceilTo k (max (entryK (pFmtA ws)) (entryK (pFmtB ws)))

end Sys2Proof.Machine
end

