-- ==== Sys2Proof/Machine/Ops.lean ====
section
/-! DEFINITION. The named operations every family of commands uses: numbered units, device states, messages
that leave, events and the ledger, faulting a context, fencing a core, a module-class event, a module reset. -/
namespace Sys2Proof.Machine

/-- What executing a command answers. -/
abbrev Res := Host.Outcome State Fault Refusal

/-! ## Numbered units -/

def State.core (s : State) (n : Nat) : Core := kget {} s.cores n
def State.setCore (s : State) (n : Nat) (c : Core) : State := { s with cores := kset {} s.cores n c }
def State.modCore (s : State) (n : Nat) (f : Core → Core) : State := s.setCore n (f (s.core n))

def State.ctx (s : State) (c : Nat) : Ctx := kget {} s.ctxs c
def State.setCtx (s : State) (c : Nat) (x : Ctx) : State := { s with ctxs := kset {} s.ctxs c x }
def State.modCtx (s : State) (c : Nat) (f : Ctx → Ctx) : State := s.setCtx c (f (s.ctx c))

def State.stay (s : State) (t : Nat) : Stay := kget {} s.stays t
def State.setStay (s : State) (t : Nat) (x : Stay) : State := { s with stays := kset {} s.stays t x }
def State.modStay (s : State) (t : Nat) (f : Stay → Stay) : State := s.setStay t (f (s.stay t))

def State.port (s : State) (h : Nat) : Port := kget {} s.ports h
def State.setPort (s : State) (h : Nat) (x : Port) : State := { s with ports := kset {} s.ports h x }
def State.modPort (s : State) (h : Nat) (f : Port → Port) : State := s.setPort h (f (s.port h))

def State.qp (s : State) (q : Nat) : Qp := kget {} s.qps q
def State.setQp (s : State) (q : Nat) (x : Qp) : State := { s with qps := kset {} s.qps q x }
def State.modQp (s : State) (q : Nat) (f : Qp → Qp) : State := s.setQp q (f (s.qp q))

def State.stack (s : State) (k : Nat) : Stack := kget {} s.stackUnits k
def State.setStack (s : State) (k : Nat) (x : Stack) : State := { s with stackUnits := kset {} s.stackUnits k x }
def State.modStack (s : State) (k : Nat) (f : Stack → Stack) : State := s.setStack k (f (s.stack k))

/-- R82-free choice: the next free value, and the counter that numbers them advanced. -/
def State.takeFree (s : State) : Nat × State :=
  (Config.freeValue s.free, { s with free := s.free + 1 })

/-! ## Device states (R32, R34, R37) -/

/-- R32: the code of a state in CHIP_STATE.STATE; OFF has none and reads 0. -/
def ModState.code : ModState → Nat
  | .off => 0 | .powering => 1 | .selftest => 2 | .ready => 3 | .loaded => 4
  | .running => 5 | .halted => 6 | .faulted => 7

/-- R37: "any powered state". -/
def ModState.powered (m : ModState) : Bool := m != .off

/-- R37, R465: the states in which software may write registers. -/
def ModState.writable (m : ModState) : Bool := m == .ready || m == .loaded || m == .running || m == .halted

/-- R34: one state change, counted modulo 2^32, with STATE_CHANGED or its OVERRUN. -/
def State.stateChanged (s : State) : State :=
  let s := s.setRfld 0x18 63 32 ((s.rfld 0x18 63 32 + 1) % 2 ^ 32)
  if bitAt (s.reg 0x18) 0 then s.setReg 0x18 (setBit (s.reg 0x18) 1)
  else s.setReg 0x18 (setBit (s.reg 0x18) 0)

/-- R37: enters a device state. FAULT_N is low in FAULTED only (R535); the enrolment window closes when
READY is left (R557). -/
def State.enter (s : State) (m : ModState) : State :=
  if s.mode = m then s
  else
    { s.stateChanged with
      mode := m
      enrollUntil := if s.mode = .ready then 0 else s.enrollUntil
      pins := { s.pins with faultN := m != .faulted } }

/-! ## Messages that leave -/

def State.send (s : State) (x : Sent) : State := { s with sent := s.sent ++ [x] }

/-- R464, R470: a halyard message leaves on a port that the spec leaves open; its headers' bytes are free too. -/
def State.gramOut (s : State) (words : Nat) : State :=
  let f := s.takeFree
  let g := f.2.takeFree
  let h := f.1 % 8
  (g.2.count (bPort h + 0x100) (48 + 8 * words + g.1 % 256)).count (bPort h + 0x110) 1

/-- R464: sends a notification on a session; it stays until acknowledged. -/
def State.notifySession (s : State) (x : Session) (code : Nat) (ws : List Word) : State :=
  let s : State := { s with
    sessions := s.sessions.map (fun y => if y.id = x.id then { y with outSeq := y.outSeq + 1 } else y)
    notes := s.notes ++ [{ session := x.id, seq := x.outSeq, code := code, words := ws }]
    sent := s.sent ++ [{ kind := .notification, dest := x.id, code := code, words := ws }] }
  s.gramOut ws.length

/-- R464: answers a request: the response leaves and is kept among the session's last 64. -/
def State.answer (s : State) (session seq tag code status : Nat) (ws : List Word) : State :=
  let r : Response := ⟨seq, tag, code, status, ws⟩
  { s with
    sessions := s.sessions.map (fun y => if y.id = session then
      { y with responses := (r :: y.responses).take 64, outSeq := y.outSeq + 1 } else y)
    sent := s.sent ++ [{ kind := .response, dest := session, code := code, status := status, words := ws }] }

/-- Notifies every session that `p` selects. -/
def State.notifyWhere (s : State) (p : Session → Bool) (code : Nat) (ws : List Word) : State :=
  (s.sessions.filter p).foldl (fun t x => t.notifySession x code ws) s

/-- R461, R466: a request of a masthead to a member, under the next SEQ of its session, kept until answered. -/
def State.mhRequest (s : State) (member code : Nat) (ws : List Word) : State :=
  let n := kget 1 s.masthead.seqs member
  let s : State := { s with
    masthead := { s.masthead with
      seqs := kput s.masthead.seqs member (n + 1)
      requests := s.masthead.requests ++ [{ session := member, seq := n, code := code, words := ws }] }
    sent := s.sent ++ [{ kind := .mhRequest, dest := member, code := code, words := ws }] }
  s.gramOut ws.length

/-- R366, R370: a load in progress is abandoned. -/
def State.abandonLoad (s : State) : State :=
  match s.load with
  | none => s
  | some _ => { s with load := none }.flag (bRig + 0x50) 3

/-- R366: the session that commanded a load is lost: an incomplete transfer is abandoned. Whether the transfer is complete by then
is free (log entry 222); a load from the cache has none. -/
def State.transferCut (s : State) : State :=
  let f := s.takeFree
  if f.1 % 2 = 0 then f.2.abandonLoad else f.2

/-- R465, R471, R366: a session ends; an incomplete transfer it commanded is abandoned. -/
def State.closeSession (s : State) (id : Nat) : State :=
  if s.sessions.any (fun x => x.id = id) then
    let s := { s with
      sessions := s.sessions.filter (fun x => x.id ≠ id)
      notes := s.notes.filter (fun n => n.session ≠ id) }
    let s := s.flag (bHly + 0x08) 2
    match s.load with
    | some l => if l.env.session = id ∧ !l.cached then s.transferCut else s
    | none => s
  else s

/-! ## Events and the ledger (R472–R475, R487–R492) -/

/-- An event as its unit raises it. -/
structure Ev where
  kind     : Nat
  cls      : Nat
  unitType : Nat := 0
  unit     : Nat := 0
  ctx      : Nat := 0
  d0       : Word := 0
  d1       : Word := 0
  injected : Bool := false

/-- R487: the entry of an event as it stands now. -/
def State.entryOf (s : State) (e : Ev) : LedgerItem :=
  { time := s.time.now, step := if s.step.job then s.reg bTell else 0, kind := e.kind, cls := e.cls,
    injected := e.injected, unitType := e.unitType, unit := e.unit,
    ctx := if e.cls = 1 then e.ctx else 0, count := 1, detail0 := e.d0, detail1 := e.d1,
    boot := s.flash.boots }

/-- R488: the buffered entry that a new absorbed event of this kind and unit joins. -/
def joins (now : Nat) (e : Ev) (b : Buffered) : Bool :=
  b.item.kind == e.kind && b.item.unitType == e.unitType && b.item.unit == e.unit && b.item.cls == 0 &&
  match b.closes with
  | some t => now < t
  | none => false

/-- R488: counts one more event in an open entry. -/
def bump (b : Buffered) : Buffered :=
  { b with item := { b.item with count := min (b.item.count + 1) (2 ^ 24 - 1) } }

/-- Changes the first element that `p` selects. -/
def modFirst {α : Type} (p : α → Bool) (f : α → α) : List α → List α
  | [] => []
  | x :: r => if p x then f x :: r else x :: modFirst p f r

/-- R488, R512, R513: an absorbed event joins its open entry, or opens one that closes a second later, or is
lost when the buffer holds 65,536 entries. -/
def State.bufferAbsorbed (s : State) (e : Ev) : State :=
  if s.buffered.any (joins s.time.now e) then
    { s with buffered := modFirst (joins s.time.now e) bump s.buffered }.count (bFault + 0x120) 1
  else if 65536 ≤ s.buffered.length then (s.count (bFault + 0x128) 1).flag (bFault + 0x08) 4
  else { s with buffered := s.buffered ++ [⟨s.entryOf e, some (s.time.now + 1000000000)⟩] }

/-- R472, R487, R501, R512, R513: records an event in its class. -/
def State.record (s : State) (e : Ev) : State :=
  let s := if e.injected then (s.count (bFault + 0x130) 1).flag (bFault + 0x08) 5 else s
  match e.cls with
  | 0 => ((s.count (bFault + 0x100) 1).flag (bFault + 0x08) 0).bufferAbsorbed e
  | 1 =>
    let s := (s.count (bFault + 0x108) 1).flag (bFault + 0x08) 1
    { s with buffered := s.buffered ++ [⟨s.entryOf e, none⟩] }
  | 2 =>
    let s := (s.count (bFault + 0x110) 1).flag (bFault + 0x08) 2
    { s with buffered := s.buffered ++ [⟨s.entryOf e, none⟩] }
  | _ => { s with buffered := s.buffered ++ [⟨s.entryOf e, none⟩] }

/-- R487: the eight words of an entry. -/
def ledgerWords (e : LedgerItem) : List Word :=
  [BitVec.ofNat 64 e.seq, BitVec.ofNat 64 e.time, e.step,
   packWord [(56, e.kind % 256), (54, e.cls % 4), (53, if e.injected then 1 else 0), (49, e.unitType % 16),
     (31, e.unit % 2 ^ 18), (27, e.ctx % 16), (0, e.count % 2 ^ 24)],
   e.detail0, e.detail1, packWord [(32, e.boot % 2 ^ 32)], BitVec.ofNat 64 e.prev]

/-- R487: PREV of the entry that follows `e`. -/
def ledgerDigest (e : LedgerItem) : List Byte := sha384 (wordsBytes (ledgerWords e))

/-- The newest element of a list. -/
def lastOf {α : Type} (l : List α) : Option α := l.getLast?

/-- R122: the pass that streams: the youngest whose tile has not drained. -/
def Core.streaming (k : Core) : Option Pass := lastOf (k.passes.filter (fun p => p.phase == .streamed))

/-- R487, R488: an entry with the SEQ and PREV it gets when it is written. -/
def Flash.stamp (f : Flash) (e : LedgerItem) : LedgerItem :=
  match lastOf f.ledger with
  | none => { e with seq := 1, prev := 0 }
  | some p => { e with seq := p.seq + 1, prev := ofLeBytes ((ledgerDigest p).take 8) }

/-- R487: appends to the ring of 4,194,304 entries. -/
def ringPush (l : List LedgerItem) (e : LedgerItem) : List LedgerItem :=
  let l := l ++ [e]
  if 4194304 < l.length then l.drop 1 else l

/-- R491: the position of an entry on one time axis across power cycles, from BOOT and MODULE_TIME. -/
def axis (l : List LedgerItem) (boot time : Nat) : Nat :=
  time + ((List.range boot).map (fun b =>
    (l.filter (fun e => e.boot = b)).foldl (fun m e => max m e.time) 0)).foldl (· + ·) 0

/-- R491: events of a unit of the given kinds within `window` ns before `now`, injected ones left out. -/
def eventsIn (l : List LedgerItem) (now window : Nat) (p : LedgerItem → Bool) : Nat :=
  ((l.filter (fun e => !e.injected && p e && now ≤ axis l e.boot e.time + window)).map
    (fun e => e.count)).foldl (· + ·) 0

/-- 24 hours and 30 days of module time. -/
def day : Nat := 86400 * 10 ^ 9

/-- R491: does the unit of `e` meet a condition of its row, by the written ledger `l`. -/
def permanentBy (l : List LedgerItem) (e : LedgerItem) : Bool :=
  let now := axis l e.boot e.time
  let same := fun (x : LedgerItem) => x.unitType == e.unitType && x.unit == e.unit
  let n := fun w ks => eventsIn l now w (fun x => same x && ks x.kind)
  let of := fun w k d => eventsIn l now w (fun x => same x && x.kind == k && x.detail0 == d)
  match e.unitType with
  | 1 =>
    2 ≤ of (30 * day) 0x4B 1 || 0 < of (10 * day) 0x4B 2 || 0 < n day (· == 0x43) ||
    0 < n day (· == 0x4A) ||
    (e.kind == 0x42 && 3 ≤ of day 0x42 e.detail0)
  | 2 => 3 ≤ n day (fun k => k == 7 || k == 8 || k == 0x44)
  | 3 => 2 ≤ n day (· == 0x41) || 4096 ≤ n day (· == 0x40)
  | 4 => 2 ≤ n day (· == 0x10) || 0 < n day (· == 0x4A)
  | 5 => 2 ≤ n day (· == 0x12) || 0 < n day (· == 0x4A)
  | 6 => 0 < n day (· == 0x43) || (e.kind == 0x42 && 3 ≤ of day 0x42 e.detail0)
  | 7 => 2 ≤ n (30 * day) (· == 0x48)
  | _ => false

/-- R492: the units classified permanent, as (unit type, unit), by KIND 0x4D entries. -/
def State.permanent (s : State) : List (Nat × Nat) :=
  ((s.flash.ledger ++ s.buffered.map (fun b => b.item)).filter (fun e => e.kind == 0x4D)).map
    (fun e => (e.unitType, e.unit)) |>.eraseDups

/-- R492, R512: classifies a unit permanent, once. -/
def State.classify (s : State) (ut u : Nat) : State :=
  if s.permanent.contains (ut, u) then s
  else (s.record { kind := 0x4D, cls := 3, unitType := ut, unit := u }).flag (bFault + 0x08) 3

/-- R516, R517, R515: hands a written entry to the masthead's session and to every session subscribed to
its class, as EVENT notifications. -/
def State.publishEntry (s : State) (e : LedgerItem) : State :=
  s.notifyWhere (fun x => x.level == 3 || x.classes.testBit e.cls) 0x0081 (ledgerWords e)

/-- R488, R491, R511, R513: writes one entry to flash. -/
def State.writeEntry (s : State) (e : LedgerItem) : State :=
  let e := s.flash.stamp e
  let s := { s with flash := { s.flash with ledger := ringPush s.flash.ledger e } }
  let s := (s.count (bFault + 0x118) 1).publishEntry e
  if e.kind ≠ 0x4D ∧ permanentBy s.flash.ledger e then s.classify e.unitType e.unit else s

/-- R475, R544: writes every buffered entry, open seconds included. -/
def State.flushLedger (s : State) : State :=
  s.buffered.foldl (fun t b => t.writeEntry b.item) { s with buffered := [] }

/-! ## Faulting a context, closing its windows (R36, R319, R324, R472) -/

/-- Cores of a context by its mask (R346). -/
def Ctx.coreList (x : Ctx) : List Nat := (List.range 128).filter (fun n => x.cores.testBit n)

/-- R328: the park limit counts only while a context runs: from the moment its parks began while it runs, as the time
already counted while it does not. The same change serves both ways. -/
def State.turnParks (s : State) (c : Nat) : State :=
  { s with parks := s.parks.map (fun p => if p.ctx = c then { p with since := s.time.now - p.since } else p) }

/-- R321: a running context begins to save; its fenced cores have nothing to save. A restore that turns into a save
takes back the request to resume (R333). -/
def State.beginSave (s : State) (c : Nat) : State :=
  let x := s.ctx c
  if x.state = 2 ∨ x.state = 5 then
    let s := if x.state = 2 then s.turnParks c
      else s.setReg (bXl + 0x280 + 8 * c) (clearBit (s.reg (bXl + 0x280 + 8 * c)) 1)
    s.setCtx c { x with state := 3, pending := x.coreList }
  else s

/-- R359: the filler of a bubble window. -/
def State.windowFiller (s : State) (w : Nat) : Nat := wfld (s.bubble w) 0 59 56

/-- R324, R327: a bubble window closes and its filler is pre-empted. -/
def State.closeWindow (s : State) (w : Nat) : State :=
  if s.windows.contains w then
    { s with windows := s.windows.filter (· ≠ w) }.beginSave (s.windowFiller w)
  else s

/-- R324: every open window whose filler belongs to primary `c` closes. -/
def State.closeWindowsOf (s : State) (c : Nat) : State :=
  (s.windows.filter (fun w => (s.ctx (s.windowFiller w)).primary = c)).foldl (fun t w => t.closeWindow w) s

/-- Does something to each of the four engines of a core. -/
def eachMe (f : State → Nat → State) (s : State) : State := (List.range 4).foldl f s

/-- R100, R101, R127, R128: what the engines and the column feeder count for the stream of a pass from `kFrom` to `stop`: its
stream cycles in each engine with a valid row, and the entries of its fed columns. -/
def State.countStream (s : State) (n : Nat) (p : Pass) (stop : Nat) : State :=
  let fa := pFmtA p.words
  let fb := pFmtB p.words
  let fed := (if stop = p.k then fedK p.words p.k else stop) - p.kFrom
  let s := eachMe (fun u e =>
    if p.rows.any (fun r => r / 64 = e) then u.count (bMe n e + 0x100) (streamCycles fa fb fed) else u) s
  s.count (bMe n 0 + 0x208) (p.cols.length * (fed / entryK fb))

/-- R127, R128: passes whose streams stop where they are count what they took; how far each had streamed is free. -/
def State.countStopped (s : State) (n : Nat) (p : Pass → Bool) : State :=
  ((s.core n).passes.filter (fun q => q.phase == .streamed && p q)).foldl (fun t q =>
    let f := t.takeFree
    f.2.countStream n q (q.kFrom + f.1 % (q.k - q.kFrom + 1))) s

/-- R127, R128: every stream stops where it is. -/
def State.countAllStopped (s : State) : State := s.cores.foldl (fun t x => t.countStopped x.1 (fun _ => true)) s

/-- R254, R319: what a core no longer holds of a context that has faulted or ended; the vector engines hold a stream
reduction of the context that used them last. -/
def Core.dropCtx (k : Core) (c : Nat) : Core :=
  let ps := k.passes.filter (fun p => p.ctx ≠ c)
  { k with
    passes := ps
    drainBusy := k.drainBusy && ps.any (fun p => p.phase == .drained)
    routine := k.routine.filter (fun r => r.ctx ≠ c)
    layouts := k.layouts.filter (fun l => l.ctx ≠ c)
    queues := k.queues.filterMap (fun q =>
      let l := q.2.filter (fun i => i.ctx ≠ c)
      if l = [] then none else some (q.1, l))
    fence := k.fence.filter (fun r => r.ctx ≠ c)
    dues := k.dues.filter (fun d => d.ctx ≠ c)
    fillDue := if k.veCtx = c then kdel k.fillDue 16 else k.fillDue
    pageOps := k.pageOps.filter (fun o => o.ctx ≠ c)
    seqs := kdel k.seqs c
    stream := if k.veCtx = c then [] else k.stream }

/-- R265: the chip cache without the unconfirmed lines of the hoists that are gone. -/
def dropTags (gone : Nat → Bool) (m : KMap (List CLine)) : KMap (List CLine) :=
  (m.map (fun e => (e.1, e.2.filter (fun l => !(l.hoist.any (fun x => gone x.1)))))).filter (fun e => !e.2.isEmpty)

/-- R270, R272: the entries of some hoists are released and their unconfirmed lines invalidated. -/
def State.endHoists (s : State) (p : Hoist → Bool) : State :=
  let gone := (s.hoists.filter p).map (fun h => h.order)
  { s with hoists := s.hoists.filter (fun h => !p h), chipCache := dropTags (fun k => gone.contains k) s.chipCache }

/-- R390: the members of the collectives of context `c` that wait in phase 0 learn that it ends: status bit 1. -/
def State.sayEnding (s : State) (c : Nat) : State :=
  ((s.ops.filter (fun o => o.ctx = c ∧ o.phase = OpPhase.phase0)).map (fun o =>
    ({ kind := .phase0, code := o.op, words := o.said.set 2 (wd o.said 2 ||| 2) } : Sent))).foldl State.send s

/-- R311: walks start in arrival order, 64 at once. -/
def runWalks (l : List Walk) : List Walk :=
  (l.zipIdx).map (fun w => { w.1 with running := w.1.running || decide (w.2 < 64) })

/-- R319: the engines hold nothing more of a context that has faulted or ended; a copy-on-write in service at the
walker completes. -/
def State.dropWork (s : State) (c : Nat) : State :=
  let s := s.endHoists (fun h => h.ctx == c)
  let s := { s with
    walks := runWalks (s.walks.filter (fun w => w.ctx ≠ c))
    parks := s.parks.filter (fun p => p.ctx ≠ c)
    ops := s.ops.map (fun (o : CollOp) =>
      if o.ctx = c ∧ o.phase ≠ OpPhase.phase0 ∧ o.phase ≠ OpPhase.done then { o with phase := .failed, writes := [] } else o) }
  let s := s.sayEnding c
  (s.ctx c).coreList.foldl (fun t n =>
    (t.countStopped n (fun p => p.ctx == c)).modCore n (fun k => k.dropCtx c)) s

/-- R33, R37: HALT_REQ is acted on once every primary and filler context is saved or holds nothing. -/
def State.haltDone (s : State) : State :=
  if s.mode = .running ∧ bitAt (s.reg 0x10) 0 ∧
      s.ctxs.all (fun x => x.1 = 0 ∨ !(x.2.state = 2 ∨ x.2.state = 3 ∨ x.2.state = 5)) then
    (s.setReg 0x10 (clearBit (s.reg 0x10) 0)).enter .halted
  else s

/-- R333: the requests of a context that ends or faults clear. -/
def State.dropCtl (s : State) (c : Nat) : State := s.setReg (bXl + 0x280 + 8 * c) 0

/-- R472, R319, R432: a contained event faults one context at the item that met it: the event is recorded,
the context enters FAULTED and issues nothing more, and its primary's windows close. A context that has
already faulted or ended issues nothing and does not fault again. A HALT_REQ in progress waits for it no more. -/
def State.ctxFault (s : State) (c code : Nat) (d0 d1 : Word := 0) (injected : Bool := false) : State :=
  let x := s.ctx c
  if x.state = 6 ∨ x.state = 7 then s
  else
    let s := s.record
      { kind := code, cls := 1, unitType := 8, unit := c, ctx := c, d0 := d0, d1 := d1, injected := injected }
    let s := s.setCtx c { x with state := 6, code := code, pending := [] }
    let s := (s.dropWork c).dropCtl c
    if x.cls = 2 then ({ s with step := { s.step with faulted := true } }.closeWindowsOf c).haltDone
    else if x.cls = 3 then { s with step := { s.step with fillerFaulted := true } }.haltDone
    else s

/-- R473, R443: a contained fault of a code with a telltale flag: E_STEP_SKEW and E_VERSION_STALE count
and set their flags (R446, R447). -/
def State.stepFault (s : State) (c : Nat) (stale : Bool) : State :=
  if stale then ((s.ctxFault c 0x04).count (bTell + 0x118) 1).flag (bTell + 0x20) 3
  else ((s.ctxFault c 0x03).count (bTell + 0x110) 1).flag (bTell + 0x20) 2

/-! ## Fencing a core (R35, R36, R484) -/

/-- Where CORE_FENCE of core `n` lies. -/
def fenceReg (n : Nat) : Nat := if n < 64 then 0x20 else 0x28

/-- R35: is core `n` fenced. -/
def State.fenced (s : State) (n : Nat) : Bool := bitAt (s.reg (fenceReg n)) (n % 64)

/-- R36: what a stopped core no longer holds: nothing in its engines goes on. -/
def Core.stopped (c : Core) : Core :=
  { c with
    passes := [], drainBusy := false, routine := none, layouts := [], queues := [], fence := []
    dues := [], fillDue := kdel c.fillDue 16, pageOps := [], seqs := [], stream := [], leWaits := false, missed := [], misses := [] }

/-- R36, R319: contexts with work on a core are those that run, save, restore or stand saved there. -/
def State.ctxsOn (s : State) (n : Nat) : List Nat :=
  (List.range 16).filter (fun c =>
    let x := s.ctx c
    c ≠ 0 && x.cores.testBit n && 2 ≤ x.state && x.state ≤ 5)

/-- R36, R484: fences core `n` for a reason; a core already fenced stays as it is. -/
def State.fenceCore (s : State) (n reason : Nat) (injected : Bool := false) : State :=
  if s.fenced n then s
  else
    let s := s.setReg (fenceReg n) (setBit (s.reg (fenceReg n)) (n % 64))
    let s := s.record { kind := 0x49, cls := 3, unitType := 1, unit := n, d0 := BitVec.ofNat 64 reason,
                        injected := injected }
    let hit := s.ctxsOn n
    let s := hit.foldl (fun t c => t.ctxFault c 0x0F (BitVec.ofNat 64 n) 0 injected) s
    let s := { s.endHoists (fun h => h.core == n) with parks := s.parks.filter (fun p => p.core ≠ n) }
    (s.countStopped n (fun _ => true)).modCore n Core.stopped

/-- R36: a running primary that has a fenced core among its own faults: it has work there. -/
def State.faultFenced (s : State) : State :=
  ((List.range 16).filter (fun c => (s.ctx c).cls = 2 ∧ (s.ctx c).state = 2)).foldl (fun t c =>
    match (t.ctx c).coreList.find? t.fenced with
    | some n => t.ctxFault c 0x0F (BitVec.ofNat 64 n)
    | none => t) s

/-- R548, R557: power loss, a reset or a module-class event during a rewrite leaves the calibration block damaged. -/
def Flash.cutCal (f : Flash) (now : Nat) : Flash :=
  { f with calDamaged := f.calDamaged || now < f.calUntil, calUntil := 0 }

/-- R547: at POWERING firmware checks the calibration block. -/
def Flash.checkCal (f : Flash) : Flash := { f with calDefaults := f.calDamaged }

/-- R496: the present rail reduction of a plumb run. -/
def Plumb.rail (p : Plumb) : Nat := if p.step = 0 then 0 else if p.step = 1 then p.railMv / 2 else p.railMv

/-! ## Module-class event and module reset (R12, R475) -/

/-- R333: every request of every context clears. -/
def State.dropAllCtl (s : State) : State := (List.range 16).foldl (fun t c => t.dropCtl c) s

/-- R475: every context ends without saving. -/
def State.endAllContexts (s : State) : State :=
  let s := s.countAllStopped.dropAllCtl
  { s with
    ctxs := s.ctxs.map (fun p => (p.1, if p.2.state = 0 then p.2 else { p.2 with state := 7, pending := [] }))
    cores := s.cores.map (fun p => (p.1, p.2.stopped))
    walks := [], parks := [], cows := [], hoists := [], ops := [], windows := []
    chipCache := dropTags (fun _ => true) s.chipCache }

/-- R475: stays and host ports stop sending: links read down and queue pairs stop. -/
def State.linksDown (s : State) : State :=
  let s := { s with
    stays := s.stays.map (fun p => (p.1, { p.2 with up := false, lanes := 0, waiting := [], replay := [] }))
    qps := s.qps.map (fun p => (p.1, { p.2 with connected := false })) }
  (List.range 8).foldl (fun t h => (t.setRfld (bPort h + 0x08) 1 0 0).setRfld (bPort h + 0x08) 4 3 3) s

/-- R475: a module-class event with its FAULT_CAUSE and ledger kind. In OFF nothing is powered;
in FAULTED the event is written and the module stays there with its cause. A load in progress ends (R366). Requests of CHIP_CTL and a job start under
way go without effect (R33, R37, R39). -/
def State.moduleEvent (s : State) (cause kind : Nat) (injected : Bool := false) : State :=
  if s.mode = .off then s
  else if s.mode = .faulted then
    (s.record { kind := kind, cls := 2, d0 := BitVec.ofNat 64 cause, injected := injected }).flushLedger
  else
    let s := s.record { kind := kind, cls := 2, d0 := BitVec.ofNat 64 cause, injected := injected }
    let s := s.endAllContexts.linksDown.setReg 0x10 0
    let s := { s with
      load := none, cause := cause, plumb := none, flash := s.flash.cutCal s.time.now
      step := { s.step with pendingStart := none } }
    (s.flushLedger).enter .faulted

/-- R12, R37, R529: what a module reset leaves: registers by their reset rule, module time, flash, the
management buffer, memory and the messages already sent; everything else is as at reset. -/
def State.moduleReset (s : State) : State :=
  let t := s.countAllStopped.enter .powering
  { State.reset with
    pending := t.pending
    mode := .powering
    cause := 0
    pins := { t.pins with faultN := true, thermAlertN := true, ppsOut := false, ref10m := false }
    power := { t.power with
      limiterCeil := 16, thermCeil := 16, holding := false, samples := [], ticks := 0, overRun := 0
      lowering := false, hotTicks := 0, coolTicks := 0, alertTicks := 0, crossed := 0 }
    time := { t.time with batten := none }
    regs := resetRegs t.regs
    mem := t.mem
    synd := t.synd
    sramErr := t.sramErr
    hurt := t.hurt
    plains := t.plains
    buffered := t.buffered
    flash := { (t.flash.cutCal t.time.now).checkCal with runSlot := 0xFF, reverted := false, fallback := false, recovery := false }
    nextSession := t.nextSession
    sent := t.sent
    free := t.free }

/-! ## The idle tick (R519) -/

/-- R519: one TCLK of module time: one nanosecond adjusted by the rate correction in units of 2^-32 ns. -/
def TimeUnit.tick (t : TimeUnit) : TimeUnit :=
  let f := ((t.frac : Int) + 2 ^ 32 + t.rate).toNat
  { t with now := (t.now + f / 2 ^ 32) % 2 ^ 64, frac := f % 2 ^ 32 }

/-- R519: PTP time, module time plus TIME_OFFSET. -/
def State.ptpTime (s : State) : Int := (s.time.now : Int) + (s.reg (bTime + 0x08)).toInt

/-- What a step does when no command waits: module time advances by one TCLK while the module is powered, and PPS_OUT
falls 100 ms after its PTP second boundary (R519, R522). -/
def State.idle (s : State) : State :=
  if s.mode.powered then
    let s := { s with time := s.time.tick }
    if s.pins.ppsOut ∧ 10 ^ 8 ≤ s.ptpTime % 10 ^ 9 then { s with pins := { s.pins with ppsOut := false } } else s
  else s

end Sys2Proof.Machine
end

