-- ==== Sys2Proof/Machine/Mem.lean ====
section
/-! DEFINITION. Stack DRAM with its code, on-die SRAM with its code, the chip cache and the core cache
(R212–R243), and the watch table's view of a write (R270). -/
namespace Sys2Proof.Machine

/-- A byte with its poison mark. -/
abbrev PByte := Byte × Bool

/-- Replaces the elements from `at_` on. -/
def splice {α : Type} (l : List α) (at_ : Nat) (new : List α) : List α :=
  l.take at_ ++ new ++ l.drop (at_ + new.length)

/-- Bytes by device address. -/
def State.bytes (s : State) (a n : Nat) : List Byte :=
  (List.range n).map (fun i => kget 0 s.mem (a + i))

/-- Writes bytes by device address, lowest first. -/
def putBytes (m : KMap Byte) (a : Nat) : List Byte → KMap Byte
  | [] => m
  | b :: r => putBytes (kset 0 m a b) (a + 1) r

/-- The canonical form of memory: addresses strictly rising, no byte equal to what an unlisted address reads as. -/
def Memory.wf (m : KMap Byte) : Bool := kwf (fun _ => 0) m

def State.setBytes (s : State) (a : Nat) (bs : List Byte) : State := { s with mem := putBytes s.mem a bs }

/-! ## The field and the code of a stack codeword (R214–R216) -/

/-- α × x in GF(2^16). -/
def gfX (x : Nat) : Nat :=
  let y := 2 * x
  if y < 65536 then y else (y - 65536) ^^^ 0x100B

/-- The product in GF(2^16), from the bits of `b`, low bit first. -/
def gfMulAux : Nat → Nat → Nat → Nat
  | 0, _, _ => 0
  | n + 1, a, b => (if b % 2 = 1 then a else 0) ^^^ gfMulAux n (gfX a) (b / 2)

def gfMul (a b : Nat) : Nat := gfMulAux 16 a b

/-- α^k. -/
def gfPow : Nat → Nat
  | 0 => 1
  | k + 1 => gfX (gfPow k)

/-- a^(2^1 + 2^2 + … + 2^n), from the square chain. -/
def gfInvAux : Nat → Nat → Nat
  | 0, _ => 1
  | n + 1, a => let q := gfMul a a; gfMul q (gfInvAux n q)

/-- The inverse a^(2^16 − 2). -/
def gfInv (a : Nat) : Nat := gfInvAux 15 a

/-- R214: the four syndromes of error `e` in symbol `i`, the coefficient of x^(35 − i), packed low first. -/
def symSynd (i e : Nat) : Nat :=
  let x := gfPow (35 - i)
  let e1 := gfMul e x
  let e2 := gfMul e1 x
  let e3 := gfMul e2 x
  e + e1 <<< 16 + e2 <<< 32 + e3 <<< 48

/-- R216: the syndromes of the poison pattern. -/
def poisonSynd : Nat :=
  symSynd 32 0x9E37 ^^^ symSynd 33 0x79B9 ^^^ symSynd 34 0x7F4A ^^^ symSynd 35 0x7C15

/-- The classes of R216, with the errors (symbol, value) to take out. -/
inductive CodeClass where
  | clean
  | corrected (errs : List (Nat × Nat))
  | poisoned
  | poisonPlus (sym err : Nat)
  | uncorrectable
  deriving DecidableEq, Repr

/-- The single symbol whose error has syndrome `z`, if there is one. -/
def oneError (z : Nat) : Option (Nat × Nat) :=
  if z % 65536 = 0 then none
  else ((List.range 36).find? (fun i => symSynd i (z % 65536) = z)).map (fun i => (i, z % 65536))

/-- The two symbols whose errors have syndrome `z`, if there are two. -/
def twoErrors (z : Nat) : Option (List (Nat × Nat)) :=
  let s0 := z % 65536; let s1 := z >>> 16 % 65536; let s2 := z >>> 32 % 65536; let s3 := z >>> 48 % 65536
  let det := gfMul s0 s2 ^^^ gfMul s1 s1
  if det = 0 then none
  else
    let d := gfInv det
    let c1 := gfMul (gfMul s1 s2 ^^^ gfMul s0 s3) d
    let c2 := gfMul (gfMul s1 s3 ^^^ gfMul s2 s2) d
    let roots := (List.range 36).filter (fun i =>
      let x := gfPow (35 - i)
      gfMul x x ^^^ gfMul c1 x ^^^ c2 = 0)
    match roots with
    | [i, j] =>
      let xi := gfPow (35 - i)
      let xj := gfPow (35 - j)
      let ei := gfMul (s1 ^^^ gfMul s0 xj) (gfInv (xi ^^^ xj))
      let ej := s0 ^^^ ei
      if ei ≠ 0 ∧ ej ≠ 0 ∧ (symSynd i ei ^^^ symSynd j ej) = z then some [(i, ei), (j, ej)] else none
    | _ => none

/-- R215, R216: the class of a codeword by its syndrome and CORRECT_MAX. -/
def classifyCode (cmax z : Nat) : CodeClass :=
  if z = 0 then .clean
  else if z = poisonSynd then .poisoned
  else
    match (if 1 ≤ cmax then oneError z else none) with
    | some e => .corrected [e]
    | none =>
      match (if 2 ≤ cmax then twoErrors z else none) with
      | some es => .corrected es
      | none =>
        match oneError (z ^^^ poisonSynd) with
        | some e => .poisonPlus e.1 e.2
        | none => .uncorrectable

/-- Takes an error out of the data of a codeword; check symbols hold no data. -/
def fixSymbol (d : List Byte) (e : Nat × Nat) : List Byte :=
  if e.1 < 32 then
    splice d (2 * e.1) [d.getD (2 * e.1) 0 ^^^ BitVec.ofNat 8 (e.2 % 256),
      d.getD (2 * e.1 + 1) 0 ^^^ BitVec.ofNat 8 (e.2 / 256)]
  else d

/-! ## Where an address goes (R212) -/

def paStack (pa : Nat) : Nat := bits pa 38 36
/-- R212: the 24-bit granule index within the stack. -/
def paGranule (pa : Nat) : Nat := bits pa 35 12
def paChannel (pa : Nat) : Nat :=
  let g := paGranule pa
  bits g 4 0 ^^^ bits g 9 5 ^^^ bits g 14 10 ^^^ bits g 19 15 ^^^ bits g 23 20
def paRow (pa : Nat) : Nat := bits (paGranule pa >>> 5) 18 4
def paBank (pa : Nat) : Nat :=
  let j := paGranule pa >>> 5
  bits pa 11 10 * 16 + (bits j 3 0 ^^^ bits j 7 4)

/-- R240: SC_ERR_LOG0 of an event. -/
def errLog (pa source kind : Nat) (errs : List (Nat × Nat)) : Word :=
  packWord [(59, paChannel pa), (53, paBank pa), (38, paRow pa), (34, bits pa 9 6), (32, source),
    (28, kind), (26, errs.length), (20, (errs.getD 0 (0, 0)).1), (14, (errs.getD 1 (0, 0)).1)]

/-- R240: writes both error log registers of the stack. -/
def State.logStack (s : State) (k : Nat) (log : Word) : State :=
  (s.setReg (bStack k + 0x30) log).setReg (bStack k + 0x38) (BitVec.ofNat 64 s.time.now)

/-! ## Codeword reads and writes (R216–R218, R223) -/

def State.codeSynd (s : State) (cw : Nat) : Nat := kget 0 s.synd cw

/-- Stores a codeword's data and syndrome as they are; what an injection did to it is gone. -/
def State.putCode (s : State) (cw : Nat) (d : List Byte) (z : Nat) : State :=
  { s with mem := putBytes s.mem (64 * cw) d, synd := kset 0 s.synd cw z, hurt := s.hurt.filter (· ≠ cw) }

/-- R216, R218, R222, R239–R241: reads codeword `cw` for `source` (0 demand, 1 patrol, 2 read-modify-write,
3 copy engine), with its classification, log, counters, ledger record and write-back. Answers the data
delivered and whether it is poisoned. -/
def State.readCode (s : State) (cw source : Nat) : (List Byte × Bool) × State :=
  let pa := 64 * cw
  let k := paStack pa
  let b := bStack k
  let d := s.bytes pa 64
  let s := s.count (b + 0x100) 1
  let unit := k * 32 + paChannel pa
  let inj := s.hurt.contains cw
  match classifyCode (s.rfld (b + 0x10) 1 0) (s.codeSynd cw) with
  | .clean => ((d, false), s)
  | .corrected es =>
    let log := errLog pa source 1 es
    let d := es.foldl fixSymbol d
    let s := ((s.count (b + 0x110) 1).count (b + 0x108) 1).logStack k log
    let s := if source = 0 then s.flag (b + 0x20) 0 else if source = 1 then s.flag (b + 0x20) 3 else s
    let s := s.record { kind := 0x40, cls := 0, unitType := 3, unit := unit, d0 := log, injected := inj }
    ((d, false), s.putCode cw d 0)
  | .poisoned =>
    let s := (s.count (b + 0x120) 1).logStack k (errLog pa source 3 [])
    ((d, true), s.flag (b + 0x20) 2)
  | .poisonPlus i e =>
    let s := (((s.count (b + 0x120) 1).count (b + 0x108) 1).logStack k (errLog pa source 3 [(i, e)])).flag (b + 0x20) 2
    let d := fixSymbol d (i, e)
    ((d, true), s.putCode cw d poisonSynd)
  | .uncorrectable =>
    let log := errLog pa source 2 []
    let s := ((s.count (b + 0x118) 1).count (b + 0x108) 1).logStack k log
    let s := if source = 0 then s.flag (b + 0x20) 1 else if source = 1 then s.flag (b + 0x20) 4 else s
    let s := s.record { kind := 0x41, cls := 0, unitType := 3, unit := unit, d0 := log, injected := inj }
    ((d, true), s.putCode cw d poisonSynd)

/-- R216: what a read of a codeword delivers, and whether it is poisoned. -/
def State.codeData (s : State) (cw : Nat) : List Byte × Bool :=
  let d := s.bytes (64 * cw) 64
  match classifyCode (s.rfld (bStack (paStack (64 * cw)) + 0x10) 1 0) (s.codeSynd cw) with
  | .clean => (d, false)
  | .corrected es => (es.foldl fixSymbol d, false)
  | .poisoned => (d, true)
  | .poisonPlus i e => (fixSymbol d (i, e), true)
  | .uncorrectable => (d, true)

/-- R233: a demand read of a codeword: one that joins an earlier request of its stack's window gets that one's data. -/
def State.demandCode (s : State) (cw : Nat) : (List Byte × Bool) × State :=
  if (s.stack (paStack (64 * cw))).joined.contains cw then (s.codeData cw, s) else s.readCode cw 0

/-- R233: a write that reaches a stack while its gather window is open stands in the window's order. -/
def State.noteWrite (s : State) (cw : Nat) : State :=
  let k := paStack (64 * cw)
  if (s.stack k).window = [] then s else s.modStack k (fun x => { x with window := x.window ++ [(0, cw)] })

/-- R217: writes all 64 bytes of a codeword, clean or poisoned. -/
def State.writeCode (s : State) (cw : Nat) (d : List Byte) (poison : Bool) : State :=
  let s := s.noteWrite cw
  (s.count (bStack (paStack (64 * cw)) + 0x108) 1).putCode cw d (if poison then poisonSynd else 0)

/-- R217: a masked write of a codeword: all 64 bytes at once, or a read-modify-write that stays poisoned when
the old codeword was poisoned or uncorrectable. -/
def State.writeMasked (s : State) (cw : Nat) (d : List Byte) (mask : Nat) (poison : Bool) : State :=
  if mask = 2 ^ 64 - 1 then s.writeCode cw d poison
  else
    let r := s.readCode cw 2
    let m := (List.range 64).map (fun i => if mask.testBit i then d.getD i 0 else r.1.1.getD i 0)
    r.2.writeCode cw m (poison || r.1.2)

/-! ## On-die SRAM (R219) -/

/-- The check pattern of a poisoned SRAM word, over the 72 bits of the word. -/
def sramPoison : Nat := 0x7F <<< 64

/-- R219: what the decoder makes of error pattern `e`. -/
inductive SramClass where
  | clean
  | corrected (flip : Nat)
  | poisoned
  | uncorrectable
  deriving DecidableEq, Repr

/-- Draws `k` of a list, each from those left. -/
def drawFrom (pick : Nat → Nat) : Nat → List Nat → List Nat
  | 0, _ => []
  | k + 1, l =>
    let i := pick k % l.length
    l.getD i 0 :: drawFrom pick k (l.eraseIdx i)

/-- The columns of one weight. -/
def columnsOf (n : Nat) : List Nat := (List.range 256).filter (fun c => popcount 8 c = n)

/-- R219: the columns of the 64 data bits: the 56 of weight 3 and eight of weight 5, in an order that is not given. Check bit
i has the column of weight 1 in which bit i stands. -/
def dataColumns : List Nat := drawFrom Config.secdedDeal 64 (columnsOf 3 ++ drawFrom Config.secdedHeavy 8 (columnsOf 5))

/-- R219: the syndrome of an error pattern over the 64 data bits and the 8 check bits above them. -/
def sramSyndrome (e : Nat) : Nat :=
  (List.range 64).foldl (fun x i => if e.testBit i then x ^^^ dataColumns.getD i 0 else x) (e >>> 64)

/-- R219: the bit whose column a syndrome is. -/
def columnBit (x : Nat) : Option Nat :=
  if popcount 8 x = 1 then ((List.range 8).find? (fun i => x == 2 ^ i)).map (fun i => 64 + i) else dataColumns.findIdx? (· == x)

/-- R219: the class of a stored word by its error pattern: by its syndrome. A pattern of one bit is corrected and one of two
bits, or poison with one bit flipped, is uncorrectable whatever the order of the columns. `corrected f` takes the bits of `f`
out. -/
def classifySram (e : Nat) : SramClass :=
  if e = 0 then .clean
  else if e = sramPoison then .poisoned
  else
    let n := popcount 72 e
    if n = 1 then .corrected e
    else if n = 2 ∨ popcount 72 (e ^^^ sramPoison) = 1 then .uncorrectable
    else
      let x := sramSyndrome e
      if x = 0 then .clean
      else if x = 0x7F then .poisoned
      else match columnBit x with
        | some b => .corrected (1 <<< b)
        | none => .uncorrectable

/-- The number of an SRAM word by INJ_SRAM target, unit and word (R505). -/
def sramKey (target unit word : Nat) : Nat := (target * 1024 + unit) * 2 ^ 21 + word

def State.sramMask (s : State) (key : Nat) : Nat := kget 0 s.sramErr key
def State.setSramMask (s : State) (key e : Nat) : State :=
  { s with sramErr := kset 0 s.sramErr key e, hurt := s.hurt.filter (· ≠ 2 ^ 33 + key) }

/-- R219, R242, R243: what a unit counts and records for a corrected (`ue` false) or uncorrectable word. -/
def State.sramEvent (s : State) (target unit word : Nat) (ue : Bool) : State :=
  let inj := s.hurt.contains (2 ^ 33 + sramKey target unit word)
  let s := s.record { kind := if ue then 0x43 else 0x42, cls := 0, unitType := if target = 3 then 6 else 1,
                      unit := unit, d0 := BitVec.ofNat 64 word, injected := inj }
  match target with
  | 1 => if ue then (s.count (bCs unit + 0x110) 1).flag (bCs unit) 1
         else (s.count (bCs unit + 0x108) 1).flag (bCs unit) 0
  | 3 => s.count (bCache + 0x1000 + unit * 0x100 + (if ue then 0x20 else 0x18)) 1
  | _ => s

/-- R219: reads one SRAM word whose stored data without its errors is `x`: the data delivered, whether it is
poisoned, and the state after counting and write-back. After the write-back the data is `x` again or, for a word the code
miscorrects, keeps errors that have no syndrome. -/
def State.sramRead (s : State) (target unit word x : Nat) : (Nat × Bool) × State :=
  let key := sramKey target unit word
  let e := s.sramMask key
  match classifySram e with
  | .clean => ((x ^^^ (e % 2 ^ 64), false), s)
  | .poisoned => ((x, true), s)
  | .corrected f =>
    ((x ^^^ ((e ^^^ f) % 2 ^ 64), false), (s.sramEvent target unit word false).setSramMask key (e ^^^ f))
  | .uncorrectable => ((x, true), (s.sramEvent target unit word true).setSramMask key sramPoison)

/-- R219: the words of an SRAM without stated contents that an injection altered are read: whether any of them comes
poisoned, the state after counting and recording. -/
def State.hurtWords (s : State) (target unit : Nat) : Bool × State :=
  (s.sramErr.filter (fun e => e.1 / 2 ^ 21 = target * 1024 + unit)).foldl (fun (a : Bool × State) e =>
    match classifySram e.2 with
    | .clean => a
    | .poisoned => (true, a.2.setSramMask e.1 0)
    | .corrected _ => (a.1, (a.2.sramEvent target unit (e.1 % 2 ^ 21) false).setSramMask e.1 0)
    | .uncorrectable => (true, (a.2.sramEvent target unit (e.1 % 2 ^ 21) true).setSramMask e.1 0)) (false, s)

/-- R475, R505: the first router of a route that holds an altered payload word for its next flit. -/
def State.alteredRouter (s : State) (route : List Nat) : Option Nat :=
  if s.sramErr.any (fun e => e.1 / 2 ^ 31 == 6) then route.find? (fun n => s.sramMask (sramKey 6 n 0) != 0) else none

/-- R16, R475, R505: a flit's payload at the end of its route: the word that an injection altered comes poisoned. -/
def State.meshWord (s : State) (route : List Nat) (bs : List PByte) : List PByte × State :=
  match s.alteredRouter route with
  | none => (bs, s)
  | some n => ((bs.take 8).map (fun b => (b.1, true)) ++ bs.drop 8, s.setSramMask (sramKey 6 n 0) 0)

/-! ### The core store (R228, R230) -/

/-- Device address of byte `off` of the core store of core `n`. -/
def csAddr (n off : Nat) : Nat := 0x010000000000 + n * 0x1000000 + off

/-- R219: reads the aligned word at `8 * w` of a core store. -/
def State.csWord (s : State) (n w : Nat) : (Nat × Bool) × State :=
  s.sramRead 1 n w (ofLeBytes (s.bytes (csAddr n (8 * w)) 8))

/-- Reads the core-store words from `w` on. -/
def State.csWords (s : State) (n : Nat) : Nat → Nat → List (Nat × Bool) × State
  | _, 0 => ([], s)
  | w, k + 1 =>
    let r := s.csWord n w
    let t := r.2.csWords n (w + 1) k
    (r.1 :: t.1, t.2)

/-- Reads bytes of a core store, each with its word's poison. -/
def State.csRead (s : State) (n off len : Nat) : List PByte × State :=
  if len = 0 then ([], s)
  else
    let w0 := off / 8
    let r := s.csWords n w0 ((off + len - 1) / 8 + 1 - w0)
    let bs := r.1.flatMap (fun x => (leBytes 8 x.1).map (fun b => (b, x.2)))
    ((bs.drop (off % 8)).take len, r.2)

/-- R219: writes some bytes of one core-store word. Eight clean bytes clear poison; fewer leave a poisoned or
uncorrectable word poisoned. -/
def State.csWriteWord (s : State) (n w at_ : Nat) (bs : List PByte) : State :=
  let key := sramKey 1 n w
  let pz := bs.any (fun b => b.2)
  if bs.length = 8 then
    (s.setBytes (csAddr n (8 * w)) (bs.map (fun b => b.1))).setSramMask key (if pz then sramPoison else 0)
  else
    let r := s.csWord n w
    let old := leBytes 8 r.1.1
    let s := r.2.setBytes (csAddr n (8 * w)) (splice old at_ (bs.map (fun b => b.1)))
    s.setSramMask key (if pz || r.1.2 then sramPoison else 0)

/-- Writes bytes of a core store, `k` words at most. -/
def State.csWriteN (s : State) (n : Nat) : Nat → Nat → List PByte → State
  | 0, _, _ => s
  | k + 1, off, bs =>
    if bs = [] then s
    else
      let m := 8 - off % 8
      (s.csWriteWord n (off / 8) (off % 8) (bs.take m)).csWriteN n k (off + m) (bs.drop m)

/-- What of a range [lo, hi) lies outside others. -/
def outside (ws : List (Nat × Nat)) (r : Nat × Nat) : List (Nat × Nat) :=
  ws.foldl (fun rs w => rs.flatMap (fun r =>
    if w.2 ≤ r.1 ∨ r.2 ≤ w.1 then [r]
    else (if r.1 < w.1 then [(r.1, w.1)] else []) ++ (if w.2 < r.2 then [(w.2, r.2)] else []))) [r]

/-- R87, R251: the counts that wait of loads whose data some writes leave; data that is overwritten before anything reads it
counts nothing. -/
def duesAfter (ws : List (Nat × Nat)) (ds : List Due) : List Due :=
  (ds.map (fun d => { d with ranges := d.ranges.flatMap (outside ws) })).filter (fun d => !d.ranges.isEmpty)

/-- R69, R87, R251: core-store ranges are written anew: they hold no digits of a sliced line and no data of earlier loads. -/
def State.rewritten (s : State) (n : Nat) (ws : List (Nat × Nat)) : State :=
  if (s.core n).slices.isEmpty && (s.core n).dues.isEmpty then s
  else s.modCore n (fun c => { c with
    slices := c.slices.filter (fun x => !ws.any (fun w => w.1 ≤ x.1 && x.1 < w.2)), dues := duesAfter ws c.dues })

def State.csWrite (s : State) (n off : Nat) (bs : List PByte) : State :=
  (s.rewritten n [(off, off + bs.length)]).csWriteN n (bs.length / 8 + 2) off bs

/-! ## The watch table's view of a write (R269, R270) -/

/-- R270: a write to [lo, hi) of stack memory marks stale every watch entry that covers one of its 256-B
granules. -/
def State.watchWrite (s : State) (lo hi : Nat) : State :=
  let hit := fun (h : Hoist) =>
    h.watched && !h.stale && h.lo / 256 * 256 < hi && lo < ceilTo h.hi 256 && h.lo < h.hi
  let n := (s.hoists.filter hit).length
  if n = 0 then s
  else
    let s := { s with hoists := s.hoists.map (fun h => if hit h then { h with stale := true } else h) }
    (s.count (bHoist + 0x110) n).flag (bHoist + 0x40) 0

/-! ## The chip cache (R220, R224–R226) -/

/-- R224: slice of a physical address. -/
def paSlice (pa : Nat) : Nat :=
  2 * paStack pa + (bits pa 8 8 ^^^ bits pa 12 12 ^^^ bits pa 16 16 ^^^ bits pa 20 20 ^^^ bits pa 24 24 ^^^
    bits pa 28 28 ^^^ bits pa 32 32)
/-- R224: set of a physical address. -/
def paSet (pa : Nat) : Nat := bits pa 35 9 % 1536
/-- Key of a set over all slices. -/
def setKey (pa : Nat) : Nat := paSlice pa * 1536 + paSet pa

/-- The number of word `w` of a line in its slice (R505). -/
def lineWord (set way w : Nat) : Nat := (way * 1536 + set) * 32 + w

/-- R219, R505: the error pattern of word `w` of a line of the chip cache as it is stored: poison, and what injections
altered. -/
def State.lineError (s : State) (l : CLine) (w : Nat) : Nat :=
  s.sramMask (sramKey 3 (paSlice (256 * l.line)) (lineWord (paSet (256 * l.line)) l.way w)) ^^^
    (if l.poison.getD w false then sramPoison else 0)

/-- R220: must a line go to its stack when it leaves the cache: it was written, or a word of it is uncorrectable. -/
def State.mustWrite (s : State) (l : CLine) : Bool :=
  l.dirty || (!s.sramErr.isEmpty && (List.range 32).any (fun w => classifySram (s.lineError l w) == .uncorrectable))

/-- R219: reads words `lo` to `lo + k − 1` of a line through the code of its slice; what comes back is the
line with those words as delivered, to be written to its stack where one was uncorrectable. -/
def State.lineScan (s : State) (l : CLine) : Nat → Nat → CLine × State
  | _, 0 => (l, s)
  | w, k + 1 =>
    let pa := 256 * l.line
    let key := sramKey 3 (paSlice pa) (lineWord (paSet pa) l.way w)
    if s.sramMask key = 0 then s.lineScan l (w + 1) k
    else
      let x := ofLeBytes ((l.data.drop (8 * w)).take 8)
      let s : State := if l.poison.getD w false then { s with sramErr := kset 0 s.sramErr key (s.sramMask key ^^^ sramPoison) } else s
      let r := s.sramRead 3 (paSlice pa) (lineWord (paSet pa) l.way w) x
      let l := { l with dirty := l.dirty || classifySram (s.sramMask key) == .uncorrectable
                        data := splice l.data (8 * w) (leBytes 8 r.1.1), poison := splice l.poison w [r.1.2] }
      (r.2.setSramMask key 0).lineScan l (w + 1) k

/-- Fetches codewords `lo` to `lo + k − 1` of a 256-B line from its stack; the bytes of the others are not read. -/
def State.fetchPart (s : State) (line lo k : Nat) : (List Byte × List Bool) × State :=
  (List.range 4).foldl (fun a i =>
    let r := if lo ≤ i ∧ i < lo + k then a.2.demandCode (4 * line + i) else ((List.replicate 64 0, false), a.2)
    ((a.1.1 ++ r.1.1, a.1.2 ++ List.replicate 8 r.1.2), r.2)) (([], []), s)

/-- Fetches the four codewords of a 256-B line from its stack. -/
def State.fetchLine (s : State) (line : Nat) : (List Byte × List Bool) × State := s.fetchPart line 0 4

/-- R220: writes a dirty line to its stack, codeword by codeword, poisoned where any of its words is. -/
def State.writeBack (s : State) (l : CLine) : State :=
  let r := s.lineScan l 0 32
  let s := r.2.count (bCache + 0x1000 + paSlice (256 * l.line) * 0x100 + 0x10) 1
  (List.range 4).foldl (fun t i =>
    t.writeCode (4 * l.line + i) ((r.1.data.drop (64 * i)).take 64)
      ((r.1.poison.drop (8 * i)).take 8 |>.any (fun b => b))) s

def State.lines (s : State) (key : Nat) : List CLine := kget [] s.chipCache key
def State.setLines (s : State) (key : Nat) (ls : List CLine) : State :=
  { s with chipCache := kset [] s.chipCache key ls }

/-- The line of a physical address, where the cache holds it: an unconfirmed one no access hits (R265). -/
def State.findLine (s : State) (line : Nat) : Option CLine :=
  (s.lines (setKey (256 * line))).find? (fun l => l.line = line ∧ l.hoist = none)

/-- Replaces a held line. -/
def State.putLine (s : State) (l : CLine) : State :=
  let key := setKey (256 * l.line)
  s.setLines key ((s.lines key).map (fun x => if x.line = l.line ∧ x.hoist = l.hoist then l else x))

/-- Takes a line out without writing it; an unconfirmed line of the same address stays. -/
def State.dropLine (s : State) (line : Nat) : State :=
  let key := setKey (256 * line)
  s.setLines key ((s.lines key).filter (fun x => x.line ≠ line ∨ x.hoist ≠ none))

/-- R225: the ways context `c` may fill. -/
def State.ways (s : State) (c : Nat) : List Nat :=
  (List.range 16).filter (fun w => (s.rfld (bCache + 8 * c) 15 0).testBit w)

/-- Words `lo` to `lo + k − 1` of an SRAM are written whole: no error stands in them any more. -/
def State.freshWords (s : State) (target unit lo k : Nat) : State :=
  let b := sramKey target unit lo
  { s with
    sramErr := s.sramErr.filter (fun e => e.1 < b || b + k ≤ e.1)
    hurt := s.hurt.filter (fun h => h < 2 ^ 33 + b || 2 ^ 33 + b + k ≤ h) }

/-- R217, R219: the words of a line that a write of `n` bytes at `o` covers only in part are read, the others are
written whole. -/
def State.lineFix (s : State) (l : CLine) (o n : Nat) : CLine × State :=
  let pa := 256 * l.line
  let w0 := o / 8
  let w1 := (o + n - 1) / 8
  let a := if o % 8 = 0 ∧ 8 ≤ n then (l, s) else s.lineScan l w0 1
  let b := if w1 = w0 ∨ (o + n) % 8 = 0 then a else a.2.lineScan a.1 w1 1
  (b.1, b.2.freshWords 3 (paSlice pa) (lineWord (paSet pa) l.way w0) (w1 + 1 - w0))

/-- R265: a hoist of which an unconfirmed line is dropped can no longer be confirmed. -/
def State.loseHoist (s : State) (order : Nat) : State :=
  { s with hoists := s.hoists.map (fun (h : Hoist) => if h.order = order then { h with usable := false } else h) }

/-- R220, R225, R265: a line leaves its way: an unconfirmed one is dropped, another goes to its stack where it must. -/
def State.evict (s : State) (v : CLine) : State :=
  match v.hoist with
  | some x => s.loseHoist x.1
  | none => if s.mustWrite v then s.writeBack v else s

/-- R225: installs a line in the ways of context `c`: a free way if there is one, else the way of a victim,
which leaves. Which victim the pseudo-LRU order names is free. A context without ways
installs nothing: a dirty line then goes to the stack at once, and an unconfirmed one is dropped. -/
def State.install (s : State) (c line : Nat) (dirty : Bool) (data : List Byte) (poison : List Bool)
    (hoist : Option (Nat × Nat) := none) : State :=
  let key := setKey (256 * line)
  let held := s.lines key
  let mk := fun w => ({ line := line, way := w, ctx := c, dirty := dirty, data := data, poison := poison, hoist := hoist } : CLine)
  match s.ways c with
  | [] => if dirty || hoist.isSome then s.evict (mk 0) else s
  | ws =>
    match ws.find? (fun w => !held.any (fun l => l.way = w)) with
    | some w => (s.freshWords 3 (paSlice (256 * line)) (lineWord (paSet (256 * line)) w 0) 32).setLines key (mk w :: held)
    | none =>
      let f := s.takeFree
      let w := ws.getD (f.1 % ws.length) 0
      let s := match held.find? (fun l => l.way = w) with
        | some v => f.2.evict v
        | none => f.2
      (s.freshWords 3 (paSlice (256 * line)) (lineWord (paSet (256 * line)) w 0) 32).setLines key
        (mk w :: (s.lines key).filter (fun l => l.way ≠ w))

/-- The bytes of part of a line with their words' poison. -/
def lineBytes (data : List Byte) (poison : List Bool) (at_ n : Nat) : List PByte :=
  (List.range n).map (fun i => (data.getD (at_ + i) 0, poison.getD ((at_ + i) / 8) false))

/-- R217, R219: a line's data and poison after a write of `bs` at `at_`. A word written only in part keeps
its poison. -/
def lineMerge (data : List Byte) (poison : List Bool) (at_ : Nat) (bs : List PByte) :
    List Byte × List Bool :=
  let hi := at_ + bs.length
  (splice data at_ (bs.map (fun b => b.1)),
   (List.range poison.length).map (fun w =>
     let whole := at_ ≤ 8 * w && 8 * w + 8 ≤ hi
     let new := (List.range 8).any (fun i =>
       at_ ≤ 8 * w + i && 8 * w + i < hi && (bs.getD (8 * w + i - at_) (0, false)).2)
     new || (!whole && poison.getD w false)))

/-- R224–R226: reads `n` bytes within one 256-B line through the chip cache for context `c`; policy 2 and a context without
ways do not allocate, and read only the codewords asked for. -/
def State.readInLine (s : State) (c policy pa n : Nat) : List PByte × State :=
  let line := pa / 256
  let o := pa % 256
  let cnt := bCache + 0x1000 + paSlice pa * 0x100
  match s.findLine line with
  | some l =>
    let r := (s.count cnt 1).lineScan l (o / 8) ((o + n - 1) / 8 + 1 - o / 8)
    (lineBytes r.1.data r.1.poison o n, r.2.putLine r.1)
  | none =>
    let u := s.count (cnt + 8) 1
    if policy = 2 ∨ (s.ways c).isEmpty then
      let f := u.fetchPart line (o / 64) ((o + n - 1) / 64 + 1 - o / 64)
      (lineBytes f.1.1 f.1.2 o n, f.2)
    else
      let f := u.fetchLine line
      (lineBytes f.1.1 f.1.2 o n, f.2.install c line false f.1.1 f.1.2)

/-- R226, R217: writes bytes within one 256-B line. A present line is updated; otherwise policies 0 and 1
allocate and policy 2 goes to DRAM by masked codeword writes. -/
def State.writeInLine (s : State) (c policy pa : Nat) (bs : List PByte) : State :=
  let line := pa / 256
  let o := pa % 256
  let cnt := bCache + 0x1000 + paSlice pa * 0x100
  let s := s.watchWrite pa (pa + bs.length)
  match s.findLine line with
  | some l =>
    let r := (s.count cnt 1).lineFix l o bs.length
    let m := lineMerge r.1.data r.1.poison o bs
    r.2.putLine { r.1 with dirty := true, data := m.1, poison := m.2 }
  | none =>
    let s := s.count (cnt + 8) 1
    if policy = 2 ∨ (s.ways c).isEmpty then
      (List.range 4).foldl (fun t i =>
        let m := (List.range 64).foldl (fun a b =>
          if o ≤ 64 * i + b ∧ 64 * i + b < o + bs.length then a + 2 ^ b else a) 0
        if m = 0 then t
        else
          let g := fun b => bs.getD (64 * i + b - o) (0, false)
          let pz := (List.range 64).any (fun b => m.testBit b && (g b).2)
          t.writeMasked (4 * line + i) ((List.range 64).map (fun b => (g b).1)) m pz) s
    else if bs.length = 256 then
      let m := lineMerge (List.replicate 256 0) (List.replicate 32 false) 0 bs
      s.install c line true m.1 m.2
    else
      let f := s.fetchLine line
      let m := lineMerge f.1.1 f.1.2 o bs
      f.2.install c line true m.1 m.2

/-- Reads bytes of stack memory through the chip cache, `k` lines at most. -/
def State.readPaN (s : State) (c policy : Nat) : Nat → Nat → Nat → List PByte × State
  | 0, _, _ => ([], s)
  | k + 1, pa, n =>
    if n = 0 then ([], s)
    else
      let m := min n (256 - pa % 256)
      let r := s.readInLine c policy pa m
      let t := r.2.readPaN c policy k (pa + m) (n - m)
      (r.1 ++ t.1, t.2)

def State.readPa (s : State) (c policy pa n : Nat) : List PByte × State :=
  s.readPaN c policy (n / 256 + 2) pa n

/-- Writes bytes of stack memory through the chip cache, `k` lines at most. -/
def State.writePaN (s : State) (c policy : Nat) : Nat → Nat → List PByte → State
  | 0, _, _ => s
  | k + 1, pa, bs =>
    if bs = [] then s
    else
      let m := 256 - pa % 256
      (s.writeInLine c policy pa (bs.take m)).writePaN c policy k (pa + m) (bs.drop m)

def State.writePa (s : State) (c policy pa : Nat) (bs : List PByte) : State :=
  s.writePaN c policy (bs.length / 256 + 2) pa bs

/-- Clean bytes. -/
def plain (bs : List Byte) : List PByte := bs.map (fun b => (b, false))

/-! ### Unconfirmed lines (R265, R266) -/

/-- The runs of set bits among the low 256: where each begins and how long it is. -/
def maskRuns (m : Nat) : List (Nat × Nat) :=
  let starts := (List.range 256).filter (fun i => m.testBit i && (i == 0 || !m.testBit (i - 1)))
  starts.map (fun i => (i, ((List.range (256 - i)).takeWhile (fun k => m.testBit (i + k))).length))

/-- R265: bytes that a hoist lands within one 256-B line: they join the unconfirmed line it has there, or one is installed in
the ways of its context. -/
def State.landInLine (s : State) (c order pa : Nat) (bs : List PByte) : State :=
  let line := pa / 256
  let o := pa % 256
  let mask := (2 ^ bs.length - 1) <<< o
  match (s.lines (setKey (256 * line))).find? (fun l => l.line = line ∧ l.hoist.any (fun x => x.1 == order)) with
  | some l =>
    let r := s.lineFix l o bs.length
    let m := lineMerge r.1.data r.1.poison o bs
    let key := setKey (256 * line)
    let old := (l.hoist.getD (0, 0)).2
    r.2.setLines key ((r.2.lines key).map (fun x =>
      if x.way = l.way then { r.1 with data := m.1, poison := m.2, hoist := some (order, old ||| mask) } else x))
  | none =>
    let m := lineMerge (List.replicate 256 0) (List.replicate 32 false) o bs
    s.install c line false m.1 m.2 (some (order, mask))

/-- R265: lands bytes of stack memory unconfirmed, `k` lines at most. -/
def State.landPaN (s : State) (c order : Nat) : Nat → Nat → List PByte → State
  | 0, _, _ => s
  | k + 1, pa, bs =>
    if bs = [] then s
    else
      let m := 256 - pa % 256
      (s.landInLine c order pa (bs.take m)).landPaN c order k (pa + m) (bs.drop m)

/-- The bytes of a line that its hoist landed. -/
def CLine.landed (l : CLine) : Nat := (l.hoist.getD (0, 0)).2

/-- R266: a line that a hoist landed whole becomes an ordinary dirty line where it stands, in place of what the cache held of its
address. -/
def State.keepLanded (s : State) (l : CLine) : State :=
  let key := setKey (256 * l.line)
  let s := s.watchWrite (256 * l.line) (256 * l.line + 256)
  s.setLines key (((s.lines key).filter (fun x => x.line ≠ l.line ∨ x.hoist ≠ none)).map (fun x =>
    if x.way = l.way then { x with hoist := none, dirty := true } else x))

/-- R266: a line that a hoist landed in part leaves its way; its landed bytes by physical address. -/
def State.takeLanded (s : State) (l : CLine) : List (Nat × List PByte) × State :=
  let r := s.lineScan l 0 32
  let key := setKey (256 * l.line)
  ((maskRuns l.landed).map (fun x => (256 * l.line + x.1, lineBytes r.1.data r.1.poison x.1 x.2)),
   r.2.setLines key ((r.2.lines key).filter (fun x => x.way ≠ l.way)))

/-- R266: the unconfirmed lines of a hoist become ordinary; the bytes of those it landed in part are written to their
addresses. -/
def State.adoptHoist (s : State) (c order : Nat) : State :=
  let ls := s.chipCache.flatMap (fun e => e.2.filter (fun l => l.hoist.any (fun x => x.1 == order)))
  let whole := fun (l : CLine) => l.landed == 2 ^ 256 - 1
  let s := (ls.filter whole).foldl (fun t l => t.keepLanded l) s
  let r := (ls.filter (fun l => !whole l)).foldl (fun (a : List (Nat × List PByte) × State) l =>
    let x := a.2.takeLanded l
    (a.1 ++ x.1, x.2)) ([], s)
  r.1.foldl (fun t x => t.writePa c 1 x.1 x.2) r.2

/-- A 64-bit word of stack memory through the chip cache under policy 1, with its poison. -/
def State.readWordPa (s : State) (c pa : Nat) : (Word × Bool) × State :=
  let r := s.readPa c 1 pa 8
  ((BitVec.ofNat 64 (ofLeBytes (r.1.map (fun b => b.1))), r.1.any (fun b => b.2)), r.2)

/-- Writes a 64-bit word of stack memory through the chip cache under policy 1. -/
def State.writeWordPa (s : State) (c pa : Nat) (w : Word) : State :=
  s.writePa c 1 pa (plain (leBytes 8 w.toNat))

/-- Writes every dirty line of a physical range to its stack and drops the range's lines: the copy engine
and the codec work on the stack behind the slices (R224). -/
def State.flushRange (s : State) (lo hi : Nat) : State :=
  s.chipCache.foldl (fun t e =>
    (e.2.filter (fun l => lo < 256 * l.line + 256 ∧ 256 * l.line < hi ∧ l.hoist = none)).foldl (fun u l =>
      (if u.mustWrite l then u.writeBack l else u).dropLine l.line) t) s

/-! ## The core cache (R220, R227) -/

def kSet (pa : Nat) : Nat := pa / 128 % 512
def kLineWord (set way w : Nat) : Nat := (way * 512 + set) * 16 + w

/-- R219, R220: reads words of a core-cache line through its code; `true` when one is uncorrectable, so that the line must be
fetched again. What is stored stays, and its errors without those corrected. -/
def State.kScan (s : State) (n : Nat) (l : KLine) : Nat → Nat → (KLine × Bool) × State
  | _, 0 => ((l, false), s)
  | w, k + 1 =>
    let word := kLineWord (kSet (128 * l.line)) l.way w
    let key := sramKey 2 n word
    if s.sramMask key = 0 then s.kScan n l (w + 1) k
    else
      let own := if l.poison.getD w false then sramPoison else 0
      let e := s.sramMask key ^^^ own
      let shown := fun (rest : Nat) (bad : Bool) =>
        let x := ofLeBytes ((l.data.drop (8 * w)).take 8) ^^^ (rest % 2 ^ 64)
        { l with data := splice l.data (8 * w) (leBytes 8 x), poison := splice l.poison w [bad] }
      match classifySram e with
      | .clean => s.kScan n (shown e false) (w + 1) k
      | .poisoned => s.kScan n (shown 0 true) (w + 1) k
      | .corrected f =>
        ((s.sramEvent 2 n word false).setSramMask key (e ^^^ f ^^^ own)).kScan n (shown (e ^^^ f) false) (w + 1) k
      | .uncorrectable => ((l, true), (s.sramEvent 2 n word true).setSramMask key 0)

/-- R225, R227: fetches a 128-B line into the core cache of core `n` through the chip cache: a free way, else a
victim that is free to choose. -/
def State.fillKLine (s : State) (n c pa : Nat) : KLine × State :=
  let line := pa / 128
  let set := kSet pa
  let f := s.readPa c 0 (128 * line) 128
  let data := f.1.map (fun b => b.1)
  let poison := (List.range 16).map (fun w => (f.1.getD (8 * w) (0, false)).2)
  let held := (kget [] (f.2.core n).cache set).filter (fun l => l.line ≠ line)
  let put := fun (t : State) (w : Nat) =>
    (t.freshWords 2 n (kLineWord set w 0) 16).modCore n (fun x => { x with
      cache := kset [] x.cache set (⟨line, w, data, poison⟩ :: held.filter (fun l => l.way ≠ w)) })
  match (List.range 8).find? (fun w => !held.any (fun l => l.way = w)) with
  | some w => (⟨line, w, data, poison⟩, put f.2 w)
  | none => let g := f.2.takeFree; (⟨line, g.1 % 8, data, poison⟩, put g.2 (g.1 % 8))

/-- The line of a core cache that holds an address. -/
def State.findKLine (s : State) (n pa : Nat) : Option KLine :=
  (kget [] (s.core n).cache (kSet pa)).find? (fun l => l.line = pa / 128)

/-- R227: loads `m` bytes within one 128-B line through the core cache of core `n` under policy 0. -/
def State.loadInKLine (s : State) (n c pa m : Nat) : List PByte × State :=
  let o := pa % 128
  let miss := fun (s : State) =>
    let s := s.modCore n (fun k => { k with missed := k.missed ++ [pa / 128] })
    let f := (s.count (bCs n + 0x120) 1).fillKLine n c pa
    (lineBytes f.1.data f.1.poison o m, f.2)
  match s.findKLine n pa with
  | none => miss s
  | some l =>
    let r := (s.count (bCs n + 0x118) 1).kScan n l (o / 8) ((o + m - 1) / 8 + 1 - o / 8)
    if r.1.2 then miss (r.2.flag (bCs n) 2)
    else (lineBytes r.1.1.data r.1.1.poison o m, r.2)

def State.loadPaN (s : State) (n c : Nat) : Nat → Nat → Nat → List PByte × State
  | 0, _, _ => ([], s)
  | k + 1, pa, len =>
    if len = 0 then ([], s)
    else
      let m := min len (128 - pa % 128)
      let r := s.loadInKLine n c pa m
      let t := r.2.loadPaN n c k (pa + m) (len - m)
      (r.1 ++ t.1, t.2)

/-- R226, R227: an access-engine load of core `n`: policy 0 through the core cache, others past it. -/
def State.loadPa (s : State) (n c policy pa len : Nat) : List PByte × State :=
  if policy = 0 then s.loadPaN n c (len / 128 + 2) pa len else s.readPa c policy pa len

/-- Replaces a line of a core cache, or takes it out. -/
def State.setKLine (s : State) (n line : Nat) (x : Option KLine) : State :=
  s.modCore n (fun k => { k with cache := kmod [] k.cache (kSet (128 * line)) (fun ls =>
    ls.filter (fun l => l.line ≠ line) ++ x.toList) })

/-- R219, R220, R227: a present line of a core cache takes bytes at `o`: words covered only in part are read first, and an
uncorrectable one among them invalidates the line; the words written hold no error any more. -/
def State.putKLine (s : State) (n : Nat) (l : KLine) (o : Nat) (bs : List PByte) : State :=
  let w0 := o / 8
  let w1 := (o + bs.length - 1) / 8
  let a := if o % 8 = 0 ∧ 8 ≤ bs.length then ((l, false), s) else s.kScan n l w0 1
  let b := if w1 = w0 ∨ (o + bs.length) % 8 = 0 then a else a.2.kScan n a.1.1 w1 1
  if a.1.2 || b.1.2 then (b.2.flag (bCs n) 2).setKLine n l.line none
  else
    let m := lineMerge b.1.1.data b.1.1.poison o bs
    (b.2.freshWords 2 n (kLineWord (kSet (128 * l.line)) l.way w0) (w1 + 1 - w0)).setKLine n l.line
      (some { b.1.1 with data := m.1, poison := m.2 })

/-- R227: a store of core `n` updates the present lines of its core cache and goes on to the chip cache. -/
def State.storePa (s : State) (n c policy pa : Nat) (bs : List PByte) : State :=
  let hi := pa + bs.length
  let ls := ((s.core n).cache.flatMap (fun e => e.2)).filter (fun l => pa < 128 * l.line + 128 && 128 * l.line < hi)
  (ls.foldl (fun t l =>
    let lo := max (128 * l.line) pa
    t.putKLine n l (lo - 128 * l.line) ((bs.drop (lo - pa)).take (128 * l.line + 128 - lo))) s).writePa c policy pa bs

/-- R227: ACQUIRE invalidates the whole core cache. -/
def State.acquire (s : State) (n : Nat) : State :=
  (s.modCore n (fun c => { c with cache := [] })).count (bCs n + 0x128) 1

/-! ## Copying inside a stack (R234) -/

/-- R234: copies `k` codewords with poison carried and corrected data copied corrected. -/
def State.copyCodes (s : State) : Nat → Nat → Nat → State
  | _, _, 0 => s
  | src, dst, k + 1 =>
    let r := s.readCode src 3
    ((r.2.writeCode dst r.1.1 r.1.2).copyCodes (src + 1) (dst + 1) k)

/-- R234: writes `k` clean zero codewords. -/
def State.zeroCodes (s : State) : Nat → Nat → State
  | _, 0 => s
  | dst, k + 1 => (s.writeCode dst (List.replicate 64 0) false).zeroCodes (dst + 1) k

/-- R234, R241: COPY of `units` × 64 KiB between 64 KiB-aligned addresses of one stack. -/
def State.stackCopy (s : State) (src dst units : Nat) : State :=
  let n := units * 65536
  let s := (s.flushRange src (src + n)).flushRange dst (dst + n)
  let s := s.watchWrite dst (dst + n)
  (s.copyCodes (src / 64) (dst / 64) (n / 64)).count (bStack (paStack dst) + 0x140) n

/-- R234, R241: FILL_ZERO of `units` × 64 KiB. -/
def State.fillZero (s : State) (dst units : Nat) : State :=
  let n := units * 65536
  let s := (s.flushRange dst (dst + n)).watchWrite dst (dst + n)
  (s.zeroCodes (dst / 64) (n / 64)).count (bStack (paStack dst) + 0x140) n

end Sys2Proof.Machine
end

