-- ==== Sys2Proof/Machine/Codec.lean ====
section
/-! DEFINITION. The base-die commands of a stack (R216–R223, R233–R236). -/
namespace Sys2Proof.Machine

/-! ## Codewords, copies, refresh, patrol -/

/-- What a base-die command hands back to its requester: data or an entry, with the poison of its 64-bit words
in `words` (1 poisoned). -/
def State.deliver (s : State) (dest : Nat) (bs : List Byte) (poison : Bool) : State :=
  s.send { kind := .stackData, dest := dest, status := if poison then 1 else 0, bytes := bs }

/-- READ (R216, R218, R222): reads, classifies, corrects and answers one codeword. -/
def execRead (codeword : Fin 8589934592) (source : Fin 4) (s : State) : Res :=
  if s.mode.powered then
    let r := s.readCode codeword source
    .next (r.2.deliver codeword r.1.1 r.1.2)
  else .next s

/-- WRITE (R217, R223): writes one codeword, masked by byte. -/
def execWrite (codeword : Fin 8589934592) (data : List Byte) (mask : BitVec 64) (poison : Bool) (s : State) : Res :=
  .next (if s.mode.powered then
    (s.watchWrite (64 * codeword) (64 * codeword + 64)).writeMasked codeword
      ((List.range 64).map (fun i => data.getD i 0)) mask.toNat poison
  else s)

/-- R234: does a 64-KiB-aligned range lie within one stack. -/
def rangeFits (dst units : Nat) : Bool := 1 ≤ units && dst / 1048576 == (dst + units - 1) / 1048576

/-- R234: may COPY run: 64 KiB to 1 GiB, within the stack. -/
def copyFits (dst units : Nat) : Bool := units ≤ 16384 && rangeFits dst units

/-- STACK_COPY (R234, R241): copies within the stack, codeword by codeword. -/
def execStackCopy (src dst : Fin 8388608) (units : Nat) (s : State) : Res :=
  .next (if s.mode.powered && copyFits src units && copyFits dst units && src.val / 1048576 == dst.val / 1048576 then
    s.stackCopy (src * 65536) (dst * 65536) units
  else s)

/-- FILL_ZERO (R234, R241). -/
def execFillZero (dst : Fin 8388608) (units : Nat) (s : State) : Res :=
  .next (if s.mode.powered && rangeFits dst units then s.fillZero (dst * 65536) units else s)

/-- SCRUB (R222, R238): patrol reads one codeword; a whole stack read counts one pass; a period of 0 stops it. -/
def execScrub (codeword : Fin 8589934592) (s : State) : Res :=
  let k := paStack (64 * codeword)
  let b := bStack k
  if s.mode.powered && s.rfld (b + 0x18) 7 0 != 0 then
    let s := (s.readCode codeword 1).2
    if (s.stack k).patrolled + 1 = 2 ^ 30 then
      .next ((s.modStack k (fun x => { x with patrolled := 0 })).setRfld (b + 0x18) 63 32
        ((s.rfld (b + 0x18) 63 32 + 1) % 2 ^ 32))
    else .next (s.modStack k (fun x => { x with patrolled := x.patrolled + 1 }))
  else .next s

/-- REFRESH (R221): a due refresh is postponed while commands wait, at most eight intervals, or runs with every
one postponed before it. -/
def execRefresh (stack : Fin 8) (channel : Fin 32) (bank : Fin 64) (waiting : Bool) (s : State) : Res :=
  let key := channel.val * 64 + bank.val
  let owed := kget 0 (s.stack stack).postponed key
  .next (if s.mode.powered then
    s.modStack stack (fun x => { x with
      postponed := kset 0 x.postponed key (if waiting && owed < 8 then owed + 1 else 0) })
  else s)

/-- R208: frames of the KV pool of a stack, and how many of them are free. -/
def State.poolFrames (s : State) (k : Nat) : Nat := s.rfld (bLedger k) 16 0
def State.poolFree (s : State) (k : Nat) : Nat :=
  s.poolFrames k - ((s.stack k).ledger.filter (fun e => e.1 < s.poolFrames k && e.2.toNat % 65536 != 0)).length

/-- R200, R208: writes a ledger entry; LEDGER_FREE follows. -/
def State.setLedger (s : State) (k f : Nat) (v : BitVec 32) : State :=
  let s := s.modStack k (fun x => { x with ledger := kset 0 x.ledger f v })
  let free := s.poolFree k
  s.setReg (bLedger k + 8) (packWord [(32, min free (s.rfld (bLedger k + 8) 48 32)), (0, free)])

def State.ledgerOf (s : State) (k f : Nat) : Nat := (kget 0 (s.stack k).ledger f).toNat

/-- LEDGER (R200, R234): reads or updates the page-ledger entry of a frame. -/
def execLedger (stack : Fin 8) (frame : Fin 65536) (write : Option (BitVec 32)) (s : State) : Res :=
  if s.mode.powered then
    match write with
    | some v => .next (s.setLedger stack frame v)
    | none => .next (s.deliver frame (leBytes 4 (kget 0 (s.stack stack).ledger frame).toNat) false)
  else .next s

/-! ## The gather merger (R233) -/

/-- R233: gather reads of one codeword that no write separates. A window lists, in arrival order, the requests as
(request number from 1, codeword) and the writes as (0, codeword). -/
def mergedAt (before after : List (Nat × Nat)) (cw req : Nat) : Bool :=
  let look := fun (l : List (Nat × Nat)) =>
    match l.find? (fun x => x.2 = cw && x.1 ≠ req) with
    | some x => x.1 ≠ 0
    | none => false
  look before || look after

/-- R233: the numbers of the requests of a window that a merged access serves. -/
def mergedIn : List (Nat × Nat) → List (Nat × Nat) → List Nat
  | _, [] => []
  | before, x :: r =>
    (if x.1 ≠ 0 && mergedAt before r x.2 x.1 then [x.1] else []) ++ mergedIn (x :: before) r

/-- R233, R241: the window of a stack issues and its merged requests count. -/
def State.issueWindow (s : State) (k : Nat) : State :=
  let n := (mergedIn [] (s.stack k).window).eraseDups.length
  (s.modStack k (fun x => { x with window := [] })).count (bStack k + 0x138) n

/-- GATHER_WINDOW_ISSUE (R233, R241). -/
def execGatherWindowIssue (stack : Fin 8) (s : State) : Res := .next (s.issueWindow stack)

/-- R233: would a gather read of a codeword merge with an earlier request of the window: none of its writes lies between. -/
def State.merges (s : State) (cw : Nat) : Bool :=
  match (s.stack (paStack (64 * cw))).window.reverse.find? (fun x => x.2 = cw) with
  | some x => x.1 ≠ 0
  | none => false

/-- R233, R241: a gather read of some codewords begins: those that merge are no DRAM access of their own. -/
def State.joinReads (s : State) (cws : List Nat) : State :=
  (cws.filter s.merges).foldl (fun t cw => t.modStack (paStack (64 * cw)) (fun x => { x with joined := cw :: x.joined })) s

/-- R233: the gather read is over. -/
def State.partReads (s : State) : State :=
  { s with stackUnits := s.stackUnits.map (fun x => (x.1, { x.2 with joined := [] })) }

/-! ## The furl codec (R235, R236) -/

/-- R235: the stored units of a packed granule, `k` × 256 bytes. -/
def furlStored (d : List Byte) (k : Nat) : List Byte :=
  (List.range (256 * k)).map (fun i => (Config.furlEncode d).getD i 0)

/-- R235: the size byte of a granule's units: 0 raw, 1 to 15 packed. A content whose units another content has
already taken is stored raw, so that unpacking is exact. -/
def State.furlSize (s : State) (d : List Byte) : Nat :=
  let k := Config.furlUnits d
  if k = 0 ∨ 15 < k then 0
  else if s.plains.any (fun p => p ≠ d && Config.furlUnits p == k && furlStored p k == furlStored d k) then 0
  else k

/-- Writes bytes of a granule's slot, codeword by codeword, behind the slices. -/
def State.writeSlot (s : State) (pa : Nat) : Nat → List PByte → State
  | 0, _ => s
  | k + 1, bs =>
    if bs = [] then s
    else
      let d := (List.range 64).map (fun i => (bs.getD i (0, false)).1)
      (s.writeCode (pa / 64) d ((bs.take 64).any (fun b => b.2))).writeSlot (pa + 64) k (bs.drop 64)

/-- Reads bytes of a granule's slot, codeword by codeword, behind the slices. -/
def State.readSlot (s : State) (pa : Nat) : Nat → List PByte × State
  | 0 => ([], s)
  | k + 1 =>
    let r := s.readCode (pa / 64) 0
    let t := r.2.readSlot (pa + 64) k
    (r.1.1.map (fun b => (b, r.1.2)) ++ t.1, t.2)

/-- R217, R235: writes the size byte of a granule. -/
def State.writeSize (s : State) (sizeAt size : Nat) : State :=
  let s := (s.flushRange sizeAt (sizeAt + 1)).watchWrite sizeAt (sizeAt + 1)
  s.writeMasked (sizeAt / 64) (List.replicate 64 (BitVec.ofNat 8 size)) (2 ^ (sizeAt % 64)) false

/-- R235: reads the size byte of a granule, with its poison. -/
def State.readSize (s : State) (sizeAt : Nat) : (Nat × Bool) × State :=
  let s := s.flushRange sizeAt (sizeAt + 1)
  let r := s.readCode (sizeAt / 64) 0
  (((r.1.1.getD (sizeAt % 64) 0).toNat % 16, r.1.2), r.2)

/-- R235, R217, R241: FURL_PACK of the 4,096 bytes of granule `g`. A granule that holds poison is stored raw, its
poison with it. Answers the size byte. -/
def State.furlPack (s : State) (g sizeAt : Nat) (d : List PByte) : Nat × State :=
  let pa := 4096 * g
  let bs := (List.range 4096).map (fun i => d.getD i (0, false))
  let plainBs := bs.map (fun b => b.1)
  let k := if bs.any (fun b => b.2) then 0 else s.furlSize plainBs
  let s := (s.flushRange pa (pa + 4096)).watchWrite pa (pa + 4096)
  let s := if k = 0 then s.writeSlot pa 64 bs else s.writeSlot pa 64 (plain (furlStored plainBs k))
  let s := s.writeSize sizeAt k
  let s := if k = 0 ∨ s.plains.contains plainBs then s else { s with plains := plainBs :: s.plains }
  (k, ((s.count (bStack (paStack pa) + 0x148) 4096).count (bStack (paStack pa) + 0x150)
    (if k = 0 then 4096 else 256 * k)))

/-- R234: RAW_READ of granule `g`: its size byte and stored units with their poison. -/
def State.rawRead (s : State) (g sizeAt : Nat) : (Nat × Bool × List PByte) × State :=
  let pa := 4096 * g
  let z := s.readSize sizeAt
  let s := z.2.flushRange pa (pa + 4096)
  let r := s.readSlot pa (if z.1.1 = 0 then 64 else 4 * z.1.1)
  ((z.1.1, z.1.2, r.1), r.2)

/-- R234: RAW_WRITE of granule `g`: stored units and size byte unchanged. -/
def State.rawWrite (s : State) (g sizeAt size : Nat) (u : List PByte) : State :=
  let pa := 4096 * g
  let n := if size = 0 then 4096 else 256 * size
  let s := (s.flushRange pa (pa + 4096)).watchWrite pa (pa + 4096)
  (s.writeSlot pa 64 ((List.range n).map (fun i => u.getD i (0, false)))).writeSize sizeAt size

/-- R236: what stored units decode to: the content that was packed into them, and poison for units that no
content has. -/
def State.furlDecode (s : State) (k : Nat) (u : List PByte) : List PByte :=
  let bad := List.replicate 4096 ((0 : Byte), true)
  if u.any (fun b => b.2) then bad
  else
    match s.plains.find? (fun p => Config.furlUnits p == k && furlStored p k == u.map (fun b => b.1)) with
    | some p => plain p
    | none => bad

/-- R236: FURL_UNPACK of granule `g`: the exact 4,096 bytes that were furled. -/
def State.furlUnpack (s : State) (g sizeAt : Nat) : List PByte × State :=
  let r := s.rawRead g sizeAt
  if r.1.2.1 then (List.replicate 4096 (0, true), r.2)
  else if r.1.1 = 0 then (r.1.2.2, r.2)
  else (r.2.furlDecode r.1.1 r.1.2.2, r.2)

/-- FURL_PACK (R235, R241). -/
def execFurlPack (granule : Fin 134217728) (sizeAt : Nat) (data : List Byte) (s : State) : Res :=
  .next (if s.mode.powered then (s.furlPack granule sizeAt (plain data)).2 else s)

/-- FURL_UNPACK (R236). -/
def execFurlUnpack (granule : Fin 134217728) (sizeAt : Nat) (s : State) : Res :=
  if s.mode.powered then
    let r := s.furlUnpack granule sizeAt
    .next (r.2.deliver granule (r.1.map (fun b => b.1)) (r.1.any (fun b => b.2)))
  else .next s

/-- RAW_READ (R234). -/
def execRawRead (granule : Fin 134217728) (sizeAt : Nat) (s : State) : Res :=
  if s.mode.powered then
    let r := s.rawRead granule sizeAt
    .next (r.2.deliver granule (BitVec.ofNat 8 r.1.1 :: r.1.2.2.map (fun b => b.1))
      (r.1.2.1 || r.1.2.2.any (fun b => b.2)))
  else .next s

/-- RAW_WRITE (R234). -/
def execRawWrite (granule : Fin 134217728) (sizeAt : Nat) (size : Fin 16) (units : List Byte) (s : State) : Res :=
  .next (if s.mode.powered then s.rawWrite granule sizeAt size (plain units) else s)

end Sys2Proof.Machine
end

