-- ==== Sys2Proof/Machine/Operands.lean ====
section
/-! DEFINITION. Operand forms of engine items: tensor views and their elements (R283–R293), run-time shapes
(R355), strided descriptor indices (R354), buffers of the memory plan (R348, R350), translation (R306–R313). -/
namespace Sys2Proof.Machine

/-! ## Buffers of the memory plan -/

/-- Physical address of byte `off` among consecutive pieces. -/
def pieceAt : List (Nat × Nat) → Nat → Option Nat
  | [], _ => none
  | (base, len) :: r, off => if off < len then some (base + off) else pieceAt r (off - len)

/-- The placed buffer of the resident image. -/
def State.placedBuf (s : State) (b : Nat) : Option Placed :=
  match s.image with
  | none => none
  | some g => g.placed.find? (fun p => p.id = b)

/-- Physical address of byte `off` of a placed buffer, counted over its instances (R348, R350). -/
def State.bufPa (s : State) (b off : Nat) : Option Nat :=
  match s.placedBuf b with
  | none => none
  | some p => pieceAt p.pieces off

/-- Reads bytes of a placed buffer through the chip cache for context `c`; a buffer that is not placed reads
nothing. -/
def State.readBuf (s : State) (c b off n : Nat) : List PByte × State :=
  match s.bufPa b off with
  | some pa => s.readPa c 1 pa n
  | none => ([], s)

/-! ## Descriptor words -/

/-- R354: what a context's loops add to a tensor descriptor index. -/
def descOffset (q : Seq) : Nat := (q.loops.map (fun l => l.iter * l.descStep)).foldl (· + ·) 0

/-- R354: a strided descriptor index in bits [lo+15:lo] of word `i`; 0xFFFF is left alone. -/
def strideIndex (k : Nat) (ws : List Word) (f : Nat × Nat) : List Word :=
  let w := wd ws f.1
  let x := fld w (f.2 + 15) f.2
  if x = 0xFFFF then ws else splice ws f.1 [setFld w (f.2 + 15) f.2 (x + k)]

/-- R354: the words of an item as it issues in its loops; `fs` lists its tensor index fields as
(word, low bit). -/
def State.issueWords (s : State) (d : Desc) (fs : List (Nat × Nat)) : List Word :=
  let q := kget {} (s.core d.core).seqs d.ctx
  fs.foldl (strideIndex (descOffset q)) d.words

/-- R347: the value of a tackle counter. -/
def State.tackleOf (s : State) (cnt : Nat) : Nat := kget 0 s.tackle cnt

/-- R359: does a window cover core `n`; has its closing counter reached its threshold. -/
def windowCovers (w : List Word) (n : Nat) : Bool := bitAt (wd w (3 + n / 64)) (n % 64)
def State.windowDue (s : State) (w : List Word) : Bool := (wd w 2).toNat ≤ s.tackleOf (wfld w 0 39 24)

/-- R324: a primary's next descriptor on a core waits until the state of a filler has left the engines: the filler
still saves there, or its window is due to close. -/
def State.fillerHolds (s : State) (n c : Nat) : Bool :=
  (s.ctxs.any (fun x => x.2.cls == 3 && x.2.primary == c && x.2.state == 3 && x.2.pending.contains n)) ||
  s.windows.any (fun w => (s.ctx (s.windowFiller w)).primary == c && windowCovers (s.bubble w) n &&
    s.windowDue (s.bubble w))

/-- R13, R14: the reticle field of a core, of four in two rows of two. -/
def coreField (n : Nat) : Nat := n / 64 * 2 + n % 16 / 8

/-- R360, R496: does plan `p` leave a field to plumb runs: its bit of PLUMB_PLANS is set and its programs there are empty. -/
def State.plumbPlan (s : State) (field p : Nat) : Bool :=
  bitAt (wd (s.section 0x0023 0) 0) (43 + p) &&
    (List.range 128).all (fun n => coreField n != field || s.progLen p n == 0)

/-- R497: may a unit run now: an idle-phase run needs a phase of a plan that leaves the field idle. -/
def State.unitMayRun (s : State) (p : Plumb) : Bool :=
  s.mode.powered && (p.mode == 0 || (s.mode == .running && s.step.phaseOn && s.plumbPlan p.field s.plan))

/-- R497: a run in MODE 0 keeps the cores of its field from issuing anything further. -/
def State.plumbHolds (s : State) (n : Nat) : Bool :=
  s.plumb.any (fun p => p.mode == 0 && coreField n == p.field)

/-- R353: may context `c` issue an item on core `n`: it runs (CTX0 or state running), the core is not fenced
its sequencer neither waits, nor skips a loop body, nor has ended, and no filler's state and no plumb run holds it. -/
def State.mayIssue (s : State) (n c : Nat) : Bool :=
  let q := kget {} (s.core n).seqs c
  (s.ctx c).state == 2 && !s.fenced n && q.waitCnt.isNone && !q.ended && q.skip == 0 &&
    !s.fillerHolds n c && !s.plumbHolds n

/-- R355: the eight values of run-time shape slot `i` of plan `p`, with their poison. -/
def State.rtsSlot (s : State) (c p i : Nat) : (List Nat × Bool) × State :=
  let b := wfld (s.planSec p) 6 63 48
  let r := s.readBuf c b ((i - 1) * 32) 32
  let v := fun k => ofLeBytes (((r.1.drop (4 * k)).take 4).map (fun x => x.1))
  (((List.range 8).map v, r.1.any (fun x => x.2)), r.2)

/-- R355: the shape values an item takes: slot RTS_INDEX read for its context, or the planned ones. -/
def State.shapeOf (s : State) (c p idx : Nat) (planned : List Nat) : (List Nat × Bool) × State :=
  if idx = 0 then ((planned, false), s)
  else
    let r := s.rtsSlot c p idx
    ((r.1.1.take planned.length, r.1.2), r.2)

/-- R347: one tackle counter counts `k` more. -/
def State.tackleAdd (s : State) (cnt k : Nat) : State :=
  if cnt < 4096 then { s with tackle := kmod 0 s.tackle cnt (fun v => (v + k) % 2 ^ 64) } else s

/-! ## Tensor views (R283–R292) -/

/-- A tensor view: where it lies, its sizes for the operation and as planned, and for a window the parent's
planned sizes, the origin, and the parent's sizes for the operation where these are not the planned ones. -/
structure View where
  base   : Nat
  fmt    : Fmt
  ndim   : Nat
  space  : Nat
  caxis  : Nat
  scale  : Nat
  pad    : Nat
  pos    : Nat
  sizes  : List Nat
  plan   : List Nat
  stride : List Int
  shape  : List Nat
  origin : Option (List Int)
  edge   : List Nat := []

/-- R283: SIZE d. -/
def descSize (ws : List Word) (d : Nat) : Nat := wfld ws (6 + d / 2) (32 * (d % 2) + 31) (32 * (d % 2))

/-- R283: STRIDE d, 40 bits of the 320-bit field in words 10 to 14. -/
def descStride (ws : List Word) (d : Nat) : Int :=
  let n := (List.range 5).foldl (fun a i => a + (wd ws (10 + i)).toNat <<< (64 * i)) 0
  signed 40 (bits n (40 * d + 39) (40 * d))

/-- R283: ORIGIN d. -/
def descOrigin (ws : List Word) (d : Nat) : Int :=
  signed 32 (wfld ws (10 + d / 2) (32 * (d % 2) + 31) (32 * (d % 2)))

/-- R283, R292: the view of descriptor words, with the parent's words for a window view. -/
def viewOf (ws parent : List Word) : View :=
  let win := wfld ws 1 54 54 = 1
  let own := if win then parent else ws
  let n := wfld ws 1 58 56 + 1
  let dims := List.range n
  { base := (wd own 0).toNat
    fmt := (Fmt.ofCode (wfld own 1 63 59)).getD .fp32
    ndim := n
    space := wfld own 1 55 55
    caxis := wfld own 1 53 51
    scale := (wd own 2).toNat
    pad := (wd ws 3).toNat
    pos := wfld own 4 49 0
    sizes := dims.map (descSize ws)
    plan := dims.map (descSize ws)
    stride := dims.map (descStride own)
    shape := dims.map (descSize own)
    origin := if win then some (dims.map (descOrigin ws)) else none }

/-- The view of tensor descriptor `d` of plan `p`. -/
def State.view (s : State) (p d : Nat) : View :=
  let ws := s.tensor p d
  viewOf ws (if wfld ws 1 54 54 = 1 then s.tensor p (wfld ws 1 31 16) else ws)

/-- Number of elements of a shape. -/
def volume (sizes : List Nat) : Nat := sizes.foldl (· * ·) 1

/-- R284: the index vector of number `l` among a shape's elements, dimension 0 fastest. -/
def indexOf : List Nat → Nat → List Nat
  | [], _ => []
  | n :: r, l => l % n :: indexOf r (l / n)

/-- R284: the local linear index of an index vector under planned sizes. -/
def linear : List Nat → List Nat → Nat
  | n :: r, i :: is => i + n * linear r is
  | _, _ => 0

/-- R292: the parent's sizes for the operation. -/
def View.bound (v : View) : List Nat := if v.edge = [] then v.shape else v.edge

/-- R292, R355: an operation with slot values `vals` for its source view: the view's own sizes, and the parent's sizes of a
window, which the values replace there (log entry 37). -/
def View.opSizes (v : View) (vals : List Nat) : List Nat := if v.origin.isSome then v.plan else vals
def View.opEdge (v : View) (vals : List Nat) : List Nat := if v.origin.isSome then vals else []
def View.edged (v : View) (e : List Nat) : View := { v with edge := e }

/-- R292: the coordinates that element `i` of a view reads; `none` where a clamped dimension is empty. -/
def View.coords (v : View) (i : List Nat) : Option (List Nat) :=
  match v.origin with
  | none => some i
  | some o =>
    if v.bound.any (· = 0) then none
    else some (List.zipWith (fun (c : Int) (n : Nat) => (max 0 (min c (n - 1))).toNat)
      (List.zipWith (fun (a : Int) (b : Nat) => a + b) o i) v.bound)

/-- R284: offset in elements of coordinates. -/
def View.offset (v : View) (c : List Nat) : Int :=
  (List.zipWith (fun (s : Int) (i : Nat) => s * i) v.stride c).foldl (· + ·) 0

/-- R284, R287: bit address of coordinates. -/
def View.bitAddr (v : View) (c : List Nat) : Int := 8 * (v.base : Int) + v.offset c * v.fmt.width

/-- R289: address of the scale of coordinates. -/
def View.scaleAddr (v : View) (c : List Nat) : Nat :=
  let sh := v.shape.zipIdx.map (fun x => if x.2 = v.caxis then ceilDiv x.1 32 else x.1)
  let j := c.zipIdx.map (fun x => if x.2 = v.caxis then x.1 / 32 else x.1)
  v.scale + linear sh j

/-- R286: smallest and largest byte the view's elements touch, as [lo, hi). -/
def View.footprint (v : View) : Nat × Nat :=
  let ext := List.zipWith (fun (s : Int) (n : Nat) => s * ((n : Int) - 1)) v.stride v.shape
  let lo := (ext.map (fun e => min 0 e)).foldl (· + ·) 0
  let hi := (ext.map (fun e => max 0 e)).foldl (· + ·) 0
  ((8 * (v.base : Int) + lo * v.fmt.width).toNat / 8,
   ((8 * (v.base : Int) + (hi + 1) * v.fmt.width).toNat + 7) / 8)

/-- R289: the bytes of a view's scale array, as [lo, hi). -/
def View.scaleRange (v : View) : Nat × Nat :=
  (v.scale, v.scale + volume (v.shape.zipIdx.map (fun x => if x.2 = v.caxis then ceilDiv x.1 32 else x.1)))

/-- R254, R289: the byte ranges a view's consumer reads. -/
def View.ranges (v : View) : List (Nat × Nat) := v.footprint :: (if v.fmt.isMx then [v.scaleRange] else [])

/-- R290: the Philox position of an index vector: that of the element of the parent which it reads. -/
def View.position (v : View) (i : List Nat) : Nat :=
  v.pos * volume (v.shape.take (v.ndim - 1)) + linear v.shape ((v.coords i).getD [])

/-- R290: the largest Philox position of a view. -/
def View.lastPosition (v : View) : Nat := v.pos * volume (v.shape.take (v.ndim - 1)) + (volume v.shape - 1)

/-- R82: the random word at position `p` under random-number entry `k` of a plan, in the step that runs. -/
def State.randomWordAt (s : State) (plan k p : Nat) : Nat :=
  let e := s.rng plan k
  randomWord s.step.block.seed.toNat (s.reg bTell).toNat (wfld e 0 47 24) (wfld e 0 63 48) (wfld e 0 23 16) p

/-- R83, R290: the random word of element `i` under random-number entry `k` of a plan. -/
def State.randomAt (s : State) (plan k : Nat) (i : List Nat) : Nat :=
  s.randomWordAt plan k ((s.view plan (wfld (s.rng plan k) 0 15 0)).position i)

/-- R84: the uniform value of an element under an entry. -/
def State.uniformAt (s : State) (plan k : Nat) (i : List Nat) : Num := uniform (s.randomAt plan k i)

/-- R84: dropout of one value with an entry's threshold and keep factor, under its random word. -/
def State.dropWith (s : State) (plan k w : Nat) (v : Num) : Nat :=
  let e := s.rng plan k
  dropout w (wfld e 1 63 32) v (layout32.decode (wfld e 1 31 0))

/-- R84: dropout of element `i` under an entry. -/
def State.dropAt (s : State) (plan k : Nat) (i : List Nat) (v : Num) : Nat := s.dropWith plan k (s.randomAt plan k i) v

/-- R188: the position of a score in attention dropout: query head `h`, global positions `q` and `k`, length `len`. -/
def scorePosition (len h q k : Nat) : Nat := (h * len + q) * len + k

/-- R188: attention dropout of a score. -/
def State.dropScore (s : State) (plan e len h q k : Nat) (v : Num) : Nat :=
  s.dropWith plan e (s.randomWordAt plan e (scorePosition len h q k)) v

/-- R230: does [lo, hi) lie in the core-store partition of context `c`. -/
def State.inPartition (s : State) (c lo hi : Nat) : Bool :=
  let x := s.ctx c
  x.csBase * 4096 ≤ lo && hi ≤ (x.csBase + x.csSize) * 4096

/-- R230: does a SPACE 1 view lie in the partition; memory views are not bound by it. -/
def State.viewAllowed (s : State) (c : Nat) (v : View) : Bool :=
  v.space == 0 || v.ranges.all (fun r => s.inPartition c r.1 r.2)

/-- The value at bits [at_ + w − 1 : at_] of some bytes. -/
def bitsOfBytes (bs : List PByte) (at_ w : Nat) : Nat :=
  (ofLeBytes (bs.map (fun b => b.1)) >>> at_) % 2 ^ w

/-- An element as read: its bits, its scale code (0x7F without one), its poison. -/
structure Elem where
  code   : Nat
  scale  : Nat := 0x7F
  poison : Bool := false

/-- R284, R287, R289, R292, R293: reads one element of a core-store view of core `n`. -/
def State.csElem (s : State) (n : Nat) (v : View) (i : List Nat) : Elem × State :=
  match v.coords i with
  | none => ({ code := v.pad % 2 ^ v.fmt.width }, s)
  | some c =>
    let a := (v.bitAddr c).toNat
    let r := s.csRead n (a / 8) ((a % 8 + v.fmt.width + 7) / 8)
    let e : Elem := { code := bitsOfBytes r.1 (a % 8) v.fmt.width, poison := r.1.any (fun b => b.2) }
    if v.fmt.isMx then
      let q := r.2.csRead n (v.scaleAddr c) 1
      ({ e with scale := (q.1.getD 0 (0, false)).1.toNat, poison := e.poison || q.1.any (fun b => b.2) }, q.2)
    else (e, r.2)

/-- Reads the elements of a core-store view with the given index vectors. -/
def State.csElems (s : State) (n : Nat) (v : View) : List (List Nat) → List Elem × State
  | [] => ([], s)
  | i :: r =>
    let e := s.csElem n v i
    let t := e.2.csElems n v r
    (e.1 :: t.1, t.2)

/-- What a transfer writes, by 64-bit word of its destination: the bits it covers, their value, and whether
any of them is poisoned. -/
abbrev BitWrites := KMap (Nat × Nat × Bool)

/-- Adds `w` bits at bit `lo` of one word. -/
def putWordBits (m : BitWrites) (word lo w x : Nat) (p : Bool) : BitWrites :=
  let old := kget (0, 0, false) m word
  let mask := (2 ^ w - 1) <<< lo
  kput m word (old.1 ||| mask, (old.2.1 ^^^ (old.2.1 &&& mask)) ||| ((x % 2 ^ w) <<< lo), old.2.2 || p)

/-- Adds the `w` low bits of `x`, at most 64, at bit address `a`. -/
def putBits (m : BitWrites) (a w x : Nat) (p : Bool) : BitWrites :=
  let lo := a % 64
  if lo + w ≤ 64 then putWordBits m (a / 64) lo w x p
  else putWordBits (putWordBits m (a / 64) lo (64 - lo) x p) (a / 64 + 1) 0 (lo + w - 64) (x >>> (64 - lo)) p

/-- Joins the next byte address, in rising order, to byte ranges [lo, hi) held latest first. -/
def joinByte (rs : List (Nat × Nat)) (a : Nat) : List (Nat × Nat) :=
  match rs with
  | (lo, hi) :: r => if a = hi then (lo, hi + 1) :: r else (a, a + 1) :: (lo, hi) :: r
  | [] => [(a, a + 1)]

/-- The byte ranges [lo, hi) a transfer writes to, in rising order. -/
def runsOf (m : BitWrites) : List (Nat × Nat) :=
  ((m.flatMap (fun e => ((List.range 8).filter (fun i => (e.2.1 >>> (8 * i)) % 256 ≠ 0)).map (fun i => 8 * e.1 + i))).foldl
    joinByte []).reverse

/-- R219, R299: writes the covered bits of one core-store word. A word covered whole and clean clears poison; one
covered in part stays poisoned. -/
def State.csMergeWord (s : State) (n w : Nat) (x : Nat × Nat × Bool) : State :=
  if x.1 = 2 ^ 64 - 1 then s.csWriteWord n w 0 ((leBytes 8 x.2.1).map (fun b => (b, x.2.2)))
  else
    let r := s.csWord n w
    let v := (r.1.1 ^^^ (r.1.1 &&& x.1)) ||| x.2.1
    r.2.csWriteWord n w 0 ((leBytes 8 v).map (fun b => (b, x.2.2 || r.1.2)))

/-- Writes the words of a transfer into the core store of core `n`. -/
def State.csPut (s : State) (n : Nat) (m : BitWrites) : State :=
  m.foldl (fun t e => t.csMergeWord n e.1 e.2) (s.rewritten n (runsOf m))

/-- The bits that elements of a view occupy. -/
def View.writes (v : View) (es : List (List Nat × Elem)) : BitWrites :=
  es.foldl (fun m e => putBits m (v.bitAddr e.1).toNat v.fmt.width e.2.code e.2.poison) []

/-- Writes elements of a core-store view of core `n`. -/
def State.csPutElems (s : State) (n : Nat) (v : View) (es : List (List Nat × Elem)) : State :=
  s.csPut n (v.writes es)

/-- Writes one scale byte of a core-store view. -/
def State.csPutScale (s : State) (n : Nat) (v : View) (i : List Nat) (code : Nat) (poison : Bool) : State :=
  s.csWrite n (v.scaleAddr i) [(BitVec.ofNat 8 code, poison)]

/-! ## Translation (R306–R313) -/

/-- What translating an access gives: stack memory with its policy, a host region byte, a miss, or a fault
with its log kind, code and level. -/
inductive Xlat where
  | stack (pa policy : Nat) (ra : Bool)
  | host (region off : Nat)
  | miss
  | fault (kind code level : Nat)
  deriving DecidableEq, Repr

/-- R306: is a 64-bit address a valid virtual address. -/
def vaOk (va : Nat) : Bool := bits va 63 57 == (if va.testBit 56 then 127 else 0)

/-- R310: the TLB entry that holds an address. -/
def State.tlbFind (s : State) (n asid va : Nat) : Option TlbEntry :=
  (s.core n).tlb.find? (fun e => e.asid = asid ∧ e.base ≤ va ∧ va < e.base + e.size)

/-- R313: where an access through a host-window leaf goes; beyond the region's length it faults. -/
def State.hostAddr (s : State) (c : Nat) (e : TlbEntry) (va : Nat) : Xlat :=
  let mr := fld e.pte 63 52
  let off := fld e.pte 47 16 * 65536 + va % 65536
  let g := kget {} s.regions (c * 4096 + mr)
  if off < g.length then .host mr off else .fault 4 0x09 e.level

/-- R306, R308 checks 5 and 6, R310, R313: translates one byte address against the core's TLB. A write to a
COW page goes to the walker, which starts the service of R201. -/
def State.translate (s : State) (n c va : Nat) (write : Bool) : Xlat :=
  let x := s.ctx c
  if !vaOk va then .fault 3 0x09 0
  else
    match s.tlbFind n x.asid (va % 2 ^ 57) with
    | none => .miss
    | some e =>
      if (write && !bitAt e.pte 3) || (!write && !bitAt e.pte 2) then .fault 2 0x0A e.level
      else if write && bitAt e.pte 5 then .miss
      else if bitAt e.pte 6 then s.hostAddr c e va
      else .stack (fld e.pte 47 16 * 65536 + (va % 2 ^ 57 - e.base)) (fld e.pte 9 8) (bitAt e.pte 4)

end Sys2Proof.Machine
end

