-- ==== Sys2Proof/Machine/Flags.lean ====
section
/-! DEFINITION. Telltale counters (R85–R87), forced check failures (R501, R506), checker mismatches of the
vector and special-function engines (R157–R159, R479), and the retire fence table (R254, R255). -/
namespace Sys2Proof.Machine

/-! ## Telltales -/

/-- R85, R86: counts of one site and target format join the step's telltales. -/
def State.addTally (s : State) (site : Nat) (f : Fmt) (t : Tally) : State :=
  { s with step := { s.step with telltales := kmod {} s.step.telltales (site * 32 + f.code) (fun x => x.add t) } }

/-- R251: the counts that popped vectors of fills carry, by format code, join the telltales. -/
def State.addDues (s : State) (ds : List (Nat × Tally)) : State :=
  (ds.filter (fun d => d.2 ≠ {})).foldl (fun t d => t.addTally 3 ((Fmt.ofCode d.1).getD .fp32) d.2) s

/-- R251: does a byte range share a byte with one of some. -/
def touches (rs : List (Nat × Nat)) (r : Nat × Nat) : Bool := rs.any (fun x => x.1 < r.2 && r.1 < x.2)

/-- R251: memory ranges of a context among the ranges of counts that wait: they lie above the core store's. -/
def inMemory (rs : List (Nat × Nat)) : List (Nat × Nat) := rs.map (fun r => (2 ^ 64 + r.1, 2 ^ 64 + r.2))

/-- R251: a retired load's counts wait for its consumer. -/
def State.addDue (s : State) (n : Nat) (d : Due) : State := s.modCore n (fun c => { c with dues := c.dues ++ [d] })

/-- R87, R251: memory ranges that context `c` writes hold no data of earlier loads. -/
def State.rewrittenMem (s : State) (c : Nat) (rs : List (Nat × Nat)) : State :=
  if s.cores.all (fun x => x.2.dues.isEmpty) then s
  else { s with cores := s.cores.map (fun x => (x.1, { x.2 with
    dues := x.2.dues.filter (fun d => d.ctx ≠ c) ++ duesAfter (inMemory rs) (x.2.dues.filter (fun d => d.ctx = c)) })) }

/-- R86, R87, R251: an operation of context `c` that read core-store ranges retires: the counts of the loads that
wrote there join the telltales. -/
def State.consume (s : State) (n c : Nat) (rs : List (Nat × Nat)) : State :=
  let hit := fun (d : Due) => d.ctx == c && d.ranges.any (touches rs)
  let ds := (s.core n).dues
  if ds.any hit then
    (ds.filter hit).foldl (fun t d => t.addTally d.site ((Fmt.ofCode d.fmt).getD .fp32) d.tally)
      (s.modCore n (fun k => { k with dues := ds.filter (fun d => !hit d) }))
  else s

/-- R86, R251: an operation of context `c` that read memory ranges retires: the counts of the loads, of any core, that
wrote there join the telltales. -/
def State.consumeMem (s : State) (c : Nat) (rs : List (Nat × Nat)) : State :=
  (s.cores.filter (fun x => !x.2.dues.isEmpty)).foldl (fun t x => t.consume x.1 c (inMemory rs)) s

/-! ## Forced check failures -/

/-- R501: injections take effect. -/
def State.armed (s : State) : Bool := bitAt (s.reg bPert) 1

/-- R506: the request in INJ_CHECK, when `p` takes it: what it makes a check see, and the state with one
failure fewer to come. -/
def State.takeCheck (s : State) (p : Word → Bool) : Option Word × State :=
  let r := s.reg (bPert + 0x118)
  let n := fld r 37 22
  if s.armed && fld r 63 60 != 0 && n != 0 && p r then
    (some r, s.setReg (bPert + 0x118) (if n = 1 then 0 else setFld r 37 22 (n - 1)))
  else (none, s)

/-- What a forced failure makes a check see (R506): once, or again on the replay or retry. -/
def forcedCheck (kind : Nat) (r : Word) : Chk :=
  { fails := if bitAt r 38 then 2 else 1, kind := kind, unit := fld r 46 39 }

/-! ## VE and SFE checkers -/

/-- Addresses of a checker's registers: event, log, mismatch and retry counters, and the flag numbers of
RETRY_OK and RETRY_FAIL, and its engine number in ledger units. -/
structure CheckRegs where
  event : Nat
  log   : Nat
  cntChk : Nat
  cntRetry : Nat
  okFlag : Nat
  failFlag : Nat
  engine : Nat

def veRegs (n : Nat) : CheckRegs := ⟨bVe n + 0x18, bVe n + 0x28, bVe n + 0x120, bVe n + 0x128, 2, 3, 4⟩
def sfeRegs (n : Nat) : CheckRegs := ⟨bSfe n + 0x20, bSfe n + 0x30, bSfe n + 0x110, bSfe n + 0x118, 1, 2, 5⟩
def checkRegs (sfe : Bool) (n : Nat) : CheckRegs := if sfe then sfeRegs n else veRegs n

/-- R158, R166, R169: one mismatch: log, flag, counter and E_CHECK_VE; the special-function engine has lanes only. -/
def State.laneMismatch (s : State) (n : Nat) (sfe : Bool) (opc q : Nat) (k : Chk) (inj : Bool) : State :=
  let g := checkRegs sfe n
  let kind := if sfe then 1 else k.kind
  let log := packWord [(32, q % 2 ^ 32), (24, opc), (16, k.unit % 256), (12, kind % 16)]
  let t := BitVec.ofNat 64 s.time.now
  let s := ((s.setReg g.log log).setReg (g.log + 8) t).flag g.event (if kind = 2 then 1 else 0)
  (s.count g.cntChk 1).record
    { kind := 0x08, cls := 0, unitType := 2, unit := n * 8 + g.engine, d0 := log, d1 := t, injected := inj }

/-- R159, R479, R491, R36: the engine's second failure: permanent unless injected, and the core is fenced. -/
def State.engineFailed (s : State) (n engine : Nat) (inj : Bool) : State :=
  let s := if inj then s else s.classify 2 (n * 8 + engine)
  s.fenceCore n 1 inj

/-- R158, R159, R479: settles what the checker saw of the step with number `q`: may its result leave, and the
state after mismatches, retry and fence. -/
def State.settle (s : State) (n : Nat) (sfe : Bool) (opc q : Nat) (k : Chk) (inj : Bool) : Bool × State :=
  if k.fails = 0 then (true, s)
  else
    let g := checkRegs sfe n
    let s := (s.laneMismatch n sfe opc q k inj).count g.cntRetry 1
    let twice := k.kind == 1 && (s.core n).veFails.contains (sfe, k.unit)
    let s := if k.kind = 1 then s.modCore n (fun c => { c with veFails := (sfe, k.unit) :: c.veFails }) else s
    if 2 ≤ k.fails then
      (false, ((s.laneMismatch n sfe opc q k inj).flag g.event g.failFlag).engineFailed n g.engine inj)
    else
      let s := s.flag g.event g.okFlag
      if twice then (false, s.engineFailed n g.engine inj) else (true, s)

/-- R157, R506: the check of the step with number `q`: a forced failure on a lane (or tree node, where the
step has a tree) that the rotation covers at `q`, or what the checker saw. -/
def State.checkStep (s : State) (n : Nat) (sfe tree : Bool) (opc q : Nat) (k : Chk) : Bool × State :=
  let covered := fun (r : Word) => fld r 59 50 == n && fld r 46 39 % 16 == q % 16
  let a := s.takeCheck (fun r => covered r && fld r 63 60 == (if sfe then 7 else 5))
  match a.1 with
  | some r => a.2.settle n sfe opc q (forcedCheck 1 r) true
  | none =>
    let b := a.2.takeCheck (fun r => tree && !sfe && covered r && fld r 63 60 == 6)
    match b.1 with
    | some r => b.2.settle n sfe opc q (forcedCheck 2 r) true
    | none => b.2.settle n sfe opc q k false

/-- R157: checks `k` consecutive steps from number `q` on; what the checker saw, `c`, belongs to the step `j` of them. -/
def State.checkSteps (s : State) (n : Nat) (sfe tree : Bool) (opc : Nat) (c : Chk) (j : Nat) : Nat → Nat → Bool × State
  | _, 0 => (true, s)
  | q, k + 1 =>
    let r := s.checkStep n sfe tree opc q (if j = 0 then c else {})
    if r.1 then r.2.checkSteps n sfe tree opc (if j = 0 then {} else c) (j - 1) (q + 1) k else r

/-- R163: the VE's status names the last step issued. -/
def State.veIssued (s : State) (n opc q : Nat) : State :=
  s.setReg (bVe n + 0x08) (packWord [(32, q % 2 ^ 32), (24, opc)])

/-- R157, R163: issues `steps` steps on an engine and checks them. -/
def State.issueSteps (s : State) (n : Nat) (sfe tree : Bool) (opc steps : Nat) (k : Chk) : Bool × State :=
  if sfe then
    let q := (s.core n).sfeSeq + 1
    let s := s.modCore n (fun c => { c with sfeSeq := (c.sfeSeq + steps) % 2 ^ 32 })
    s.checkSteps n true tree opc k (min k.block (steps - 1)) q steps
  else
    let q := (s.core n).veSeq + 1
    let s := s.modCore n (fun c => { c with veSeq := (c.veSeq + steps) % 2 ^ 32 })
    (s.veIssued n opc (q + steps - 1)).checkSteps n false tree opc k (min k.block (steps - 1)) q steps

/-! ## The retire fence -/

/-- Kinds of owner of a fenced range. -/
def ownPass : Nat := 0
def ownRoutine : Nat := 1
def ownTable : Nat := 2
def ownQueue : Nat := 3
def ownLayout : Nat := 4

/-- R255: do the ranges fit in the free entries of the core's fence table. -/
def State.fenceRoom (s : State) (n k : Nat) : Bool := (s.core n).fence.length + k ≤ 64

/-- R254: enters a consumer's core-store ranges. -/
def State.fenceAdd (s : State) (n ctx kind owner : Nat) (rs : List (Nat × Nat)) : State :=
  s.modCore n (fun c => { c with fence := c.fence ++ rs.map (fun r => ⟨r.1, r.2, ctx, kind, owner⟩) })

/-- R254: the fence of an owner releases at retire. -/
def State.fenceDrop (s : State) (n kind owner : Nat) : State :=
  s.modCore n (fun c => { c with fence := c.fence.filter (fun r => !(r.kind == kind && r.owner == owner)) })

/-- R251, R254: a consumer retires: the loads it read are counted and its fence releases. -/
def State.fenceRetire (s : State) (n kind owner : Nat) : State :=
  let rs := (s.core n).fence.filter (fun r => r.kind == kind && r.owner == owner)
  match rs with
  | [] => s
  | r :: _ => (s.consume n r.ctx (rs.map (fun x => (x.lo, x.hi)))).fenceDrop n kind owner

/-- R254: the fence of a context releases when it faults: entries of a context that has faulted or ended do
not hold. -/
def State.fenceHolds (s : State) (r : FenceRange) : Bool := (s.ctx r.ctx).state < 6

/-- R254: does a write to [lo, hi) of a core store wait for an owner that `p` selects. -/
def State.fenceHitBy (s : State) (n lo hi : Nat) (p : FenceRange → Bool) : Bool :=
  (s.core n).fence.any (fun r => p r && s.fenceHolds r && r.lo < hi && lo < r.hi)

/-- R254: does a write to [lo, hi) of a core store wait. -/
def State.fenceHit (s : State) (n lo hi : Nat) : Bool := s.fenceHitBy n lo hi (fun _ => true)

/-- R255: a consumer that waits for fence entries. -/
def State.fenceWait (s : State) (n : Nat) : State := s.count (bAe n + 0x148) 1

end Sys2Proof.Machine
end

