-- ==== Sys2Proof/Machine/Xlate.lean ====
section
/-! DEFINITION. Table walks, TLBs, parking (R306–R317). -/
namespace Sys2Proof.Machine

/-! ## The walk (R306–R308) -/

/-- What a walk ends with: a fault (log kind, code, level), a poisoned table word, or a leaf that passed checks 1
to 4, with its entry, level, page base and size, and the physical address of the entry. -/
inductive WalkEnd where
  | fault (kind code level : Nat)
  | poison
  | leaf (pte : Word) (level base size at_ : Nat)
  deriving DecidableEq, Repr

/-- R306: index of a virtual address at a level. -/
def vaIndex (va level : Nat) : Nat :=
  match level with
  | 0 => bits va 56 39
  | 1 => bits va 38 30
  | 2 => bits va 29 21
  | _ => bits va 20 16

/-- R306: bytes that a leaf of a level maps. -/
def leafSize (level : Nat) : Nat :=
  match level with
  | 1 => 2 ^ 30
  | 2 => 2 ^ 21
  | _ => 2 ^ 16

/-- R307, R308 check 3: is a reserved field of an entry nonzero, CP = 3, or HW with COW. -/
def entryMalformed (e : Word) : Bool :=
  if bitAt e 1 then
    fld e 51 48 != 0 || fld e 15 10 != 0 || bitAt e 7 || fld e 9 8 == 3 || (bitAt e 6 && bitAt e 5) ||
      (!bitAt e 6 && fld e 63 52 != 0)
  else fld e 63 48 != 0 || fld e 7 2 != 0

/-- R308 check 4 of a leaf: its frame lies in the stacks and is aligned to its size; a host-window leaf names a
region of the context. -/
def leafInRange (e : Word) (level regions : Nat) : Bool :=
  if bitAt e 6 then fld e 63 52 < regions
  else
    let pa := fld e 47 16 * 65536
    pa < 2 ^ 39 && pa % leafSize level == 0

/-- R308, R311: reads and checks entries from `level` on, `n` levels at most. -/
def State.walkFrom (s : State) (c va regions : Nat) : Nat → Nat → Nat → WalkEnd × State
  | 0, level, _ => (.fault 3 0x09 level, s)
  | n + 1, level, table =>
    let at_ := table + 8 * vaIndex va level
    let r := s.readWordPa c at_
    let e := r.1.1
    if r.1.2 then (.poison, r.2)
    else if !bitAt e 0 then (.fault 1 0x09 level, r.2)
    else if (bitAt e 1 && level == 0) || (!bitAt e 1 && level == 3) then (.fault 3 0x09 level, r.2)
    else if entryMalformed e then (.fault 3 0x09 level, r.2)
    else if bitAt e 1 then
      if leafInRange e level regions then (.leaf e level (va - va % leafSize level) (leafSize level) at_, r.2)
      else (.fault 4 0x09 level, r.2)
    else
      let next := fld e 47 8 * 256
      if 2 ^ 39 ≤ next then (.fault 4 0x09 level, r.2) else r.2.walkFrom c va regions n (level + 1) next

/-- R306, R308, R311: walks the tables of context `c` for an address. -/
def State.walk (s : State) (c va : Nat) : WalkEnd × State :=
  if !vaOk va then (.fault 3 0x09 0, s)
  else
    let root := fld (s.reg (bXl + 0x180 + 8 * c)) 47 21 * 2 ^ 21
    s.walkFrom c (va % 2 ^ 57) (s.ctx c).regions 4 0 root

/-- R308 checks 5 and 6 on a leaf: a permission fault, or a copy-on-write. -/
def leafDenies (pte : Word) (write : Bool) : Bool := if write then !bitAt pte 3 else !bitAt pte 2
def leafCow (pte : Word) (write : Bool) : Bool := write && bitAt pte 5

/-! ## TLBs (R310, R312) -/

/-- R310: enters a leaf in a core's TLB of 256 entries; which entry a full TLB gives up is free. -/
def State.tlbInsert (s : State) (n : Nat) (e : TlbEntry) : State :=
  let old := (s.core n).tlb.filter (fun x => !(x.asid == e.asid && x.base == e.base && x.size == e.size))
  if old.length < 256 then s.modCore n (fun k => { k with tlb := e :: old })
  else
    let f := s.takeFree
    f.2.modCore n (fun k => { k with tlb := e :: old.eraseIdx (f.1 % 256) })

/-- R312: a core removes its entries of an address space that touch [lo, hi). -/
def dropTlb (asid lo hi : Nat) (l : List TlbEntry) : List TlbEntry :=
  l.filter (fun e => !(e.asid == asid && e.base < hi && lo < e.base + e.size))

/-- R312: every core removes its matching entries and acknowledges; the broadcast counts. -/
def State.invalidate (s : State) (asid lo hi : Nat) : State :=
  let s := { s with cores := s.cores.map (fun (p : Nat × Core) => (p.1, { p.2 with tlb := dropTlb asid lo hi p.2.tlb })) }
  s.count (bXl + 0x818) 1

/-! ## Walk requests (R311) -/

/-- R311: a miss asks for a walk; a miss on a page whose walk waits or runs joins it. -/
def State.askWalk (s : State) (c va : Nat) : State :=
  if s.walks.any (fun w => w.ctx = c ∧ w.va = va / 65536) then s
  else { s with walks := runWalks (s.walks ++ [⟨c, va / 65536, false⟩]) }

/-- R310, R334: an access that a core's TLB has no entry for counts as a miss. -/
def State.tlbHit (s : State) (n c va : Nat) : Bool := (s.tlbFind n (s.ctx c).asid (va % 2 ^ 57)).isSome
def State.noteMiss (s : State) (n c va : Nat) : State :=
  if vaOk va && !s.tlbHit n c va then s.count (bXl + 0x800) 1 else s

/-- R311, R334: a miss of a core's TLB, or a write that finds COW = 1 there, asks for a walk. -/
def State.tlbMiss (s : State) (n c va : Nat) : State := (s.noteMiss n c va).askWalk c va

/-! ## Parking (R314, R331) -/

/-- R331: XL_FAULT_LOG0 and XL_FAULT_LOG1 of a park. -/
def parkLog0 (p : Park) (kind : Nat) : Word := packWord [(60, kind), (57, p.queue % 8), (0, p.va % 2 ^ 57)]
def parkLog1 (p : Park) (level : Nat) (noWalk : Bool) : Word :=
  packWord [(54, p.core), (50, p.ctx), (48, level), (46, p.engine), (45, if noWalk then 1 else 0),
    (0, p.granule % 2 ^ 32)]

/-- R314, R330, R331, R334: an engine parks: its record, the logs, the event, the counter and the ledger entry. The
context goes on. -/
def State.park (s : State) (p : Park) (kind level : Nat) (noWalk : Bool) : State :=
  let l0 := parkLog0 p kind
  let l1 := parkLog1 p level noWalk
  let s := { s with parks := s.parks ++ [if (s.ctx p.ctx).state = 2 then p else { p with since := 0 }] }
  let s := ((s.setReg (bXl + 0x20) l0).setReg (bXl + 0x28) l1).setReg (bXl + 0x30) (BitVec.ofNat 64 s.time.now)
  let s := (s.flag (bXl + 0x10) (if p.code = 0x0A then 1 else 0)).count (bXl + 0x820) 1
  let s := if p.engine = 0 then s.flag (bAe p.core + 0x18) 3 else s
  s.record { kind := p.code, cls := 1, unitType := 8, unit := p.ctx, ctx := p.ctx, d0 := l0, d1 := l1 }

/-- R316: every park of a context asks for a walk of its page again. -/
def State.retryParks (s : State) (c : Nat) : State :=
  (s.parks.filter (fun p => p.ctx = c)).foldl (fun t p => t.askWalk c p.va) s

/-! ## Accesses -/

/-- R311, R314: translates a list of accesses (address, write) of a core in order; the first that does not pass
stops: its address and what it met. A host access keeps its region byte; `none` means that every one passes. -/
def State.xlateAll (s : State) (n c : Nat) : List (Nat × Bool) → Option (Nat × Bool × Xlat)
  | [] => none
  | a :: r =>
    match s.translate n c a.1 a.2 with
    | .miss => some (a.1, a.2, .miss)
    | .fault k e l => some (a.1, a.2, .fault k e l)
    | _ => s.xlateAll n c r

/-- Byte ranges cut at 4 KiB boundaries, as (address, length). -/
def cutRun (lo hi : Nat) : Nat → List (Nat × Nat)
  | 0 => []
  | k + 1 =>
    if hi ≤ lo then []
    else
      let m := min (hi - lo) (4096 - lo % 4096)
      (lo, m) :: cutRun (lo + m) hi k

def cutRuns (rs : List (Nat × Nat)) : List (Nat × Nat) :=
  rs.flatMap (fun r => cutRun r.1 r.2 ((r.2 - r.1) / 4096 + 2))

/-- Bytes fetched by address range. -/
abbrev Fetched := List (Nat × List PByte)

/-- The fetched byte at an address; a byte not fetched reads zero. -/
def Fetched.byte (f : Fetched) (a : Nat) : PByte :=
  match f.find? (fun p => p.1 ≤ a && a < p.1 + p.2.length) with
  | some p => p.2.getD (a - p.1) (0, false)
  | none => (0, false)

def Fetched.bytes (f : Fetched) (a n : Nat) : List PByte := (List.range n).map (fun i => f.byte (a + i))

/-- Is the whole of [a, a + n) fetched. -/
def Fetched.has (f : Fetched) (a n : Nat) : Bool := f.any (fun p => p.1 ≤ a && a + n ≤ p.1 + p.2.length)

/-- R283, R289: the bits that elements of a view occupy when they are read, scales included. -/
def View.reads (v : View) (is : List (List Nat)) : BitWrites :=
  is.foldl (fun m i =>
    match v.coords i with
    | none => m
    | some c =>
      let m := putBits m (v.bitAddr c).toNat v.fmt.width 0 false
      if v.fmt.isMx then putBits m (8 * v.scaleAddr c) 8 0 false else m) []

/-- R284, R287, R289, R292, R293: an element of a memory view from fetched bytes. -/
def View.elemFrom (v : View) (f : Fetched) (i : List Nat) : Elem :=
  match v.coords i with
  | none => { code := v.pad % 2 ^ v.fmt.width }
  | some c =>
    let a := (v.bitAddr c).toNat
    let bs := f.bytes (a / 8) ((a % 8 + v.fmt.width + 7) / 8)
    let e : Elem := { code := bitsOfBytes bs (a % 8) v.fmt.width, poison := bs.any (fun b => b.2) }
    if v.fmt.isMx then
      let q := f.byte (v.scaleAddr c)
      { e with scale := q.1.toNat, poison := e.poison || q.2 }
    else e

/-- Reads stack memory at translated addresses, piece by piece, for a core's access engine; host pieces are left
out. -/
def State.fetchPieces (s : State) (n c : Nat) : List (Nat × Nat) → Fetched × State
  | [] => ([], s)
  | p :: r =>
    match s.translate n c p.1 false with
    | .stack pa policy _ =>
      let x := (s.count (bAe n + 0x100) p.2).loadPa n c policy pa p.2
      let m := x.2.meshWord (readRoute pa n) x.1
      let t := m.2.fetchPieces n c r
      ((p.1, m.1) :: t.1, t.2)
    | _ => s.fetchPieces n c r

/-- The host pieces among address ranges. -/
def State.hostPieces (s : State) (n c : Nat) (ps : List (Nat × Nat)) (write : Bool) : List (Nat × Nat) :=
  ps.filter (fun p => match s.translate n c p.1 write with | .host _ _ => true | _ => false)

/-- The bytes of a transfer's destination range: covered bits over what stood there. -/
def mergedBytes (m : BitWrites) (old : Fetched) (lo n : Nat) : List PByte :=
  (List.range n).map (fun i =>
    let a := lo + i
    let e := kget (0, 0, false) m (a / 8)
    let mask := (e.1 >>> (8 * (a % 8))) % 256
    let v := (e.2.1 >>> (8 * (a % 8))) % 256
    let o := old.byte a
    if mask = 255 then (BitVec.ofNat 8 v, e.2.2)
    else (BitVec.ofNat 8 ((o.1.toNat ^^^ (o.1.toNat &&& mask)) ||| v), e.2.2 || o.2))

/-- The bytes that a transfer covers only in part, to be read before it writes. -/
def partialBytes (m : BitWrites) : List (Nat × Nat) :=
  m.flatMap (fun e => ((List.range 8).filter (fun i =>
    let k := (e.2.1 >>> (8 * i)) % 256
    k ≠ 0 && k ≠ 255)).map (fun i => (8 * e.1 + i, 1)))

end Sys2Proof.Machine
end

