-- ==== Sys2Proof/Machine/Rdma.lean ====
section
/-! DEFINITION. RoCEv2 messages of the module to host memory (R313, R449, R452–R454, R457). -/
namespace Sys2Proof.Machine

/-- R449: the partner of a port. -/
def partner (h : Nat) : Nat := (h + 4) % 8

/-- R457, R458: the port a queue pair is sent on. -/
def Qp.port (q : Qp) : Nat := if q.onAlt then partner q.primary else q.primary

/-- R448, R460: does a port pass frames: its link is up and, with MACsec, a SAK is installed. -/
def State.portUp (s : State) (h : Nat) : Bool :=
  s.rfld (bPort h + 0x08) 1 0 == 2 && (!bitAt (s.reg (bPort h)) 3 || bitAt (s.reg (bPort h + 0x08)) 5)

/-- R452, R457: does a queue pair carry data. -/
def State.qpUp (s : State) (q : Nat) : Bool := (s.qp q).connected && s.portUp (s.qp q).port

/-- R454: the queue pair for an access of a region at an address: network A for even 4 KiB granules, B for odd ones,
the other when that one is down. -/
def State.pickQp (s : State) (g : Region) (va : Nat) : Option Nat :=
  let a := if va / 4096 % 2 = 0 then g.qpA else g.qpB
  let b := if va / 4096 % 2 = 0 then g.qpB else g.qpA
  if s.qpUp a then some a else if s.qpUp b then some b else none

/-- R453: bytes sent and not acknowledged on a port. -/
def State.portUnacked (s : State) (h : Nat) : Nat :=
  (s.qps.filter (fun p => p.2.port = h)).foldl (fun t p =>
    t + (p.2.unacked.map (fun u => u.msg.bytes.length)).foldl (· + ·) 0) 0

/-- R452, R453: may a queue pair send one more message now: at most 16 reads outstanding, and 1 MiB of
unacknowledged data on its port. -/
def State.qpRoom (s : State) (q len : Nat) (read : Bool) : Bool :=
  if read then ((s.qp q).unacked.filter (fun u => u.read)).length < 16
  else s.portUnacked (s.qp q).port + len ≤ 2 ^ 20

/-- R470: one frame sent on a port; what its headers add to its bytes is free. -/
def State.frameOut (s : State) (h bytes : Nat) : State :=
  let f := s.takeFree
  (f.2.count (bPort h + 0x100) (bytes + f.1 % 256)).count (bPort h + 0x110) 1

/-- R470: one frame received on a port. -/
def State.frameIn (s : State) (h bytes : Nat) : State :=
  let f := s.takeFree
  (f.2.count (bPort h + 0x108) (bytes + f.1 % 256)).count (bPort h + 0x118) 1

/-- R464, R470: a response leaves on the port its request came on. -/
def State.respond (s : State) (e : Env) (code status : Nat) (ws : List Word) : State :=
  (s.answer e.session e.seq e.tag code status ws).frameOut e.port (48 + 8 * ws.length)

/-- R452, R453: sends a message on a queue pair under its next PSN; it stays until acknowledged. -/
def State.sendQp (s : State) (q : Nat) (u : Unacked) : State :=
  let p := s.qp q
  let u := { u with psn := p.nextPsn, msg := { u.msg with dest := q } }
  let s := s.setQp q { p with nextPsn := (p.nextPsn + 1) % 2 ^ 24, unacked := p.unacked ++ [u] }
  (s.frameOut p.port u.msg.bytes.length).send u.msg

/-- R453: a queue pair sends what waited for room on its port, in order, as far as there is room. -/
def State.pumpQp (s : State) (q : Nat) : List Unacked → State
  | [] => s.setQp q { s.qp q with waiting := [] }
  | u :: r =>
    if s.qpRoom q u.msg.bytes.length u.read then (s.sendQp q u).pumpQp q r
    else s.setQp q { s.qp q with waiting := u :: r }

/-- R453: the module's own message on a queue pair: it leaves when its port has room. -/
def State.sendWhenRoom (s : State) (q : Nat) (u : Unacked) : State := s.pumpQp q ((s.qp q).waiting ++ [u])

/-- R453: every queue pair of a port sends what waited for room. -/
def State.pumpPort (s : State) (h : Nat) : State :=
  ((s.qps.filter (fun p => p.2.connected && p.2.port == h && p.2.waiting != [])).map (fun p => p.1)).foldl
    (fun t q => t.pumpQp q (t.qp q).waiting) s

/-- What asking the host came to. -/
inductive Asked where
  | sent | room | down
  deriving DecidableEq, Repr

/-- R313, R454: sends one RDMA message for region `mr` of context `c` at `off`, for the owner in `u`. -/
def State.askHost (s : State) (c mr off : Nat) (u : Unacked) (len : Nat) : Asked × State :=
  let g := kget {} s.regions (c * 4096 + mr)
  match s.pickQp g u.va with
  | none => (.down, s)
  | some q =>
    if s.qpRoom q len u.read then
      let ws := [BitVec.ofNat 64 g.rkey, BitVec.ofNat 64 (g.base + off), BitVec.ofNat 64 len]
      (.sent, s.sendQp q { u with msg := { u.msg with words := ws } })
    else (.room, s)

/-- R313: asks the host for address ranges of a core's context, in order, until one has no room: what is still to
be asked for, how many messages were sent, whether both networks are down. -/
def State.pumpReads (s : State) (n c queue num : Nat) : List (Nat × Nat) → (List (Nat × Nat) × Nat × Bool) × State
  | [] => (([], 0, false), s)
  | p :: r =>
    match s.translate n c p.1 false with
    | .host mr off =>
      let u : Unacked := { psn := 0, core := n, queue := queue, num := num, va := p.1, read := true,
                           msg := { kind := .rdmaRead } }
      let a := s.askHost c mr off u p.2
      match a.1 with
      | .down => ((p :: r, 0, true), s)
      | .room => ((p :: r, 0, false), s)
      | .sent =>
        let t := a.2.pumpReads n c queue num r
        ((t.1.1, t.1.2.1 + 1, t.1.2.2), t.2)
    | _ => s.pumpReads n c queue num r

end Sys2Proof.Machine
end

