-- ==== Sys2Proof/Machine/Shards.lean ====
section
/-! DEFINITION. Gradient shards: what a module has exported in the step, the noise statistics and the shard header
(R421, R423, R424, R439, R441). -/
namespace Sys2Proof.Machine

/-! ## Where shards lie (R423, R439) -/

/-- R439: the first address of a shard's region, where the image places its buffer. -/
def State.shardBase (s : State) (e : List Word) : Option Nat := (s.buffer (wfld e 1 63 48)).map (fun b => (wd b 1).toNat)

/-- R439: the gradient shard whose region starts at an address. -/
def State.shardAt (s : State) (va : Nat) : Option Nat :=
  ((s.shards.filter (fun e => isGradient e.2)).find? (fun e =>
    (s.buffer (wfld e.2 1 63 48)).any (fun b => (wd b 1).toNat == va))).map (fun e => e.1)

/-- R439: the gradient shard in whose region an address lies, with the offset there. -/
def State.shardOf (s : State) (va : Nat) : Option (Nat × Nat) :=
  ((s.shards.filter (fun e => isGradient e.2)).find? (fun e =>
    (s.buffer (wfld e.2 1 63 48)).any (fun b => (wd b 1).toNat ≤ va && va < (wd b 1).toNat + (wd b 2).toNat))).map (fun e =>
    (e.1, va - (s.shardBase e.2).getD 0))

/-- R423, R424: bytes of a shard's region that the host has acknowledged: those of the gradient stand, by offset in it. -/
def State.noteExport (s : State) (va : Nat) (bs : List Byte) : State :=
  match s.shardOf va with
  | none => s
  | some (k, o) =>
    if o < 256 then s
    else { s with step := { s.step with exports := kmod [] s.step.exports k (fun m => putBytes m (o - 256) bs) } }

/-! ## Noise statistics (R441) -/

/-- R441: the square of an FP32 value, exact in FP64. -/
def square64 (x : Nat) : Nat := let v := layout32.decode x; layout64.rne (v.mul v)

/-- R76–R80, R441: the order-free sum, to FP64, of FP64 values that are listed with how often each occurs; it counts at no
site (log entry 204). -/
def sumOf (h : KMap Nat) : Nat :=
  let vs := h.flatMap (fun x => List.replicate x.2 (layout64.decode x.1))
  (orderFree layout64 ((emaxOf vs).getD 0) vs).1

/-- Adds values to such a list. -/
def tallyCodes (h : KMap Nat) (xs : List Nat) : KMap Nat := xs.foldl (fun m x => kmod 0 m x (fun n => n + 1)) h

/-- R421, R441: FP32 values that the matrix engines drain for a microbatch's gradient: their squares join the group's. Which group
a pass drains for is free. -/
def State.noteGradient (s : State) (group micro : Nat) (xs : List Nat) : State :=
  { s with step := { s.step with
    squares := kmod [] s.step.squares (group * 65536 + micro) (fun h => tallyCodes h (xs.map square64)) } }

/-- R441: q_m of a group. -/
def State.microSquare (s : State) (group m : Nat) : Nat := sumOf (kget [] s.step.squares (group * 65536 + m))

/-- R441: SQ_MICRO: the sum of q_m over the microbatches of the step. -/
def State.sqMicro (s : State) (group : Nat) : Nat :=
  sumOf (tallyCodes [] ((List.range s.step.block.accum).map (s.microSquare group)))

/-- R423: the gradient bytes of shard `k`, of `elements` FP32 values. -/
def State.shardBytes (s : State) (k elements : Nat) : List Byte :=
  (List.range (4 * elements)).map (kget 0 (kget [] s.step.exports k))

/-- R441: SQ_SHARD. -/
def State.sqShard (s : State) (k elements : Nat) : Nat :=
  let bs := s.shardBytes k elements
  sumOf (tallyCodes [] ((List.range elements).map (fun i => square64 (ofLeBytes ((bs.drop (4 * i)).take 4)))))

/-! ## The header (R423) -/

/-- R423: the header of gradient shard `k`. DATA_MEMBERS is the size of the set over which the step reduced its source view, 1
where none did. -/
def State.shardHeader (s : State) (k : Nat) : List Word :=
  let e := (s.shards.find? (fun x => x.1 = k)).elim [] (fun x => x.2)
  let n := (wd e 2).toNat
  let group := wfld e 0 47 40
  [s.reg bTell, packWord [(48, wfld e 0 63 48), (40, group), (24, s.moduleNo), (8, s.step.block.accum % 65536)], wd e 2,
   packWord [(48, kget 1 s.step.members k % 65536)], BitVec.ofNat 64 (s.sqMicro group), BitVec.ofNat 64 (s.sqShard k n),
   packWord [(32, (crc32c (s.shardBytes k n)).toNat)]] ++ List.replicate 25 0

/-- R423, R424: what a 256-B write of a gradient shard's first granule carries: the header that the module forms. -/
def State.headerOr (s : State) (va : Nat) (bs : List PByte) : List PByte :=
  match (if bs.length = 256 then s.shardAt va else none) with
  | some k => plain (wordsBytes (s.shardHeader k))
  | none => bs

end Sys2Proof.Machine
end

