-- ==== Sys2Proof/Machine/Fec.lean ====
section
/-! DEFINITION. Forward error correction of the stays (R372): symbols dealt to the lanes, the code RS(441,425) over GF(2^10), its
encoder and its decoder. -/
namespace Sys2Proof.Machine.Fec

/-! ## GF(2^10) (R372) -/

/-- R372: an element times α, modulo x^10 + x^3 + 1. -/
def shift (a : Nat) : Nat := if a < 512 then 2 * a else (2 * a) ^^^ 0x409

/-- The product of two elements, over `k` bits of the second. -/
def mulBits : Nat → Nat → Nat → Nat
  | 0, _, _ => 0
  | k + 1, a, b => (if b % 2 = 1 then a else 0) ^^^ mulBits k (shift a) (b / 2)

def mul (a b : Nat) : Nat := mulBits 10 a b

/-- `a` to the power `n`. -/
def pow (a : Nat) : Nat → Nat
  | 0 => 1
  | n + 1 => mul a (pow a n)

/-- The inverse: `a` to the power 1,022, by squaring. -/
def inv (a : Nat) : Nat :=
  ((List.range 9).foldl (fun (x : Nat × Nat) _ => let q := mul x.1 x.1; (q, mul x.2 q)) (a, 1)).2

/-! ## Polynomials, lowest coefficient first -/

def addPoly (p q : List Nat) : List Nat :=
  (List.range (max p.length q.length)).map (fun i => p.getD i 0 ^^^ q.getD i 0)

def scalePoly (c : Nat) (p : List Nat) : List Nat := p.map (mul c)

def mulPoly (p q : List Nat) : List Nat :=
  match p with
  | [] => []
  | c :: r => addPoly (scalePoly c q) (0 :: mulPoly r q)

/-- The value of a polynomial at `x`. -/
def evalPoly (p : List Nat) (x : Nat) : Nat := p.foldr (fun c y => c ^^^ mul x y) 0

/-- The highest exponent with a coefficient that is not zero. -/
def degree (p : List Nat) : Nat := p.zipIdx.foldl (fun d c => if c.1 = 0 then d else c.2) 0

/-! ## The code (R372) -/

/-- R372: the generator, with the roots α^0 to α^15. -/
def generator : List Nat := (List.range 16).foldl (fun g i => mulPoly [pow 2 i, 1] g) [1]

/-- The 16 check symbols of 425 data symbols, the highest exponent first: the remainder of data × x^16 by the generator. -/
def checks (data : List Nat) : List Nat :=
  (data.foldl (fun (r : List Nat) d =>
    let f := d ^^^ r.headD 0
    addPoly (r.drop 1 ++ [0]) ((scalePoly f generator).take 16).reverse) (List.replicate 16 0))

/-- R372: a codeword: 425 data symbols, then 16 check symbols. -/
def encode (data : List Nat) : List Nat := data ++ checks data

/-- The 16 syndromes of a received codeword. -/
def syndromes (word : List Nat) : List Nat := (List.range 16).map (fun i => evalPoly word.reverse (pow 2 i))

/-- One step of the search for the error locator: locator, earlier locator, its discrepancy, length, and steps since. -/
def locatorStep (s : List Nat) (x : List Nat × List Nat × Nat × Nat × Nat) (n : Nat) : List Nat × List Nat × Nat × Nat × Nat :=
  let (c, b, bd, l, m) := x
  let d := (List.range (l + 1)).foldl (fun a i => a ^^^ mul (c.getD i 0) (s.getD (n - i) 0)) 0
  if d = 0 then (c, b, bd, l, m + 1)
  else
    let c' := addPoly c (List.replicate m 0 ++ scalePoly (mul d (inv bd)) b)
    if 2 * l ≤ n then (c', c, d, n + 1 - l, 1) else (c', b, bd, l, m + 1)

/-- The error locator that the syndromes give. -/
def locator (s : List Nat) : List Nat := ((List.range 16).foldl (locatorStep s) ([1], [1], 1, 0, 1)).1

/-- R372: a received codeword as the decoder leaves it: up to 8 symbol errors corrected, `none` where it has more. The error at
position `p` from the end has the value of the evaluator by the locator's formal derivative there. -/
def decode (word : List Nat) : Option (List Nat) :=
  let s := syndromes word
  if s.all (· == 0) then some word
  else
    let c := locator s
    let k := degree c
    let places := (List.range 441).filter (fun p => evalPoly c (inv (pow 2 p)) == 0)
    if 8 < k ∨ places.length ≠ k then none
    else
      let omega := (mulPoly s c).take 16
      let deriv := (c.drop 1).zipIdx.map (fun x => if x.2 % 2 = 0 then x.1 else 0)
      let value := fun (p : Nat) =>
        let x := inv (pow 2 p)
        mul (mul (pow 2 p) (evalPoly omega x)) (inv (evalPoly deriv x))
      let fixed := (word.reverse.zipIdx.map (fun x => if places.contains x.2 then x.1 ^^^ value x.2 else x.1)).reverse
      if (syndromes fixed).all (· == 0) then some fixed else none

/-- R372, R412: symbols corrected in a received codeword, and whether it was lost. -/
def seen (word : List Nat) : Nat × Bool :=
  match decode word with
  | none => (0, true)
  | some w => (((List.zip word w).filter (fun x => x.1 ≠ x.2)).length, false)

/-! ## Dealing (R372) -/

/-- R372: the 10-bit symbols of a stay's data, lowest bits first. -/
def symbols (bs : List Byte) : List Nat :=
  let x := ofLeBytes bs
  (List.range (ceilDiv (8 * bs.length) 10)).map (fun i => bits x (10 * i + 9) (10 * i))

/-- R372: the active lanes, lowest first. -/
def lanesOf (mask : Nat) : List Nat := (List.range 8).filter mask.testBit

/-- R372: the symbols that the active lane number `i` gets: dealt in rotation, from the lowest lane on. -/
def dealt (mask i : Nat) (l : List Nat) : List Nat :=
  (l.zipIdx.filter (fun x => x.2 % (lanesOf mask).length = i)).map (fun x => x.1)

/-- R372: the codewords of one lane: 425 symbols of data in each, the last filled with zeros. -/
def codewords (l : List Nat) : List (List Nat) :=
  (List.range (ceilDiv l.length 425)).map (fun k =>
    let d := (l.drop (425 * k)).take 425
    encode (d ++ List.replicate (425 - d.length) 0))

/-- R372: what a stay's data is on its lanes: lane and codewords. -/
def line (mask : Nat) (bs : List Byte) : List (Nat × List (List Nat)) :=
  (lanesOf mask).zipIdx.map (fun x => (x.1, codewords (dealt mask x.2 (symbols bs))))

end Sys2Proof.Machine.Fec
end

