-- ==== Sys2Proof/Machine/TrackPlan.lean ====
section
/-! DEFINITION. The sequence group, the travellers of a step and the traveller buffers of either direction (R171–R183,
R193, R194). -/
namespace Sys2Proof.Machine

/-! ## The sequence group (R171, R175, R177, R344) -/

def State.seqSize (s : State) : Nat := wfld s.roleSec 1 63 54 + 1
def State.seqRank (s : State) : Nat := wfld s.roleSec 1 53 44
/-- R179: traveller buffers per direction. -/
def State.trackBuffers (s : State) : Nat := wfld s.roleSec 1 43 40
/-- R175: does the image use a direction. -/
def State.dirUsed (s : State) (down : Bool) : Bool := bitAt (wd s.roleSec 1) (if down then 23 else 22)

def State.dir (s : State) (down : Bool) : TrackDir := if down then s.down else s.up
def State.setDir (s : State) (down : Bool) (x : TrackDir) : State := if down then { s with down := x } else { s with up := x }

/-- R204: the stays on which a direction of the track leaves: up on the next side, down on the previous side. It arrives on
those of the other direction. -/
def State.trackStays (s : State) (down : Bool) : List Nat :=
  if down then [wfld s.roleSec 1 27 24, wfld s.roleSec 1 31 28] else [wfld s.roleSec 1 35 32, wfld s.roleSec 1 39 36]

/-- R177: the origin of the traveller that a direction holds at ring step `t`. -/
def State.originAt (s : State) (down : Bool) (t : Nat) : Nat :=
  let p := s.seqSize
  if down then (s.seqRank + t) % p else (s.seqRank + p - t % p) % p

/-- R176, R183: the context that sends and receives travellers: the lowest primary. -/
def State.trackCtx (s : State) : Nat := if (s.ctx 1).cls = 2 then 1 else 2

/-! ## Headers (R181) -/

def gKind (p : Page) : Nat := wfld p.header 0 63 60
def gFmt (p : Page) : Nat := wfld p.header 0 59 55
def gDown (p : Page) : Bool := bitAt (wd p.header 0) 54
def gOrigin (p : Page) : Nat := wfld p.header 0 53 44
def gHop (p : Page) : Nat := wfld p.header 0 43 33
def gHead (p : Page) : Nat := wfld p.header 0 32 21
def gLayer (p : Page) : Nat := wfld p.header 3 63 48
def gPage (p : Page) : Nat := wfld p.header 3 47 32
def gValid (p : Page) : Nat := wfld p.header 3 8 0
def gTravel (p : Page) : Nat := wfld p.header 4 31 0

/-- What names a page of a direction. -/
def pageId (p : Page) : PageId := ⟨gKind p, gHop p, gHead p, gPage p⟩

/-- R181, R193: is it a return page. -/
def isReturn (p : Page) : Bool := 3 ≤ gKind p

/-- R180, R187: payload bytes of a page. -/
def pageBytes (p : Page) : Nat := if gValid p = 0 then 0 else if isReturn p then 131072 else 65536

/-- R179: credits that a page takes, one for each 64 KiB of buffer that a page of its kind can fill. -/
def pageCost (p : Page) : Nat := if isReturn p then 2 else 1

/-- R181: a header with its CRC over words 0 to 3 and the payload. -/
def sealPage (h : List Word) (payload : List Byte) : List Word :=
  h.take 4 ++ [setFld (wd h 4) 63 32 (crc32c (wordsBytes (h.take 4) ++ payload)).toNat]

/-! ## The travellers of a step (R171, R172, R175, R183) -/

/-- What the sail plans state of long-sequence attention. -/
def State.seqPlan (s : State) : SeqPlan := (s.image.map (fun g => g.seq)).getD {}

/-- R181: pages of one kind and head of a traveller: those of the origin's two segments. -/
def seqPages (q : SeqPlan) : Nat := 2 * (q.seg / 256)

/-- R172, R181: the global position of token 0 of a page of the traveller of rank `r` of `p`: its low segment comes first. -/
def seqPosition (q : SeqPlan) (p r page : Nat) : Nat :=
  let n := q.seg / 256
  (if page < n then r else 2 * p - 1 - r) * q.seg + page % n * 256

/-- The kinds and heads of a traveller's pages in a direction (R175, R181, R193). -/
def seqLanes (q : SeqPlan) (down back : Bool) : List (Nat × Nat) :=
  (if down then q.down else q.up).flatMap (fun h => (if back then [1, 2, 3, 4] else [1, 2]).map (fun k => (k, h)))

/-- R183: travellers of a step: each accumulation runs through the schedule. -/
def State.stepTravels (s : State) : Nat := s.seqPlan.travels.length * s.rfld (bTell + 8) 63 48

/-- R183: the traveller of the schedule, of this step or the step before, with a sequence number. -/
def State.travelAt (s : State) (down : Bool) (n : Nat) : Option Travel :=
  let l := s.seqPlan.travels
  let d := s.dir down
  let k := (n + 2 ^ 32 - d.opened) % 2 ^ 32
  let j := (n + 2 ^ 32 - d.before) % 2 ^ 32
  if k < s.stepTravels then l[k % l.length]?
  else if j < (d.opened + 2 ^ 32 - d.before) % 2 ^ 32 then l[j % l.length]?
  else none

/-- R181: the sequence number of the traveller that a direction circulates next; each direction has its own (log entry
213). -/
def State.nextTravel (s : State) (down : Bool) : Nat :=
  let d := s.dir down
  if d.active then (d.travel + 1) % 2 ^ 32 else d.opened

/-- R182, R193: are all K and V pages, or all return pages, of a hop of the traveller in circulation verified; return pages
alone go home, and only in backward. -/
def State.lanesDone (s : State) (down back : Bool) (hop : Nat) : Bool :=
  let d := s.dir down
  let q := s.seqPlan
  match s.travelAt down d.travel with
  | none => true
  | some t =>
    if back then !t.back || (seqLanes q down true).all (fun l => l.1 ≤ 2 || d.seen.contains ⟨l.1, hop, l.2, seqPages q - 1⟩)
    else hop == s.seqSize || (seqLanes q down false).all (fun l => d.seen.contains ⟨l.1, hop, l.2, seqPages q - 1⟩)

/-- R182, R193: are all pages of a hop of the traveller in circulation verified. -/
def State.hopDone (s : State) (down : Bool) (hop : Nat) : Bool := s.lanesDone down false hop && s.lanesDone down true hop

/-- R183: the hop whose K and V pages, or return pages, are due; 0 where none is. -/
def State.dueHop (s : State) (down back : Bool) : Nat :=
  (((List.range s.seqSize).map (fun t => t + 1)).find? (fun h => !(s.lanesDone down back h))).getD 0

/-- R177, R193: has the traveller in circulation gone its whole ring. -/
def State.ringDone (s : State) (down : Bool) : Bool :=
  (List.range s.seqSize).all (fun t => s.hopDone down (t + 1))

/-- R177: may the next traveller of the schedule come: the one in circulation has gone its whole ring. -/
def State.mayBegin (s : State) (down : Bool) : Bool :=
  let d := s.dir down
  (!d.active || (d.own && s.ringDone down)) && (s.travelAt down (s.nextTravel down)).isSome

/-- R177, R193: the last hop of a traveller: its return pages go home. -/
def State.lastHop (s : State) (down : Bool) (n : Nat) : Nat :=
  match s.travelAt down n with
  | some t => if t.back then s.seqSize else s.seqSize - 1
  | none => 0

/-- R179, R193: the pages of 64 KiB that the pages of a ring step of a traveller take. -/
def State.hopCost (s : State) (down : Bool) (n hop : Nat) : Nat :=
  match s.travelAt down n with
  | none => 0
  | some t =>
    let q := s.seqPlan
    seqPages q * ((seqLanes q down t.back).map (fun l => if 3 ≤ l.1 then 2 else if hop = s.seqSize then 0 else 1)).sum

/-! ## Traveller buffers (R179, R349) -/

/-- R349: the memory-plan buffer of a direction: the first of its kind for up, the last for down. -/
def State.trackBuf (s : State) (down : Bool) : Nat :=
  let l := (s.bufferList.filter (fun b => wfld b 0 47 44 = 5)).map (fun b => wfld b 0 63 48)
  if down then l.getLastD 0 else l.headD 0

/-- R349: pages of 64 KiB in one traveller buffer of a direction: one of its COUNT equal parts. -/
def State.bufSlots (s : State) (down : Bool) : Nat :=
  match s.placedBuf (s.trackBuf down) with
  | some p => (wd p.words 2).toNat / 65536
  | none => 0

/-- R179: has a page that a buffer holds still to go on: not at its last hop. -/
def State.goesOn (s : State) (p : Page) : Bool :=
  gHop p + 1 < s.seqSize || (isReturn p && gHop p + 1 == s.seqSize)

def TrackBuf.holds (b : TrackBuf) (p : Page) : Bool := gTravel p == b.travel && gHop p == b.hop

/-- R179: is a buffer free again: every page of its ring step has come, the next module has verified those that go on, and
the last descriptor that reads it has retired. -/
def State.bufOver (s : State) (down : Bool) (b : TrackBuf) : Bool :=
  let d := s.dir down
  (b.travel != d.travel || b.hop == 0 || s.hopDone down b.hop) &&
    d.held.all (fun x => !(b.holds x.page) || x.acked || !(s.goesOn x.page)) &&
    ((s.travelAt down b.travel).map (fun t => t.reads.getD b.hop 0)).getD 0 ≤ b.reads

/-- R179: frees the buffers that are over, with one credit upstream for each page of them; the last buffer of a traveller is
kept free for the module's own pages of the next one, and is not granted. -/
def State.freeBufs (s : State) (down : Bool) : State :=
  let d := s.dir down
  let out := d.bufs.filter (s.bufOver down)
  let t := s.setDir down { d with
    bufs := d.bufs.filter (fun b => !(out.contains b))
    held := d.held.filter (fun x => !(out.any (fun b => b.holds x.page))) }
  (out.filter (fun b => b.hop != s.lastHop down b.travel)).foldl (fun u _ =>
    u.send { kind := .pageCredit, dest := (s.trackStays (!down)).headD 0, code := if down then 1 else 0
             words := [BitVec.ofNat 64 (s.bufSlots down)] }) t

/-- One of several, freely. -/
def State.pickOf (s : State) (l : List Nat) : Option (Nat × State) :=
  if l = [] then none
  else
    let f := s.takeFree
    some (l.getD (f.1 % l.length) 0, f.2)

/-- The buffer that takes a ring step of a traveller: the one that holds it, or any free one. -/
def State.bufferFor (s : State) (down : Bool) (travel hop : Nat) : Option (Nat × State) :=
  let d := s.dir down
  match d.bufs.find? (fun b => b.travel = travel ∧ b.hop = hop) with
  | some b => some (b.index, s)
  | none =>
    (s.pickOf ((List.range s.trackBuffers).filter (fun i => !(d.bufs.any (fun b => b.index = i))))).map (fun x =>
      (x.1, x.2.setDir down { d with bufs := d.bufs ++ [{ travel := travel, hop := hop, index := x.1 }] }))

/-- Is a run of 64-KiB places of a direction clear of the pages it holds. -/
def State.placeFree (s : State) (down : Bool) (a n : Nat) : Bool :=
  (s.dir down).held.all (fun x => x.place / 65536 + pageBytes x.page / 65536 ≤ a || a + n ≤ x.place / 65536)

/-- The places of a page of `n` times 64 KiB in buffer `b` of a direction: a return page begins at an even place, and a smaller
one fills up a pair of places of which one is taken, so that every page of the largest traveller finds room (log entry 214). -/
def State.placesIn (s : State) (down : Bool) (b n : Nat) : List Nat :=
  let k := s.bufSlots down
  let free := ((List.range (k / 2 * 2 + 1 - n)).filter (fun i => n ≠ 2 || i % 2 = 0)).filter (fun i => s.placeFree down (b * k + i) n)
  let half := free.filter (fun i => n = 1 && !(s.placeFree down (b * k + i / 2 * 2) 2))
  (if half = [] then free else half).map (fun i => b * k + i)

/-- The place of a page: the spec names none, so it is any that the buffer of its ring step offers; no place where none is
left. -/
def State.pagePlace (s : State) (down : Bool) (p : Page) : Option (Nat × State) :=
  match s.bufferFor down (gTravel p) (gHop p) with
  | none => none
  | some b => (b.2.pickOf (s.placesIn down b.1 (pageBytes p / 65536))).map (fun x => (65536 * x.1, x.2))

/-- R193, R194: the bytes of a return page that the module stores its part into: those of its valid tokens. -/
def partOf (p : Page) : List (Nat × Nat) := if isReturn p && gValid p != 0 then [(0, gValid p * 512)] else []

/-- A page takes its place in a buffer of its direction. -/
def State.holdPage (s : State) (down : Bool) (p : Page) : Option (Nat × State) :=
  (s.pagePlace down p).map (fun x =>
    let d := x.2.dir down
    (x.1, x.2.setDir down { d with held := d.held ++ [{ page := { p with payload := [], poison := [] }, place := x.1, due := partOf p }] }))

/-- R179: a direction begins with a credit for each page of its downstream neighbour's buffers, but for the one that the
neighbour keeps for its own traveller. -/
def State.trackCredits (s : State) (down : Bool) : Nat := (s.trackBuffers - 1) * s.bufSlots down

/-- R179: has no page of ring step `hop` of a traveller been verified at the next module. -/
def State.noneAcked (s : State) (down : Bool) (n hop : Nat) : Bool :=
  (s.dir down).held.all (fun x => !(gTravel x.page == n && gHop x.page == hop && x.acked))

/-- R179: the space of a buffer that the pages of a ring step leave empty. -/
def State.slack (s : State) (down : Bool) (n hop : Nat) : Nat := s.bufSlots down - s.hopCost down n hop

/-- R179: credits that sending a page takes: those of the page, and with the first of a ring step those of what its
buffer holds beyond that ring step. -/
def State.sendCost (s : State) (down : Bool) (p : Page) : Nat :=
  let hop := gHop p + 1
  pageCost p + (if s.noneAcked down (gTravel p) (gHop p) && (s.dir down).kept.all (fun k => gHop k != hop) then
    s.slack down (gTravel p) hop else 0)

/-- R179: credits that will come back for a page verified downstream, with the first of a ring step those of the rest of its
buffer; the last buffer of a traveller is not granted. -/
def State.ackCredit (s : State) (down : Bool) (k : Page) : Nat :=
  if gHop k = s.lastHop down (gTravel k) then 0
  else pageCost k + (if s.noneAcked down (gTravel k) (gHop k - 1) then s.slack down (gTravel k) (gHop k) else 0)

/-- R179: of the credits that buffers downstream hold, any number may have come back. -/
def State.creditBack (s : State) (down : Bool) : State :=
  let f := s.takeFree
  let d := f.2.dir down
  let k := f.1 % (d.owed + 1)
  f.2.setDir down { d with credits := d.credits + k, owed := d.owed - k }

/-- A direction with nothing in circulation, `n` the sequence number of the step's first traveller. -/
def State.freshDir (s : State) (down : Bool) (n : Nat) : State :=
  s.setDir down { opened := n, before := n, credits := s.trackCredits down }

/-- R183: both directions at the start of a job: the first traveller has number 0. -/
def State.startTrack (s : State) : State := (s.freshDir false 0).freshDir true 0

/-- R183: a step is over: the next step's travellers count on. What stands in buffers, is kept or is owed stays (R179, R182). -/
def State.closeTrack (s : State) : State :=
  let next := fun (d : TrackDir) => { d with before := d.opened, opened := (d.opened + s.stepTravels) % 2 ^ 32 }
  { s with up := next s.up, down := next s.down }

/-- R434: both directions of a step that starts again, the one that runs or the last closed: its travellers have the numbers
they had. -/
def State.rewindTrack (s : State) (closed : Bool) : State :=
  let first := fun (d : TrackDir) => if closed then d.before else d.opened
  (s.freshDir false (first s.up)).freshDir true (first s.down)

/-! ## The stays of a direction (R185, R205) -/

/-- R185, R205: a direction of the track in use with both stays down, where it leaves or where it arrives. -/
def State.dirDown (s : State) (down : Bool) : Bool :=
  s.dirUsed down && 2 ≤ s.seqSize && [s.trackStays down, s.trackStays (!down)].any (fun l => l.all (fun t => !(s.stay t).up))

/-- R185, R205: a direction of the track in use with a stay down. -/
def State.dirDegraded (s : State) (down : Bool) : Bool :=
  s.dirUsed down && 2 ≤ s.seqSize && [s.trackStays down, s.trackStays (!down)].any (fun l => l.any (fun t => !(s.stay t).up))

/-- R185: is a counter the page counter of a direction that is down. -/
def State.waitsDown (s : State) (cnt : Nat) : Bool :=
  [false, true].any (fun d => s.dirDown d && (Config.pageCounter d).val == cnt)

/-! ## What the module's own descriptors do to a buffer (R179, R193, R194) -/

/-- R349: the virtual addresses of traveller buffer `i` of a direction, and its owner. -/
def State.bufRange (s : State) (down : Bool) (i : Nat) : Nat × Nat × Nat :=
  match s.placedBuf (s.trackBuf down) with
  | some p =>
    let a := (wd p.words 1).toNat + i * (wd p.words 3).toNat
    (wfld p.words 0 43 40, a, a + (wd p.words 2).toNat)
  | none => (0, 0, 0)

/-- The virtual addresses at which a held page's payload lies. -/
def State.heldRange (s : State) (down : Bool) (x : HeldPage) : Nat × Nat × Nat :=
  let k := max 1 (65536 * s.bufSlots down)
  let r := s.bufRange down (x.place / k)
  (r.1, r.2.1 + x.place % k, r.2.1 + x.place % k + pageBytes x.page)

/-- R179: a descriptor of context `c` that read bytes [a, b) has retired: it counts at every buffer that it read. -/
def State.trackRead (s : State) (down : Bool) (c a b : Nat) : State :=
  let d := s.dir down
  let hit := fun (t : TrackBuf) => let r := s.bufRange down t.index; r.1 == c && r.2.1 < b && a < r.2.2
  if d.bufs.any hit then
    (s.setDir down { d with bufs := d.bufs.map (fun t => if hit t then { t with reads := t.reads + 1 } else t) }).freeBufs down
  else s

/-- R193, R194: what a held page still lacks of the module's part once context `c` has written some byte ranges. -/
def State.partLeft (s : State) (down : Bool) (c : Nat) (rs : List (Nat × Nat)) (x : HeldPage) : List (Nat × Nat) :=
  let r := s.heldRange down x
  if r.1 ≠ c then x.due
  else x.due.flatMap (outside ((rs.filter (fun w => r.2.1 < w.2 && w.1 < r.2.2)).map (fun w => (w.1 - r.2.1, w.2 - r.2.1))))

/-- R193, R194: a descriptor of context `c` that wrote some byte ranges has retired: they are the module's part of the pages
they lie in. -/
def State.trackStored (s : State) (down : Bool) (c : Nat) (rs : List (Nat × Nat)) : State :=
  let d := s.dir down
  if d.held.all (fun x => x.due == []) then s
  else s.setDir down { d with held := d.held.map (fun x => { x with due := s.partLeft down c rs x }) }

/-- R177, R194: may a held page go on: K and V at once, a return page once the module's part stands in it. -/
def HeldPage.ready (x : HeldPage) : Bool := x.due == []

/-- R177, R183: the first page held, of K and V or of the return pages, that goes on and has not been sent; pages of a traveller
follow the module's own. -/
def State.firstHeld (s : State) (down back : Bool) : Option HeldPage :=
  let d := s.dir down
  d.held.find? (fun x => isReturn x.page == back && s.goesOn x.page && !x.acked && (d.own || gTravel x.page != d.travel) &&
    !(d.kept.any (fun k => pageId k == { pageId x.page with hop := gHop x.page + 1 })))

/-- R177, R193, R194: the next page held that goes on: of K and V, else of the return pages, which go in their order as the
module's part stands in them. -/
def State.nextHeld (s : State) (down : Bool) : Option HeldPage :=
  match s.firstHeld down false with
  | some x => some x
  | none => (s.firstHeld down true).filter HeldPage.ready

/-- R177, R179: may the module's own pages of the traveller in circulation take a buffer: its step is open, everything of
earlier travellers has gone on and been verified, and the last buffer of the traveller before is free. -/
def State.mayPlace (s : State) (down : Bool) : Bool :=
  let d := s.dir down
  d.active && !d.own && s.rfld (bTell + 8) 2 0 == 2 && d.kept == [] &&
    d.held.all (fun x => gTravel x.page == d.travel || x.acked || !(s.goesOn x.page)) &&
    d.bufs.all (fun b => b.travel == d.travel || b.hop != s.lastHop down b.travel) && d.bufs.length < s.trackBuffers

end Sys2Proof.Machine
end

