-- ==== Sys2Proof/Machine/Stays.lean ====
section
/-! DEFINITION. Stay links: flits, link retry, lane drop, training, routes, and what follows when a stay goes down
(R185, R372–R386, R405, R410–R412). -/
namespace Sys2Proof.Machine

/-! ## The TACKLE section (R387, R388) -/

def State.tackleSec (s : State) : List Word := s.section 0x0012 0

/-- R387: torus size of dimension `d`. -/
def State.torus (s : State) (d : Nat) : Nat := wfld s.tackleSec 1 (63 - 5 * d) (59 - 5 * d)

/-- R383: coordinate of a module in dimension `d`. -/
def State.coord (s : State) (m d : Nat) : Nat :=
  m / ((List.range d).map s.torus).foldl (· * ·) 1 % (max 1 (s.torus d))

/-- R387: dimensions that member set `i` spans. -/
def State.setDims (s : State) (i : Nat) : List Nat :=
  let w := wd s.tackleSec ((wd s.tackleSec 4).toNat / 8 + 2 * i)
  (List.range 4).filter (fun d => bitAt w (60 + d))

/-- R388: words of tackle operation `i`. -/
def State.tackleOp (s : State) (i : Nat) : List Word := (s.tackleSec.drop ((wd s.tackleSec 3).toNat / 8 + 8 * i)).take 8

/-- R387: words of tackle list `i`. -/
def State.tackleList (s : State) (i : Nat) : List Word := (s.tackleSec.drop ((wd s.tackleSec 2).toNat / 8 + 2 * i)).take 2

/-! ## Flits (R374, R375, R382) -/

def flitVc (f : Flit) : Nat := fld f.header 63 62
def flitClass (f : Flit) : Nat := fld f.header 61 61
def flitType (f : Flit) : Nat := fld f.header 60 56
def flitDest (f : Flit) : Nat := fld f.header 55 40
def flitSrc (f : Flit) : Nat := fld f.header 39 24
def flitSeq (f : Flit) : Nat := fld f.header 23 12

/-- R376, R382: which receive buffer a flit takes, in the order of CREDITS. -/
def bufferOf (f : Flit) : Nat :=
  match flitVc f with
  | 0 => 0
  | 1 => 1 + flitClass f
  | 2 => 3
  | _ => 4 + flitClass f

/-- R374: payload bytes 256 × `i` on of a message as one flit. -/
def flitOf (src dest vc n i : Nat) (bs : List PByte) : Flit :=
  let typ := if n = 1 then 4 else if i = 0 then 1 else if i + 1 = n then 3 else 2
  let part := (bs.drop (256 * i)).take 256
  let word := fun k => (part.drop (8 * k)).take 8
  { header := packWord [(62, vc), (56, typ), (40, dest), (24, src)]
    payload := (List.range 32).map (fun k => BitVec.ofNat 64 (ofLeBytes ((word k).map (fun b => b.1))))
    poison := BitVec.ofNat 32 ((List.range 32).foldl (fun a k => if (word k).any (fun b => b.2) then a + 2 ^ k else a) 0)
    crcOk := true }

/-- R374, R400: the flits of a message. -/
def flitsOf (src dest vc : Nat) (bs : List PByte) : List Flit :=
  let n := max 1 (ceilDiv bs.length 256)
  (List.range n).map (fun i => flitOf src dest vc n i bs)

/-- R374, R375: the words of a flit as they leave; the CRC covers header, payload and poison mask. -/
def flitWords (f : Flit) : List Word :=
  let bs := wordsBytes (f.header :: f.payload) ++ leBytes 4 f.poison.toNat
  f.header :: f.payload ++ [packWord [(32, f.poison.toNat), (0, (crc32c bs).toNat)]]

/-! ## Frames (R373, R376, R379) -/

/-- R379, R410: what the decoders of stay `t` saw in the last millisecond. -/
def State.fecLast (s : State) (t : Nat) : List (Nat × Nat × Nat × Nat) :=
  (kget [] s.fec t).filter (fun x => s.time.now < x.1 + 1000000)

/-- R410: symbols corrected on a lane in the last millisecond. -/
def State.laneCorr (s : State) (t l : Nat) : Nat :=
  (((s.fecLast t).filter (fun x => x.2.1 = l)).map (fun x => x.2.2.1)).foldl (· + ·) 0

/-- R379: codewords lost on a lane in the last millisecond. -/
def State.laneErrors (s : State) (t l : Nat) : Nat :=
  (((s.fecLast t).filter (fun x => x.2.1 = l)).map (fun x => x.2.2.2)).foldl (· + ·) 0

/-- R376: bytes 0 to 267 of a control slot: MARKER, what came in order (ACK), what is asked for again (NAK), LANES, LANE_CHANGE,
and the buffers freed. -/
def controlBytes (x : Stay) : List Byte :=
  leBytes 8 0x5354415946524D30 ++ leBytes 2 ((x.rxSeq + 4095) % 4096) ++
    leBytes 2 (match x.nak with
      | some n => 4096 + n
      | none => 0) ++
    leBytes 1 x.lanes ++ leBytes 1 (if x.change then 1 else 0) ++ x.freed.flatMap (leBytes 1) ++ List.replicate 248 0

/-- R376: the control slot a stay sends, 272 B with its CRC. -/
def State.controlSlot (s : State) (t : Nat) : Sent :=
  let bs := controlBytes (s.stay t)
  { kind := .control, dest := t, words := bytesWords 34 (bs ++ leBytes 4 (crc32c bs).toNat) }

/-- R374, R377: an idle flit: it carries nothing, takes no SEQ and is not kept. -/
def idleFlit : Flit := { header := 0, payload := List.replicate 32 0, poison := 0, crcOk := true }

/-- R373, R377: slots that no flit takes carry idle flits, up to the end of the frame. -/
def State.fillFrame (s : State) (t : Nat) : State :=
  let n := (s.stay t).slot
  if n = 0 then s
  else (List.replicate (64 - n) { kind := .flit, dest := t, words := flitWords idleFlit }).foldl State.send s

/-- R373, R376: a frame of stay `t` begins with its control slot: buffers freed and a change of lanes count anew. -/
def State.beginFrame (s : State) (t : Nat) : State :=
  ((s.fillFrame t).send (s.controlSlot t)).modStay t (fun x =>
    { x with slot := 1, freed := [0, 0, 0, 0, 0, 0], change := false })

/-- R373: before a flit leaves: slot 0 of a frame is the control slot. -/
def State.openSlot (s : State) (t : Nat) : State := if (s.stay t).slot = 0 then s.beginFrame t else s

/-! ## Sending (R377, R382) -/

/-- R382: the next flit to leave, each only against a credit of its buffer: VC0 before all, then VC2; of VC1 and VC3, one of VC3
after seven of VC1. -/
def pickFlit (credits : List Nat) (turn : Nat) (l : List (Flit × Nat)) : Option Nat :=
  let first := fun (vc : Nat) => l.findIdx? (fun x => flitVc x.1 == vc && decide (0 < credits.getD (bufferOf x.1) 0))
  ((if turn < 7 then [0, 2, 1, 3] else [0, 2, 3, 1]).filterMap first).head?

/-- R382: flits of VC1 since the last of VC3, up to seven, once a flit of channel `vc` has left. -/
def nextTurn (turn vc : Nat) : Nat := if vc = 1 then min 7 (turn + 1) else if vc = 3 then 0 else turn

/-- Adds `k` at one place of a list of counts. -/
def addAt (l : List Nat) (i k : Nat) : List Nat := l.set i (l.getD i 0 + k)

/-- R376: a flit leaves a receive buffer of the stay it came on. -/
def State.freeBuffer (s : State) (t : Nat) (f : Flit) : State :=
  if t < 12 then s.modStay t (fun x => { x with freed := addAt x.freed (bufferOf f) 1 }) else s

/-- R373, R374, R377, R412: one flit leaves a stay in its next slot under its next SEQ, and is kept until acknowledged. -/
def State.sendFlit (s : State) (t : Nat) (x : Flit × Nat) : State :=
  let s := s.openSlot t
  let st := s.stay t
  let f := { x.1 with header := setFld x.1.header 23 12 st.txSeq }
  let s := s.setStay t { st with
    txSeq := (st.txSeq + 1) % 4096
    slot := (st.slot + 1) % 64
    replay := st.replay ++ [f]
    turn := nextTurn st.turn (flitVc f)
    credits := st.credits.set (bufferOf f) (st.credits.getD (bufferOf f) 0 - 1) }
  ((s.freeBuffer x.2 x.1).count (bStay t + 0x100) 1).send { kind := .flit, dest := t, words := flitWords f }

/-- R377, R382: a stay sends what it may; a flit left without credit counts. -/
def State.pumpStay (s : State) (t : Nat) : Nat → State
  | 0 => s
  | k + 1 =>
    let st := s.stay t
    if !st.up || st.waiting.isEmpty then s
    else if 240 ≤ st.replay.length then s
    else
      match pickFlit st.credits st.turn st.waiting with
      | none => s.count (bStay t + 0x138) 1
      | some i =>
        match st.waiting[i]? with
        | none => s
        | some x => ((s.setStay t { st with waiting := st.waiting.eraseIdx i }).sendFlit t x).pumpStay t k

def State.pump (s : State) (t : Nat) : State := s.pumpStay t ((s.stay t).waiting.length + 1)

/-! ## Routes (R383, R384, R405) -/

/-- R344, R383: the stay that leads one way in a torus dimension, if it is up. -/
def State.ringStay (s : State) (d : Nat) (minus : Bool) : Option Nat :=
  (List.range 12).find? (fun t => s.stayUse t == 1 && wfld s.roleSec (4 + t) 39 38 == d &&
    bitAt (wd s.roleSec (4 + t)) 37 == minus && (s.stay t).up)

/-- R344, R384: is a stay one of the torus in dimension `d`. -/
def State.inRing (s : State) (d t : Nat) : Bool :=
  t < 12 && s.stayUse t == 1 && wfld s.roleSec (4 + t) 39 38 == d

/-- R384, R405: the way around the ring of dimension `d` from coordinate `x` to `y` of `n`, for a flit that came on stay
`from_`: on the way it travels in this dimension; at its start the shorter, plus on a tie; the other one where the link that
way is cut. -/
def State.ringWay (s : State) (d n x y from_ : Nat) : Option (Nat × Bool) :=
  let f := (y + n - x) % n
  let minus := if s.inRing d from_ then !(bitAt (wd s.roleSec (4 + from_)) 37) else n < 2 * f
  match s.ringStay d minus with
  | some t => some (t, minus)
  | none => (s.ringStay d (!minus)).map (fun t => (t, !minus))

/-- R384: the stay and buffer class of the next hop to a module, for a flit that came on stay `from_` in class `c`. -/
def State.route (s : State) (dest from_ c : Nat) : Option (Nat × Nat) :=
  let own := s.moduleNo
  match (List.range 4).find? (fun d => s.coord own d ≠ s.coord dest d) with
  | none => none
  | some d =>
    let n := s.torus d
    let x := s.coord own d
    match s.ringWay d n x (s.coord dest d) from_ with
    | some (t, minus) =>
      let same := s.inRing d from_
      let crosses := if minus then x == 0 else x + 1 == n
      some (t, if crosses then 1 else if same then c else 0)
    | none =>
      ((List.range 12).find? (fun t => s.stayUse t == 3 && s.stayPeer t == dest && (s.stay t).up)).map (fun t => (t, 0))

/-- R176, R382: the next hop of a flit. Scalar and control traffic also takes a stay of the track to the module at its far
end, where no other stay leads there. -/
def State.flitRoute (s : State) (dest vc from_ c : Nat) : Option (Nat × Nat) :=
  match s.route dest from_ c with
  | some r => some r
  | none =>
    if vc = 0 then
      ((List.range 12).find? (fun t => s.stayUse t == 2 && s.stayPeer t == dest && (s.stay t).up)).map (fun t => (t, 0))
    else none

/-- Puts a flit in line for its next hop; without a route it goes nowhere. -/
def State.forward (s : State) (from_ : Nat) (f : Flit) : State :=
  match s.flitRoute (flitDest f) (flitVc f) from_ (flitClass f) with
  | none => s.freeBuffer from_ f
  | some (t, c) =>
    let g := { f with header := setFld f.header 61 61 (if flitVc f = 1 ∨ flitVc f = 3 then c else 0) }
    (s.modStay t (fun x => { x with waiting := x.waiting ++ [(g, from_)] })).pump t

/-- Sends a message to a module on a virtual channel, flit by flit. -/
def State.sendMsg (s : State) (dest vc : Nat) (bs : List PByte) : State :=
  (flitsOf s.moduleNo dest vc bs).foldl (fun t f => t.forward 12 f) s

/-- The bytes of a message whose layout the spec does not give, by its free value: 1 to 256 flits of them. -/
def freeBytes (n : Nat) : List PByte := plain ((List.range (256 * (n % 256 + 1))).map (Config.messageByte n))

/-- R382: a message whose layout the spec does not give leaves for a module, as flits of a channel: their number and content
are free. -/
def State.freeMsg (s : State) (dest vc : Nat) : State :=
  let f := s.takeFree
  f.2.sendMsg dest vc (freeBytes f.1)

/-- R382, R386: such a message for the far end of stay `t` itself, on VC0. -/
def State.freeNear (s : State) (t : Nat) : State :=
  let f := s.takeFree
  let fs := flitsOf s.moduleNo (s.stayPeer t) 0 (freeBytes f.1)
  (f.2.modStay t (fun x => { x with waiting := x.waiting ++ fs.map (fun g => (g, 12)) })).pump t

/-! ## When a stay goes down (R185, R381, R405) -/

/-- R185: which direction of the track leaves on a stay. -/
def State.trackDir (s : State) (t : Nat) : Option Bool :=
  if s.stayUse t ≠ 2 then none
  else if (s.trackStays false).contains t then some false
  else if (s.trackStays true).contains t then some true
  else none

/-- R405: does an operation in flight span dimension `d`. -/
def State.opSpans (s : State) (d : Nat) (o : CollOp) : Bool :=
  (o.phase == .phase0 || o.phase == .moving) && (s.setDims (wfld (s.tackleOp o.op) 0 41 32)).contains d

/-- R281, R405: the contexts with a REMOTE_READ in progress whose module no route reaches. -/
def State.cutReaders (s : State) : List Nat :=
  s.cores.flatMap (fun k => k.2.queues.flatMap (fun q =>
    (q.2.filter (fun i => wfld i.words 0 63 56 == 0x2E && i.vstage == 1 &&
      (s.route (wfld i.words 6 63 48) 12 0).isNone)).map (fun i => i.ctx)))

/-- R319: may a context still fault. -/
def State.mayFault (s : State) (c : Nat) : Bool := (s.ctx c).state != 6 && (s.ctx c).state != 7

/-- R185: the primary contexts that wait on a direction: at its page counter, or for pages that have to go on. -/
def State.waitsOn (s : State) (down : Bool) : List Nat :=
  let d := s.dir down
  if !s.dirUsed down then []
  else [1, 2].filter (fun c => (s.ctx c).cls == 2 && 2 ≤ (s.ctx c).state && (s.ctx c).state ≤ 5 &&
    ((c == s.trackCtx && (d.kept != [] || (s.nextHeld down).isSome)) ||
     s.cores.any (fun k => match (kget {} k.2.seqs c).waitCnt with
       | some (n, _, _) => n == (Config.pageCounter down).val
       | none => false)))

/-- R185: a stay of the track is down. Either direction crosses it, leaving or arriving: it goes on over the other stay of
the pair, or it is down and every context that waits on it faults. -/
def State.trackDown (s : State) (t : Nat) (down : Bool) : Bool × State :=
  if (s.trackStays down).any (fun u => u ≠ t && (s.stay u).up) then (true, s.flag (bTrack + 0x10) 3)
  else
    let cs := (s.waitsOn false ++ s.waitsOn true).eraseDups
    (cs.isEmpty, cs.foldl (fun u c => u.ctxFault c 0x11) (s.flag (bTrack + 0x10) 4))

/-- R405: a torus ring is cut: re-routed, or divided by a second cut, and every context that waits across it
faults. -/
def State.ringCut (s : State) (d : Nat) : Bool × State :=
  if (s.ringStay d false).isSome ∨ (s.ringStay d true).isSome then
    (true, ((s.flag (bColl + 0x10) 6).count (bColl + 0x140) 1))
  else
    let cs := ((s.ops.filter (s.opSpans d)).map (fun o => o.ctx) ++ s.cutReaders).eraseDups.filter s.mayFault
    (cs.isEmpty, cs.foldl (fun u c => u.ctxFault c 0x11) s)

/-- R176, R185: the traveller flits of stay `t` go on over the other stay of its pair, or nowhere. -/
def State.moveTravellers (s : State) (t : Nat) (fs : List (Flit × Nat)) : State :=
  match s.trackDir t with
  | none => s
  | some down =>
    match (s.trackStays down).find? (fun u => u ≠ t && (s.stay u).up) with
    | none => s
    | some u => (s.modStay u (fun x => { x with waiting := x.waiting ++ fs })).pump u

/-- R185, R405: what stay `t` had not delivered goes another way: travellers stay on the track, this module's own flits are
sent again, and the sources of the others are asked to send again. -/
def State.rerouteFlits (s : State) (t : Nat) (all : List (Flit × Nat)) : State :=
  let s := s.moveTravellers t (all.filter (fun x => flitVc x.1 = 2))
  let fs := all.filter (fun x => flitVc x.1 ≠ 2)
  let own := fs.filter (fun x => flitSrc x.1 = s.moduleNo)
  let others := ((fs.filter (fun x => flitSrc x.1 ≠ s.moduleNo)).map (fun x => flitSrc x.1)).eraseDups
  let s := own.foldl (fun t x => t.forward 12 x.1) s
  others.foldl (fun t m => (t.send { kind := .resendRequest, dest := m }).freeMsg m 0) s

/-- R381, R405, R185: a stay goes down. -/
def State.stayLost (s : State) (t : Nat) (injected : Bool := false) : State :=
  let st := s.stay t
  if !st.up then s
  else
    let s := (s.setStay t { st with up := false, lanes := 0, waiting := [], replay := [], nak := none, tries := 0 }).flag
      (bStay t + 0x18) 2
    let r := match s.trackDir t with
      | some d => s.trackDown t d
      | none => if s.stayUse t = 1 then s.ringCut (wfld s.roleSec (4 + t) 39 38) else (true, s)
    let s := if r.1 then
        r.2.record { kind := 0x11, cls := 0, unitType := 4, unit := t * 8, injected := injected }
      else r.2
    s.rerouteFlits t (st.replay.map (fun f => (f, 12)) ++ st.waiting)

/-! ## Lanes (R379–R381) -/

/-- R379, R381, R412: a lane leaves the active set; below four lanes the stay goes down. -/
def State.laneLost (s : State) (t l : Nat) (injected : Bool := false) : State :=
  let st := s.stay t
  if st.up && st.lanes.testBit l then
    let s := s.setStay t { st with lanes := st.lanes - 2 ^ l, change := true }
    let s := ((s.record { kind := 0x10, cls := 0, unitType := 4, unit := t * 8 + l, injected := injected }).flag
      (bStay t + 0x18) 1).count (bStay t + 0x130) 1
    if popcount 8 (st.lanes - 2 ^ l) < 4 then s.stayLost t injected else s
  else s

/-- LANE_DROP (R379). -/
def execLaneDrop (stay : Fin 12) (lane : Fin 8) (s : State) : Res := .next (s.laneLost stay lane)

/-- STAY_DOWN (R381). -/
def execStayDown (stay : Fin 12) (s : State) : Res := .next (s.stayLost stay)

/-- PEER_SILENCE_TIMEOUT (R381). -/
def execPeerSilenceTimeout (stay : Fin 12) (s : State) : Res := .next (s.stayLost stay)

/-- R380: a stay begins to train. -/
def State.retrain (s : State) (t : Nat) : State :=
  s.modStay t (fun x => { excluded := x.excluded, seen := x.seen, training := true })

def State.retrainAll (s : State) : State := (List.range 12).foldl (fun t n => t.retrain n) s

/-- STAY_TRAINED (R380, R381, R495): a stay in training comes up with the lanes that locked, those a self-test keeps
out left out; fewer than four keep it down. -/
def execStayTrained (stay : Fin 12) (lanes : BitVec 8) (s : State) : Res :=
  let st := s.stay stay
  let l := lanes.toNat ^^^ (lanes.toNat &&& st.excluded)
  if s.mode.powered ∧ st.training ∧ 4 ≤ popcount 8 l then
    .next ((s.setStay stay { excluded := st.excluded, seen := st.seen, up := true, lanes := l }))
  else .next s

/-! ## Receiving (R376–R378) -/

/-- R506: the request in INJ_LINK, when it is of kind `k` and `p` takes it: its word, and the state with one event fewer
to come. -/
def State.takeLinkReq (s : State) (k : Nat) (p : Word → Bool) : Option Word × State :=
  let r := s.reg (bPert + 0x110)
  let n := fld r 47 32
  if s.armed && fld r 63 60 == k && n != 0 && p r then
    (some r, s.setReg (bPert + 0x110) (if n = 1 then 0 else setFld r 47 32 (n - 1)))
  else (none, s)

/-- R501, R506: takes a request for an event that writes no record of its own: it counts as injected here. -/
def State.takeLink (s : State) (k : Nat) (p : Word → Bool) : Option Word × State :=
  let r := s.takeLinkReq k p
  match r.1 with
  | some w => (some w, (r.2.count (bFault + 0x130) 1).flag (bFault + 0x08) 5)
  | none => (none, r.2)

/-- R372, R379, R410, R412: what the decoders of a stay saw: by lane the symbols corrected and the codewords lost. -/
def State.fecSeen (s : State) (t : Nat) (l : List (Nat × Nat × Nat)) : State :=
  let corrected := (l.map (fun x => x.2.1)).foldl (· + ·) 0
  let bad := (l.map (fun x => x.2.2)).foldl (· + ·) 0
  let s := (s.count (bStay t + 0x110) corrected).count (bStay t + 0x118) bad
  let s : State := if corrected + bad = 0 then s else
    { s with fec := kset [] s.fec t (s.fecLast t ++ l.map (fun x => (s.time.now, x))) }
  if bad = 0 then s else s.flag (bStay t + 0x18) 4

/-- R372: the codewords that came with a flit, by lane: symbols corrected and codewords lost. -/
def decodedWords (f : Flit) : List (Nat × Nat × Nat) :=
  f.words.map (fun x => let r := Fec.seen x.2; (x.1.val, r.1, if r.2 then 1 else 0))

/-- R377: a flit is discarded; the first one sets NAK. -/
def State.askReplay (s : State) (t : Nat) : State :=
  match (s.stay t).nak with
  | some _ => s
  | none => (s.modStay t (fun x => { x with nak := some x.rxSeq })).flag (bStay t + 0x18) 0

/-- FLIT_RECEIVED (R374, R377, R382, R412): verified by CRC and SEQ, then delivered here or sent on; otherwise
discarded. -/
def execFlitReceived (stay : Fin 12) (f : Flit) (s : State) : Res :=
  let t := stay.val
  if (s.stay t).up then
    let a := s.takeLink 1 (fun r => fld r 59 56 == t)
    let inj : List (Nat × Nat × Nat) := match a.1 with
      | some r => let k := fld r 52 48; [(fld r 55 53, if k ≤ 8 then k else 0, if k ≤ 8 then 0 else 1)]
      | none => []
    let s := a.2.fecSeen t (decodedWords f ++ inj)
    let b := s.takeLink 2 (fun r => fld r 59 56 == t)
    let s := b.2
    if !f.crcOk || b.1.isSome then .next ((s.count (bStay t + 0x120) 1).askReplay t)
    else if flitType f = 0 then .next s
    else if flitSeq f ≠ (s.stay t).rxSeq then .next (s.askReplay t)
    else
      let s := s.modStay t (fun x => { x with rxSeq := (x.rxSeq + 1) % 4096, nak := none })
      let s := s.count (bStay t + 0x108) 1
      .next (if flitDest f = s.moduleNo then s.freeBuffer t f else s.forward t f)
  else .next s

/-- R377: what an ACK leaves in the replay buffer. -/
def acked (replay : List Flit) (ack : Nat) : List Flit :=
  match replay.findIdx? (fun f => flitSeq f = ack) with
  | some i => replay.drop (i + 1)
  | none => replay

/-- R377, R378: replays from a SEQ, go-back-N; a seventeenth call for one flit takes the stay down. -/
def State.replayFrom (s : State) (t n : Nat) : State :=
  let st := s.stay t
  match st.replay.findIdx? (fun f => flitSeq f = n) with
  | none => s
  | some i =>
    let fs := st.replay.drop i
    let tries := if i = 0 then st.tries + 1 else 1
    if 16 < tries then s.stayLost t
    else
      let s := (s.setStay t { st with replay := fs, tries := tries }).count (bStay t + 0x128) fs.length
      fs.foldl (fun u f => u.send { kind := .flit, dest := t, words := flitWords f }) s

/-- R379: the lanes with more than 16 codewords lost in the last millisecond leave the active set. -/
def State.dropBadLanes (s : State) (t : Nat) : State :=
  ((List.range 8).filter (fun l => decide (16 < s.laneErrors t l))).foldl (fun u l => u.laneLost t l) s

/-- R373, R376, R379: the next frame of a stay, for each frame that arrives: the present one ends, bad lanes leave, and the
control slot begins it. -/
def State.sendControl (s : State) (t : Nat) : State :=
  let s := s.dropBadLanes t
  if (s.stay t).up then s.beginFrame t else s

/-- CONTROL_SLOT_RECEIVED (R376–R379): ACK, NAK, the peer's lane set and credits; a lost slot changes nothing. -/
def execControlSlotReceived (stay : Fin 12) (c : ControlSlot) (s : State) : Res :=
  let t := stay.val
  if (s.stay t).up && c.crcOk then
    let s := s.modStay t (fun x =>
      let r := acked x.replay c.ack
      { x with
        replay := r
        tries := if r.length < x.replay.length then 0 else x.tries
        credits := x.credits.zipIdx.map (fun k => k.1 + c.credits.getD k.2 0) })
    let s := if c.laneChange then
        ((List.range 8).filter (fun l => !c.lanes.toNat.testBit l)).foldl (fun u l => u.laneLost t l) s
      else s
    let s := match c.nak with
      | some n => s.replayFrom t n
      | none => s
    .next ((s.pump t).sendControl t)
  else .next s


end Sys2Proof.Machine
end

