-- ==== Sys2Proof/Machine/Access.lean ====
section
/-! DEFINITION. How the access engine of a core moves its descriptors, granule by granule (R244–R260, R265–R281,
R314, R427–R429, R454, R482). -/
namespace Sys2Proof.Machine

/-! ## Descriptor fields (R245) -/

def aOp (ws : List Word) : Nat := wfld ws 0 63 56
def aSfmt (ws : List Word) : Fmt := (Fmt.ofCode (wfld ws 0 55 51)).getD .fp32
def aDfmt (ws : List Word) : Fmt := (Fmt.ofCode (wfld ws 0 50 46)).getD .fp32
def aQueue (ws : List Word) : Nat := wfld ws 0 44 42
def aSubop (ws : List Word) : Nat := wfld ws 0 41 38
def aSrc (ws : List Word) : Nat := wfld ws 1 63 48
def aDst (ws : List Word) : Nat := wfld ws 1 47 32
def aIdx (ws : List Word) : Nat := wfld ws 1 31 16
def aCnt (ws : List Word) : Nat := wfld ws 1 15 0
def aHoist (ws : List Word) : Nat := wfld ws 3 47 32
def aVchk (ws : List Word) : Bool := bitAt (wd ws 3) 26
def aRecord (ws : List Word) : Nat := (wd ws 5).toNat

/-! ## FIFOs (R246, R253) -/

/-- The vectors in an access-engine FIFO of core `n`. -/
def State.fifo (s : State) (n q : Nat) : List VReg := kget [] (s.core n).fifos q
def State.setFifo (s : State) (n q : Nat) (l : List VReg) : State :=
  s.modCore n (fun c => { c with fifos := kset [] c.fifos q l })

/-- R251, R253: `k` vectors leave a FIFO: the counts they carry, and the state. -/
def State.popFifo (s : State) (n q k : Nat) : List (Nat × Tally) × State :=
  let d := kget [] (s.core n).fillDue q
  (d.take k, (s.setFifo n q ((s.fifo n q).drop k)).modCore n (fun c => { c with
    fillDue := kset [] c.fillDue q (d.drop k) }))

/-- R251, R253: vectors of a FILL_FIFO enter an input FIFO; the first carries the counts of the group. -/
def State.pushFill (s : State) (n q : Nat) (f : Fmt) (t : Tally) (vs : List VReg) : State :=
  (s.setFifo n q (s.fifo n q ++ vs)).modCore n (fun c => { c with
    fillDue := kmod [] c.fillDue q (fun d => d ++ (f.code, t) :: List.replicate (vs.length - 1) (f.code, {})) })

/-- R253: vectors that one group of elements takes: a pair for FP64, elements and scales for an MX format. -/
def groupVectors (f : Fmt) : Nat := if f = .fp64 ∨ f.isMx then 2 else 1

/-- R132, R253: the E8M0 code of block `j` in a scale vector, with the poison of its lane. -/
def scaleOf (v : VReg) (j : Nat) : Nat × Bool := ((v.lanes.getD (j / 4) 0 >>> (8 * (j % 4))) % 256, v.poison.getD (j / 4) false)

/-- R253: the elements of one group of vectors. -/
def groupElems (f : Fmt) (a b : VReg) : List Elem :=
  (elemsOf f a.lanes b.lanes).zipIdx.map (fun e =>
    let l := laneOfElem f e.2
    let sc := if f.isMx then scaleOf b (e.2 / 32) else (0x7F, f == .fp64 && b.poison.getD l false)
    { code := e.1, scale := sc.1, poison := a.poison.getD l false || sc.2 })

/-- R253: the elements that popped vectors hold, in order. -/
def fifoElems (f : Fmt) : Nat → List VReg → List Elem
  | 0, _ => []
  | k + 1, vs =>
    if vs.length < groupVectors f then []
    else groupElems f (vs.getD 0 VReg.zero) (vs.getD 1 VReg.zero) ++ fifoElems f k (vs.drop (groupVectors f))

/-- R131: poison of the lanes that elements lie in. -/
def lanePoison (f : Fmt) (es : List Elem) : List Bool :=
  let bad := es.zipIdx.filterMap (fun e => if e.1.poison then some (laneOfElem f e.2) else none)
  (List.range 256).map (fun l => bad.contains l)

/-- R253: the vectors that hold up to one group of elements: the lanes beyond them hold +0, the scales of empty
blocks 0x7F. -/
def groupLanes (f : Fmt) (es : List Elem) (scales : List (Nat × Bool)) : List VReg :=
  let k := elemCount f
  let all := (List.range k).map (fun i => (es.getD i { code := 0 }))
  let l := lanesOf f (all.map (fun e => e.code))
  let v : VReg := ⟨l.1, lanePoison f es⟩
  if f = .fp64 then [v, ⟨l.2, v.poison⟩]
  else if f.isMx then
    let byte := fun j => if j < k / 32 then (scales.getD j (0x7F, false)) else (0, false)
    let lane := fun i => (List.range 4).foldl (fun a b => a + (byte (4 * i + b)).1 <<< (8 * b)) 0
    [v, ⟨(List.range 256).map lane, (List.range 256).map (fun i => (List.range 4).any (fun b => (byte (4 * i + b)).2))⟩]
  else [v]

/-! ## Conversion (R250, R251) -/

/-- R54, R56–R59, R132: one element converted, with its counts. -/
def aeConv (ws : List Word) (e : Elem) : Nat × Tally :=
  if aSfmt ws = aDfmt ws then (e.code, {})
  else
    cvtElem (aSfmt ws) (aDfmt ws) (bitAt (wd ws 0) 45) (wfld ws 2 63 32) (wfld ws 2 31 0)
      (layout32.rne (Num.ofInt (signed 8 (wfld ws 3 63 56)))) e.scale e.code

/-- R251, R86: the site at which a transfer counts its conversions. -/
def aeSite (ws : List Word) : Option Nat :=
  let f := aSfmt ws
  let g := aDfmt ws
  if f = g then none
  else if g = .slice then some 6
  else if aOp ws = 0x21 ∨ aOp ws = 0x23 then (if g.width < f.width then some 2 else none)
  else if g.width < f.width ∨ f.isMx then some 3
  else none

/-- Does a transfer quantise to MX blocks (R60), or slice lines (R69). -/
def quantises (ws : List Word) : Bool := (aDfmt ws).isMx && aSfmt ws != aDfmt ws
def slices (ws : List Word) : Bool := aDfmt ws == .slice && aSfmt ws != .slice

/-- R69: does a slicing range begin with position `k` of the line of element `i`: the line does, a pass's K range begins
there, or one ends just before. -/
def cutAt (v : View) (cuts : List (Nat × Bool)) (i : List Nat) (k : Nat) : Bool :=
  let at_ := fun j => (v.bitAddr (i.set 0 j ++ [0])).toNat / 8
  k == 0 || cuts.contains (at_ k, true) || cuts.contains (at_ (k - 1), false)

/-- R69: the first K position of the slicing range that holds position `k`, and the end of that range in a line of
`size`. -/
def cutStart (v : View) (cuts : List (Nat × Bool)) (i : List Nat) : Nat → Nat
  | 0 => 0
  | k + 1 => if cutAt v cuts i (k + 1) then k + 1 else cutStart v cuts i k
def cutEnd (v : View) (cuts : List (Nat × Bool)) (i : List Nat) (size k : Nat) : Nat :=
  ((List.range size).find? (fun j => decide (k < j) && cutAt v cuts i j)).getD size

/-- The elements that convert together are named by their first: a block of 32 along CAXIS (R60), a pass's K range of a
line along dimension 0 for slicing (R69), else the element alone. -/
def groupKey (ws : List Word) (cuts : List (Nat × Bool)) (v : View) (i : List Nat) : List Nat :=
  if slices ws then
    let l := i.take (i.length - 1)
    l.set 0 (cutStart v cuts l (i.getD 0 0))
  else if quantises ws then i.set v.caxis (i.getD v.caxis 0 / 32 * 32)
  else i

/-- The elements of a group, by index vectors of the source's shape; `sizes` are those of the source. -/
def groupMembers (ws : List Word) (cuts : List (Nat × Bool)) (v : View) (sizes key : List Nat) : List (List Nat) :=
  if slices ws then
    let k0 := key.getD 0 0
    (List.range (cutEnd v cuts key (sizes.getD 0 0) k0 - k0)).map (fun k => key.set 0 (k0 + k))
  else if quantises ws then
    let k0 := key.getD v.caxis 0
    (List.range (min 32 (sizes.getD v.caxis 0 - k0))).map (fun j => key.set v.caxis (k0 + j))
  else [key]

/-- R289: does an element end its block of an MX view. -/
def endsBlock (caxis : Nat) (sizes i : List Nat) : Bool :=
  let k := i.getD caxis 0
  k % 32 == 31 || k + 1 == sizes.getD caxis 0

/-- Does an element end its conversion group. -/
def endsGroup (ws : List Word) (cuts : List (Nat × Bool)) (v : View) (sizes i : List Nat) : Bool :=
  if slices ws then
    i.getD 0 0 + 1 == cutEnd v cuts (i.take (i.length - 1)) (sizes.getD 0 0) (i.getD 0 0) && lastOf i == some 6
  else !(quantises ws) || endsBlock v.caxis sizes i

/-- What a group converts to: elements by destination index, scale code with its poison, counts, and for the elements of a
sliced line its exponent and whether each is a NaN or infinity. -/
structure GroupOut where
  key    : List Nat
  puts   : List (List Nat × Elem)
  scale  : Nat × Bool
  tally  : Tally := {}
  line   : List (List Nat × Int × Bool) := []

/-- R54, R56–R61, R69, R70: converts a group. A value formed from poison is poisoned, and so is the whole of a block
or line that a poisoned value enters. -/
def convGroup (w : List Word) (k : List Nat) (ms : List (List Nat)) (es : List Elem) : GroupOut :=
  let bad := es.any (fun e => e.poison)
  let vals := es.map (fun e => (aSfmt w).decodeScaled e.scale e.code)
  if slices w then
    let ea := sliceExp vals
    let ds := vals.map (fun v => (v, sliceInt ea v))
    let ftz := (ds.filter (fun d => d.1.isFin && !d.1.isZero && d.2 == 0)).length
    let planes := List.zipWith (fun m (d : Num × Int) => (sliceDigits 7 d.2 []).zipIdx.map (fun x =>
      (m ++ [x.2], ({ code := unsigned 8 x.1, poison := bad } : Elem)))) ms ds
    { key := k, puts := planes.flatMap (fun p => p), scale := (0x7F, bad)
      tally := { total := es.length, ftz := ftz }
      line := List.zipWith (fun m v => (m, ea, !v.isFin)) ms vals }
  else if quantises w then
    let r := quantMx (aDfmt w) vals
    { key := k, puts := List.zipWith (fun m c => (m, ({ code := c, poison := bad } : Elem))) ms r.2.1
      scale := (r.1, bad), tally := r.2.2 }
  else
    let e := es.getD 0 { code := 0 }
    let r := aeConv w e
    { key := k, puts := [(ms.getD 0 [], { code := r.1, poison := e.poison })], scale := (e.scale, e.poison)
      tally := r.2 }

/-- Cuts a list into runs of the given lengths. -/
def cutInto {α : Type} : List Nat → List α → List (List α)
  | [], _ => []
  | n :: r, l => l.take n :: cutInto r (l.drop n)

/-! ## A unit of a transfer -/

/-- A view with run-time sizes (R355). -/
def View.sized (v : View) (sizes : List Nat) : View := { v with sizes := sizes }

/-- R314: what one unit of a transfer moves: the cuts of its sliced lines, the destination view and sizes, the source view
(none for a FIFO), its destination elements, the source index of a group member, the granule reported, FIFO elements by λ, and whether the
destination's pad stands for every element (R293). -/
structure Xfer where
  ws     : List Word
  cuts   : List (Nat × Bool) := []
  dst    : View
  sizes  : List Nat
  src    : Option View
  ssizes : List Nat
  idxs   : List (List Nat)
  srcOf  : List Nat → List Nat
  gran   : Nat
  fifo   : List Elem := []
  pad    : Bool := false

def Xfer.keys (u : Xfer) : List (List Nat) := (u.idxs.map (groupKey u.ws u.cuts u.dst)).eraseDups
def Xfer.members (u : Xfer) : List (List (List Nat)) := u.keys.map (groupMembers u.ws u.cuts u.dst u.ssizes)
def Xfer.sources (u : Xfer) : List (List Nat) := if u.pad then [] else u.members.flatMap (fun m => m.map u.srcOf)

/-- The scales a unit writes: of the blocks that end in it (R289). -/
def Xfer.scaleIdx (u : Xfer) : List (List Nat) :=
  if u.dst.fmt.isMx then u.idxs.filter (endsBlock u.dst.caxis u.sizes) else []

/-- Byte ranges of a unit's destination elements, of its scales, and of its memory source. -/
def Xfer.dstRuns (u : Xfer) : List (Nat × Nat) := runsOf (u.dst.writes (u.idxs.map (fun i => (i, { code := 0 }))))
def Xfer.scaleRuns (u : Xfer) : List (Nat × Nat) :=
  runsOf (u.scaleIdx.foldl (fun m i => putBits m (8 * u.dst.scaleAddr i) 8 0 false) [])
def Xfer.srcPieces (u : Xfer) : List (Nat × Nat) :=
  match u.src with
  | some v => if v.space = 0 then cutRuns (runsOf (v.reads u.sources)) else []
  | none => []

/-- R314: the accesses of a unit in the order they translate: destination, source, scales. -/
def Xfer.accesses (u : Xfer) : List (Nat × Bool) :=
  let w := fun (rs : List (Nat × Nat)) => if u.dst.space = 0 then (cutRuns rs).map (fun p => (p.1, true)) else []
  w u.dstRuns ++ u.srcPieces.map (fun p => (p.1, false)) ++ w u.scaleRuns

/-- The groups a unit converts, from its source elements. -/
def Xfer.convert (u : Xfer) (es : List Elem) : List GroupOut :=
  let ms := u.members
  List.zipWith (fun km e => convGroup u.ws km.1 km.2 e) (List.zip u.keys ms)
    (cutInto (ms.map (fun m => m.length)) es)

/-- The destination bits of a unit with their values (R289, R293). -/
def Xfer.values (u : Xfer) (gs : List GroupOut) : BitWrites :=
  if u.pad then
    let m := u.dst.writes (u.idxs.map (fun i => (i, { code := u.dst.pad % 2 ^ u.dst.fmt.width })))
    u.scaleIdx.foldl (fun m i => putBits m (8 * u.dst.scaleAddr i) 8 0x7F false) m
  else
    let ps := gs.flatMap (fun g => g.puts)
    let ps := if quantises u.ws || slices u.ws then ps.filter (fun p => u.idxs.contains p.1) else ps
    u.scaleIdx.foldl (fun m i =>
      match gs.find? (fun g => g.key = groupKey u.ws u.cuts u.dst i) with
      | some g => putBits m (8 * u.dst.scaleAddr i) 8 g.scale.1 g.scale.2
      | none => m) (u.dst.writes ps)

/-- R85, R87: the counts of the groups that end in a unit. -/
def Xfer.tally (u : Xfer) (gs : List GroupOut) : Tally :=
  let ends := (u.idxs.filter (endsGroup u.ws u.cuts u.dst u.sizes)).map (groupKey u.ws u.cuts u.dst)
  (gs.filter (fun g => ends.contains g.key)).foldl (fun t g => t.add g.tally) {}

/-- R69, R74: the sliced elements of which a unit writes digit plane 0, by core-store offset. -/
def Xfer.lines (u : Xfer) (gs : List GroupOut) : List (Nat × Int × Bool) :=
  gs.flatMap (fun g => (g.line.filter (fun l => u.idxs.contains (l.1 ++ [0]))).map (fun l =>
    ((u.dst.bitAddr (l.1 ++ [0])).toNat / 8, l.2)))

/-! ## Getting data and stopping -/

/-- The queue number under which a core keeps the transfers of the collective engine (R310, R314); its own queues are
0 to 7, and 8 stands for hoists. -/
def collQueue : Nat := 16

/-- R314: an access that does not pass: its descriptor waits for the walk, or parks at the granule. -/
def State.aeBlock (s : State) (n q : Nat) (i : AeItem) (gran : Nat) (b : Nat × Bool × Xlat) : AeItem × State :=
  match b.2.2 with
  | .fault k code lvl =>
    ({ i with phase := .parked, resumed := true },
     s.park { core := n, ctx := i.ctx, engine := if q = collQueue then 2 else 0, queue := q, granule := gran, va := b.1, write := b.2.1,
              code := code, since := s.time.now, item := i.num } k lvl true)
  | _ => ({ i with phase := .walking b.1 b.2.1 }, s.tlbMiss n i.ctx b.1)

/-- R454: both networks are down: the context faults. -/
def State.aeDown (s : State) (i : AeItem) : State := s.ctxFault i.ctx 0x11

/-- R313, R452: asks for what the descriptor still needs from the host; `true` when nothing is outstanding. -/
def State.aePump (s : State) (n q : Nat) (i : AeItem) : Bool × AeItem × State :=
  if i.need = [] then (i.wait == 0, i, s)
  else
    let r := s.pumpReads n i.ctx q i.num i.need
    if r.1.2.2 then (false, i, s.aeDown i)
    else
      let i := { i with need := r.1.1, wait := i.wait + r.1.2.1, phase := .waiting }
      (false, i, r.2)

/-- Fetches address ranges for a descriptor: stack memory at once, host memory once every response is there. None
when it has to wait, or its context faulted. -/
def State.aeFetch (s : State) (n q : Nat) (i : AeItem) (ps : List (Nat × Nat)) : Option Fetched × AeItem × State :=
  let missing := (s.hostPieces n i.ctx ps false).filter (fun p => !(Fetched.has i.host p.1 p.2))
  if missing ≠ [] then
    let r := s.aePump n q { i with need := missing }
    (none, r.2.1, r.2.2)
  else
    let f := s.fetchPieces n i.ctx ps
    (some (f.1 ++ i.host), i, f.2)

/-- R326: draws a filler's credit for `bytes` of traffic, or all four refills for more than these; a primary needs none. `none`
where the credit is exhausted. -/
def State.drawCredit (s : State) (c bytes : Nat) : Option State :=
  let x := s.ctx c
  if x.cls ≠ 3 then some s
  else if x.credit < min bytes (s.rfld (bXl + 0x100 + 8 * c) 39 32 * 256000) then none
  else some (s.setCtx c { x with credit := x.credit - bytes })

/-- R326: a request of a descriptor for `bytes` of traffic, number `k` of its unit: it draws once, or waits for the next refill,
and the wait counts once. -/
def State.takeCredit (s : State) (i : AeItem) (k bytes : Nat) : Bool × AeItem × State :=
  if i.paid.testBit k then (true, i, s)
  else
    match s.drawCredit i.ctx bytes with
    | some t => (true, { i with paid := i.paid ||| 2 ^ k, short := false }, t)
    | none => (false, { i with phase := .waiting, short := true }, if i.short then s else s.count (bXl + 0x838) 1)

/-- Bytes of address ranges. -/
def piecesLen (ps : List (Nat × Nat)) : Nat := (ps.map (fun p => p.2)).foldl (· + ·) 0

/-- R264, R226: stores the stack pieces of a unit. -/
def State.storePieces (s : State) (n c : Nat) (m : BitWrites) (old : Fetched) (ps : List (Nat × Nat)) : State :=
  ps.foldl (fun t p =>
    match t.translate n c p.1 true with
    | .stack pa policy _ => (t.count (bAe n + 0x108) p.2).storePa n c policy pa (mergedBytes m old p.1 p.2)
    | _ => t) s

/-- What stood in the bytes of a destination that a unit covers only in part. -/
def State.oldBytes (s : State) (n c : Nat) (m : BitWrites) : Fetched × State :=
  (partialBytes m).foldl (fun a p =>
    match a.2.translate n c p.1 true with
    | .stack pa policy _ =>
      let r := a.2.readPa c policy pa p.2
      ((p.1, r.1) :: a.1, r.2)
    | _ => a) ([], s)

/-- R453: sends the writes a descriptor holds for the host, as far as there is room. -/
def State.pumpWrites (s : State) (n q : Nat) (i : AeItem) : List (Nat × List PByte) → AeItem × State
  | [] => ({ i with host := [] }, s)
  | p :: r =>
    match s.translate n i.ctx p.1 true with
    | .host mr off =>
      let u : Unacked := { psn := 0, core := n, queue := q, num := i.num, va := p.1, read := false,
                           msg := { kind := .rdmaWrite, bytes := p.2.map (fun b => b.1) } }
      let a := s.askHost i.ctx mr off u p.2.length
      match a.1 with
      | .down => (i, s.aeDown i)
      | .room => ({ i with host := p :: r }, s)
      | .sent =>
        (if q = collQueue then a.2 else a.2.count (bAe n + 0x108) p.2.length).pumpWrites n q { i with wait := i.wait + 1 } r
    | _ => s.pumpWrites n q i r

/-- A unit is done: the next one, with nothing kept of this one. -/
def AeItem.advance (i : AeItem) : AeItem :=
  { i with next := i.next + 1, host := [], need := [], wait := 0, wrote := false, gran := {}, paid := 0, phase := .ready }

/-- What a step of a descriptor comes to: whether its next unit may go on, the descriptor, the state. -/
abbrev AeStep := Bool × AeItem × State

/-- R314, R453, R482: writes bits of memory for a unit: stack pieces at once; host pieces leave as RDMA writes, whose
acknowledgement ends the unit; poison bound for the host faults the context. The header granule of a gradient shard leaves as the
module forms it (R423). -/
def State.aeStore (s : State) (n q : Nat) (i : AeItem) (m : BitWrites) : AeStep :=
  let old := s.oldBytes n i.ctx m
  let ps := cutRuns (runsOf m)
  let hosts := old.2.hostPieces n i.ctx ps true
  let data := hosts.map (fun p => (p.1, s.headerOr p.1 (mergedBytes m old.1 p.1 p.2)))
  if data.any (fun p => p.2.any (fun b => b.2)) then (false, i, old.2.ctxFault i.ctx 0x06)
  else
    let s := (old.2.storePieces n i.ctx m old.1 ps).rewrittenMem i.ctx (runsOf m)
    if hosts = [] then (true, i.advance, s)
    else
      let r := s.pumpWrites n q { i with wrote := true, wait := 0, phase := .waiting } data
      (false, r.1, r.2)

/-- R254: writes bits of the core store, or waits for the retire fence. -/
def State.aeFenced (s : State) (n : Nat) (m : BitWrites) : Bool := (runsOf m).any (fun r => s.fenceHit n r.1 r.2)

/-- The source elements of a unit. -/
def State.xferElems (s : State) (n : Nat) (u : Xfer) (f : Fetched) : List Elem × State :=
  match u.src with
  | none => (u.sources.map (fun i => u.fifo.getD (linear u.ssizes i) { code := 0 }), s)
  | some v => if v.space = 0 then (u.sources.map (v.elemFrom f), s) else s.csElems n v u.sources

/-- R250–R254, R314: moves one unit of a transfer. -/
def State.moveXfer (s : State) (n q : Nat) (i : AeItem) (u : Xfer) : AeStep :=
  match s.xlateAll n i.ctx u.accesses with
  | some b => let r := s.aeBlock n q i u.gran b; (false, r.1, r.2)
  | none =>
    if u.dst.space = 1 && (u.dstRuns ++ u.scaleRuns).any (fun r => s.fenceHit n r.1 r.2) then
      (false, { i with phase := .fenced }, s)
    else
      let cost := piecesLen u.srcPieces + (if u.dst.space = 0 then piecesLen (u.dstRuns.map (fun r => (r.1, r.2 - r.1))) else 0)
      let k := s.takeCredit i 0 cost
      if !k.1 then (false, k.2.1, k.2.2)
      else
        let f := k.2.2.aeFetch n q k.2.1 u.srcPieces
        match f.1 with
        | none => (false, f.2.1, f.2.2)
        | some data =>
          let i := f.2.1
          let e := f.2.2.xferElems n u data
          let gs := u.convert e.1
          let m := u.values gs
          let t := u.tally gs
          let site := aeSite u.ws
          let count := fun (x : AeStep) =>
            if site = none then x
            else if !x.1 then (x.1, { x.2.1 with gran := t }, x.2.2)
            else if site = some 2 then (x.1, x.2.1, x.2.2.addTally 2 (aDfmt u.ws) t)
            else (x.1, { x.2.1 with tally := x.2.1.tally.add t }, x.2.2)
          if u.dst.space = 1 then
            let s := e.2.csPut n m
            let s := s.modCore n (fun c => { c with
              slices := (u.lines gs).foldl (fun l x => kput l x.1 x.2) c.slices })
            count (true, i.advance, s)
          else count (e.2.aeStore n q i m)

/-! ## Loads, stores and FIFO transfers (R246, R250, R253) -/

/-- R314: the λ numbers of the elements that begin in granule `g` of `total` packed elements. -/
def granuleElems (width total g : Nat) : List Nat :=
  let a := ceilDiv (2048 * g) width
  let b := min total (ceilDiv (2048 * (g + 1)) width)
  (List.range (b - a)).map (fun i => a + i)

/-- Granules of packed elements. -/
def granules (width total : Nat) : Nat := ceilDiv (width * total) 2048

/-- R425, R428: the memory-plan entry of the buffer that holds a context's address. -/
def State.bufferAt (s : State) (va : Nat) : Option (List Word) :=
  s.bufferList.find? (fun b =>
    let base := (wd b 1).toNat
    base ≤ va && va < base + (wd b 3).toNat * wfld b 4 63 32)

/-- R425: a parameter shard's slot `k` is instance `k` of its buffer: the address of its header, and by how much the
source view moves. -/
def State.slotOf (s : State) (va k : Nat) : Nat × Int :=
  match s.bufferAt va with
  | none => (va, 0)
  | some b =>
    let pitch := (wd b 3).toNat
    let inst := (va - (wd b 1).toNat) / pitch
    ((wd b 1).toNat + k * pitch, ((k : Int) - inst) * pitch)

/-- A view moved by whole bytes. -/
def View.moved (v : View) (d : Int) : View :=
  { v with base := ((v.base : Int) + d).toNat, scale := if v.fmt.isMx then ((v.scale : Int) + d).toNat else v.scale }

/-- R427: the version that a descriptor expects in the step that runs. -/
def State.expected (s : State) (ws : List Word) : Word := wd ws 4 + (s.reg bTell - wd s.jobSec 0)

/-- Destination sizes of a load, store or hoist (R250). -/
def loadSizes (ws : List Word) (sizes : List Nat) : List Nat := if slices ws then sizes ++ [7] else sizes

/-- The source view of a descriptor, moved to the slot in use (R428). -/
def State.srcView (s : State) (i : AeItem) : View :=
  let v := ((s.view i.plan (aSrc i.words)).sized i.sizes).edged i.edge
  if aVchk i.words then v.moved (s.slotOf v.base i.slot).2 else v

/-- The unit of a load, store or hoist that holds the given destination elements. -/
def State.loadXfer (s : State) (i : AeItem) (g : Nat) (ls : List Nat) : Xfer :=
  let ds := loadSizes i.words i.sizes
  { ws := i.words, cuts := i.cuts, dst := (s.view i.plan (aDst i.words)).sized ds, sizes := ds, src := some (s.srcView i)
    ssizes := i.sizes, idxs := ls.map (indexOf ds), srcOf := fun x => x, gran := g }

/-- How many granules a load, store or hoist moves. -/
def State.loadUnits (s : State) (i : AeItem) : Nat :=
  granules (s.view i.plan (aDst i.words)).fmt.width (volume (loadSizes i.words i.sizes))

/-- One granule of a LOAD or STORE. -/
def State.loadUnit (s : State) (n q : Nat) (i : AeItem) : AeStep :=
  let w := (s.view i.plan (aDst i.words)).fmt.width
  s.moveXfer n q i (s.loadXfer i i.next (granuleElems w (volume (loadSizes i.words i.sizes)) i.next))

/-- R253, R314: the source bytes of an element: its own, its scale's. -/
def View.elemPieces (v : View) (own scale : Bool) (x : List Nat) : List (Nat × Nat) :=
  match v.coords x with
  | none => []
  | some c =>
    (if own then cutRuns (runsOf (putBits [] (v.bitAddr c).toNat v.fmt.width 0 false)) else []) ++
    (if scale && v.fmt.isMx then [(v.scaleAddr c, 1)] else [])

/-- R253, R314: the source addresses behind 256-B granule `k` of the vectors of one group: an element stands in the granule of
its lane, in both vectors of an FP64 pair; the scales of an MX copy stand in the first granule of the scale vector. -/
def fillReads (g : Fmt) (src : View) (idxs : List (List Nat)) (k : Nat) : List (Nat × Bool) :=
  let copied := g.isMx && src.fmt.isMx
  let here := (idxs.zipIdx.filter (fun e => laneOfElem g e.2 / 64 == k % 4)).map (fun e => e.1)
  let ps := if k < 4 ∨ g = .fp64 then here.flatMap (src.elemPieces true (!copied))
    else if copied && k == 4 then idxs.flatMap (src.elemPieces false true) else []
  ps.map (fun p => (p.1, false))

/-- R247, R314: the first granule of a group whose page stops it, counted over the vectors of the transfer, and what stops it. -/
def State.fillStop (s : State) (n c next : Nat) (g : Fmt) (src : View) (idxs : List (List Nat)) (b : Nat × Bool × Xlat) :
    Nat × (Nat × Bool × Xlat) :=
  let r := ((List.range 8).findSome? (fun k => (s.xlateAll n c (fillReads g src idxs k)).map (fun x => (k, x)))).getD (0, b)
  (4 * groupVectors g * next + r.1, r.2)

/-- R314: the granule that a descriptor reports for an access at an address that stops it: a furl's granules are of 4 KiB; in a
group of a FILL_FIFO it is the first that reads the address's page; an index or an element is as it is. -/
def State.granuleOf (s : State) (i : AeItem) (va : Nat) : Nat :=
  match aOp i.words with
  | 0x22 =>
    let g := aDfmt i.words
    let idxs := ((List.range (min (elemCount g) (volume i.sizes - elemCount g * i.next))).map (fun j => elemCount g * i.next + j)).map
      (indexOf i.sizes)
    let hit := fun (k : Nat) => (fillReads g (s.srcView i) idxs k).any (fun a => a.1 / 65536 == va / 65536)
    4 * groupVectors g * i.next + ((List.range 8).find? hit).getD 0
  | 0x2A | 0x2B | 0x2C | 0x2D => 16 * i.next
  | _ => i.next

/-- R253: one group of a FILL_FIFO. -/
def State.fillUnit (s : State) (n q : Nat) (i : AeItem) : AeStep :=
  let g := aDfmt i.words
  let k := elemCount g
  let src := s.srcView i
  let total := volume i.sizes
  let ls := (List.range (min k (total - k * i.next))).map (fun j => k * i.next + j)
  let idxs := ls.map (indexOf i.sizes)
  let ps := if src.space = 0 then cutRuns (runsOf (src.reads idxs)) else []
  let room := (s.fifo n (aSubop i.words)).length + groupVectors g ≤ 8
  match s.xlateAll n i.ctx (ps.map (fun p => (p.1, false))) with
  | some b =>
    let x := s.fillStop n i.ctx i.next g src idxs b
    let r := s.aeBlock n q i x.1 x.2
    (false, r.1, r.2)
  | none =>
    if !room then (false, { i with phase := .waiting }, s)
    else
      let c := s.takeCredit i 0 (piecesLen ps)
      if !c.1 then (false, c.2.1, c.2.2)
      else
        let f := c.2.2.aeFetch n q c.2.1 ps
        match f.1 with
        | none => (false, f.2.1, f.2.2)
        | some data =>
          let i := f.2.1
          let e := if src.space = 0 then (idxs.map (src.elemFrom data), f.2.2) else f.2.2.csElems n src idxs
          let gs := if g.isMx then
              (cutInto (List.replicate (ceilDiv e.1.length 32) 32) e.1).map (fun b =>
                convGroup i.words [] (b.map (fun _ => [])) b)
            else e.1.map (fun x => convGroup i.words [] [[]] [x])
          let es := if g.isMx && !(quantises i.words) then e.1
            else gs.flatMap (fun x => x.puts.map (fun p => p.2))
          let scales := gs.map (fun x => x.scale)
          let t := gs.foldl (fun t x => t.add x.tally) {}
          let t := if aeSite i.words = none then {} else t
          (true, i.advance, e.2.pushFill n (aSubop i.words) g t (groupLanes g es scales))

/-- R253: one granule of a DRAIN_FIFO; it pops vectors until its elements are there. -/
def State.drainUnit (s : State) (n q : Nat) (i : AeItem) : AeStep :=
  let dst := (s.view i.plan (aDst i.words)).sized i.sizes
  let total := volume i.sizes
  let f := aSfmt i.words
  let ls := granuleElems dst.fmt.width total i.next
  let u : Xfer := { ws := i.words, dst := dst, sizes := i.sizes, src := none, ssizes := i.sizes
                    idxs := ls.map (indexOf i.sizes), srcOf := fun x => x, gran := i.next }
  let last := (u.sources.map (linear i.sizes)).foldl max 0
  let need := (last / elemCount f + 1) * groupVectors f
  let lacking := need - i.buf.length
  let vs := s.fifo n (aSubop i.words)
  let s := if lacking = 0 then s else s.setFifo n (aSubop i.words) (vs.drop lacking)
  let i := { i with buf := i.buf ++ vs.take lacking }
  if i.buf.length < need then (false, { i with phase := .waiting }, s)
  else s.moveXfer n q i { u with fifo := fifoElems f (i.buf.length + 1) i.buf }

/-! ## Gathers and atomics (R259, R260, R293) -/

/-- An element of the index tensor, from memory or the core store. -/
def State.indexElem (s : State) (n q : Nat) (i : AeItem) (k : Nat) : Option (Int × Bool) × AeItem × State :=
  let v := s.view i.plan (aIdx i.words)
  let x := indexOf v.plan k
  if v.space = 0 then
    let ps := cutRuns (runsOf (v.reads [x]))
    match s.xlateAll n i.ctx (ps.map (fun p => (p.1, false))) with
    | some b => let r := s.aeBlock n q i i.next b; (none, r.1, r.2)
    | none =>
      let c := s.takeCredit i (1 + k % 32) (piecesLen ps)
      if !c.1 then (none, c.2.1, c.2.2)
      else
        let f := c.2.2.aeFetch n q c.2.1 ps
        match f.1 with
        | none => (none, f.2.1, f.2.2)
        | some data => let e := v.elemFrom data x; (some (signed 32 e.code, e.poison), f.2.1, f.2.2)
  else
    let e := s.csElem n v x
    (some (signed 32 e.1.code, e.1.poison), i, e.2)

/-- R292, R293: the nearest row of a source of `rows` rows. -/
def clampRow (rows : Nat) (x : Int) : Nat := (max 0 (min x ((rows : Int) - 1))).toNat

/-- R233, R259: a gather read enters the merger of its stack, one request of at most 256 B. A window of 1,024 requests
issues. -/
def State.mergeIn (s : State) (pa len : Nat) : State :=
  let k := paStack pa
  let w := (s.stack k).window
  let req := (w.foldl (fun m x => max m x.1) 0) + 1
  let cws := (List.range ((pa + len - 1) / 64 + 1 - pa / 64)).map (fun j => pa / 64 + j)
  let s := (s.modStack k (fun x => { x with window := w ++ cws.map (fun cw => (req, cw)) })).count (bStack k + 0x130) 1
  if 1024 ≤ req then s.issueWindow k else s

/-- R259: the requests of a row that was read: pieces of at most 256 B, marked for the merger. -/
def State.markRow (s : State) (n c : Nat) (ps : List (Nat × Nat)) : State :=
  ps.foldl (fun t p =>
    match t.translate n c p.1 false with
    | .stack pa _ _ => (List.range (ceilDiv p.2 256)).foldl (fun u j =>
        u.mergeIn (pa + 256 * j) (max 32 (min 256 (p.2 - 256 * j)))) t
    | _ => t) s

/-- The codewords of some pieces of virtual memory that stand in stacks. -/
def State.codesOf (s : State) (n c : Nat) (ps : List (Nat × Nat)) : List Nat :=
  ps.flatMap (fun p => match s.translate n c p.1 false with
    | .stack pa _ _ => (List.range ((pa + p.2 - 1) / 64 + 1 - pa / 64)).map (fun j => pa / 64 + j)
    | _ => [])

/-- Elements of the index tensor, each with its number; `none` while one of them waits. -/
def State.indexElems (s : State) (n q : Nat) (i : AeItem) : List Nat → Option (List (Nat × Int × Bool)) × AeItem × State
  | [] => (some [], i, s)
  | k :: r =>
    let x := s.indexElem n q i k
    match x.1 with
    | none => (none, x.2.1, x.2.2)
    | some e =>
      let t := x.2.2.indexElems n q x.2.1 r
      (t.1.map (fun l => (k, e) :: l), t.2)

/-- R259, R289: the rows of a GATHER that convert together with row `k` of `count`: those of its block, where the destination's
blocks run along the rows. -/
def gatherRows (i : AeItem) (dst : View) (count k : Nat) : List Nat :=
  if quantises i.words ∧ dst.caxis + 1 = i.sizes.length then
    (List.range (min 32 (count - k / 32 * 32))).map (fun j => k / 32 * 32 + j)
  else [k]

/-- R259: one row of a GATHER. -/
def State.gatherUnit (s : State) (n q : Nat) (i : AeItem) : AeStep :=
  let count := volume (s.view i.plan (aIdx i.words)).plan
  let x := s.indexElems n q i (gatherRows i (s.view i.plan (aDst i.words)) count i.next)
  match x.1 with
  | none => (false, x.2.1, x.2.2)
  | some ks =>
    let i := x.2.1
    let s := x.2.2
    if ks.any (fun e => e.2.2) then (false, i, s.ctxFault i.ctx 0x06)
    else
      let src := s.srcView i
      let inner := i.sizes.take (i.sizes.length - 1)
      let rows := (lastOf i.sizes).getD 0
      let ds := inner ++ [count]
      let row := fun (j : Nat) => clampRow rows (kget (0, false) ks j).1
      let u : Xfer :=
        { ws := i.words, dst := (s.view i.plan (aDst i.words)).sized ds, sizes := ds, src := some src
          ssizes := inner ++ [(ks.foldl (fun m e => max m (e.1 + 1)) 0)]
          idxs := (List.range (volume inner)).map (fun l => indexOf inner l ++ [i.next])
          srcOf := fun z => z.take (z.length - 1) ++ [row ((lastOf z).getD 0)], gran := i.next, pad := rows == 0 }
      let r := (s.joinReads (s.codesOf n i.ctx u.srcPieces)).moveXfer n q i u
      let t := r.2.2.partReads
      (r.1, r.2.1, if r.1 then t.markRow n i.ctx u.srcPieces else t)

/-- R260: the result of an atomic operation on 32-bit patterns. -/
def atomicOp (op a b : Nat) : Nat :=
  match op with
  | 0 => (a + b) % 2 ^ 32
  | 1 => if signed 32 a ≤ signed 32 b then a else b
  | 2 => if signed 32 a ≤ signed 32 b then b else a
  | 3 => a &&& b
  | 4 => a ||| b
  | _ => a ^^^ b

/-- R260: one element of an ATOMIC, executed in the slice that owns its line. -/
def State.atomicUnit (s : State) (n q : Nat) (i : AeItem) : AeStep :=
  let x := s.indexElem n q i i.next
  match x.1 with
  | none => (false, x.2.1, x.2.2)
  | some (k, bad) =>
    let i := x.2.1
    let src := (s.view i.plan (aSrc i.words)).sized i.sizes
    let e := x.2.2.csElem n src (indexOf i.sizes i.next)
    let s := e.2
    let dst := s.view i.plan (aDst i.words)
    let va := (dst.bitAddr (indexOf dst.plan (clampRow (volume dst.plan) k))).toNat / 8
    if bad then (false, i, s.ctxFault i.ctx 0x06)
    else
      match s.translate n i.ctx va true with
      | .host _ _ => (false, i, s.ctxFault i.ctx 0x0A)
      | .stack pa policy _ =>
        let k := s.takeCredit i 0 8
        if !k.1 then (false, k.2.1, k.2.2)
        else
        let r := k.2.2.readPa i.ctx policy pa 4
        let v := atomicOp (aSubop i.words) (ofLeBytes (r.1.map (fun b => b.1))) e.1.code
        let p := e.1.poison || r.1.any (fun b => b.2)
        let s := (r.2.count (bAe n + 0x108) 4).storePa n i.ctx policy pa ((leBytes 4 v).map (fun b => (b, p)))
        (true, i.advance, s)
      | y => let r := s.aeBlock n q i i.next (va, true, y); (false, r.1, r.2)

/-! ## Furl (R235, R276–R279) -/

/-- The shape of a view's scale array for run-time sizes (R289). -/
def scaleSizes (v : View) (sizes : List Nat) : List Nat :=
  sizes.zipIdx.map (fun x => if x.2 = v.caxis then ceilDiv x.1 32 else x.1)

/-- R276: bytes of a view as a furl carries them: packed elements in ascending λ, then, for an MX format, its scales. -/
def streamLen (v : View) (sizes : List Nat) : Nat :=
  ceilDiv (volume sizes * v.fmt.width) 8 + (if v.fmt.isMx then volume (scaleSizes v sizes) else 0)

/-- Address of the scale with index vector `j` of the scale array. -/
def View.scaleByte (v : View) (j : List Nat) : Nat := v.scale + linear (scaleSizes v v.shape) j

/-- Elements whose bits lie in bytes [a, b) of the packed elements. -/
def furlElems (w total a b : Nat) : List Nat :=
  let e0 := 8 * a / w
  (List.range (min total (ceilDiv (8 * b) w) - e0)).map (fun k => e0 + k)

/-- R276: bytes [a, b) of the stream of a core-store view. -/
def State.readStream (s : State) (n : Nat) (v : View) (sizes : List Nat) (a b : Nat) : List PByte × State :=
  let w := v.fmt.width
  let total := volume sizes
  let head := ceilDiv (total * w) 8
  let es := furlElems w total a (min b head)
  let r := s.csElems n v (es.map (indexOf sizes))
  let pairs := List.zip es r.1
  let body := (List.range (min b head - a)).map (fun k =>
    let bit := 8 * (a + k)
    pairs.foldl (fun (x : PByte) p =>
      let lo := p.1 * w
      if lo < bit + 8 ∧ bit < lo + w then
        let part := if lo ≤ bit then p.2.code >>> (bit - lo) else p.2.code <<< (lo - bit)
        (x.1 ||| BitVec.ofNat 8 (part % 256), x.2 || p.2.poison)
      else x) (0, false))
  let sc := (List.range (b - max a head)).map (fun k => max a head + k - head)
  let t := sc.foldl (fun (x : List PByte × State) j =>
    let y := x.2.csRead n (v.scaleByte (indexOf (scaleSizes v sizes) j)) 1
    (x.1 ++ y.1, y.2)) ([], r.2)
  (body ++ t.1, t.2)

/-- R276: the core-store bits that bytes [a, a + |bs|) of the stream occupy. -/
def streamBits (v : View) (sizes : List Nat) (a : Nat) (bs : List PByte) : BitWrites :=
  let w := v.fmt.width
  let total := volume sizes
  let head := ceilDiv (total * w) 8
  let b := a + bs.length
  let x := ofLeBytes (bs.map (fun y => y.1))
  let m := (furlElems w total a (min b head)).foldl (fun m e =>
    let lo := max (8 * a) (w * e)
    let hi := min (8 * b) (w * (e + 1))
    let bad := (List.range (ceilDiv hi 8 - lo / 8)).any (fun k => (bs.getD (lo / 8 + k - a) (0, false)).2)
    putBits m ((v.bitAddr (indexOf sizes e)).toNat + (lo - w * e)) (hi - lo)
      ((x >>> (lo - 8 * a)) % 2 ^ (hi - lo)) bad) []
  ((List.range (b - max a head)).map (fun k => max a head + k)).foldl (fun m k =>
    let y := bs.getD (k - a) (0, false)
    putBits m (8 * v.scaleByte (indexOf (scaleSizes v sizes) (k - head))) 8 y.1.toNat y.2) m

/-- R235, R277: a granule's place in a furl region: whether it is packed, the granule's number, the address of its size byte
and of its check word. The tables of a part follow it: one byte where it is packed, then four bytes, per granule. None where no
furl region holds the address. -/
def State.furlRegion (s : State) (pa : Nat) : Option (Bool × Nat × Nat × Nat) :=
  match s.image with
  | none => none
  | some g =>
    (g.placed.filter (fun p => wfld p.words 0 47 44 == 1)).findSome? (fun p =>
      (p.pieces.find? (fun x => x.1 ≤ pa && pa < x.1 + x.2)).map (fun x =>
        let k := (pa - x.1) / 4096
        let packed := bitAt (wd p.words 0) 26
        (packed, pa / 4096, x.1 + x.2 + k, x.1 + x.2 + (if packed then x.2 / 4096 else 0) + 4 * k)))

/-- The same for a packed region only. -/
def State.furlPlace (s : State) (pa : Nat) : Option (Nat × Nat × Nat) :=
  match s.furlRegion pa with
  | some (true, g, z, c) => some (g, z, c)
  | _ => none

/-- R277: writes the check word of a granule's stored bytes. -/
def State.putCheck (s : State) (at_ v : Nat) : State := s.writePa 0 2 at_ (plain (leBytes 4 v))

/-- R277: is the check word at an address that of some bytes. -/
def State.checkHolds (s : State) (at_ v : Nat) : Bool × State :=
  let c := s.readPa 0 2 at_ 4
  (ofLeBytes (c.1.map (fun b => b.1)) == v && !c.1.any (fun b => b.2), c.2)

/-- Translates the granule of a furl region, or says what stops it. -/
def State.furlPa (s : State) (n c va : Nat) (write : Bool) : Sum Nat (Nat × Bool × Xlat) :=
  match s.translate n c va write with
  | .stack pa _ _ => .inl pa
  | y => .inr (va, write, y)

/-- Counts one granule of a furl in its completion record. -/
def AeItem.moved (i : AeItem) (packed : Bool) (bytes : Nat) : AeItem :=
  { i.advance with packed := i.packed + (if packed then 1 else 0), stored := i.stored + bytes }

/-- R276: one granule of a FURL. -/
def State.furlUnit (s : State) (n q : Nat) (i : AeItem) : AeStep :=
  let src := (s.view i.plan (aSrc i.words)).sized i.sizes
  let len := streamLen src i.sizes
  let va := (s.view i.plan (aDst i.words)).base + 4096 * i.next
  match s.furlPa n i.ctx va true with
  | .inr b => let r := s.aeBlock n q i (16 * i.next) b; (false, r.1, r.2)
  | .inl pa =>
    let k := s.takeCredit i 0 4096
    if !k.1 then (false, k.2.1, k.2.2)
    else
    let r := k.2.2.readStream n src i.sizes (4096 * i.next) (min len (4096 * (i.next + 1)))
    let bs := (List.range 4096).map (fun k => r.1.getD k (0, false))
    match r.2.furlPlace pa with
    | some p =>
      let f := r.2.furlPack p.1 p.2.1 bs
      (true, i.moved (f.1 != 0) (if f.1 = 0 then 4096 else 256 * f.1), f.2.count (bAe n + 0x108) 4096)
    | none => (true, i.moved false 4096, (r.2.count (bAe n + 0x108) 4096).storePa n i.ctx 2 pa bs)

/-- R276, R236: one granule of an UNFURL. -/
def State.unfurlUnit (s : State) (n q : Nat) (i : AeItem) : AeStep :=
  let dst := (s.view i.plan (aDst i.words)).sized i.sizes
  let len := streamLen dst i.sizes
  let a := 4096 * i.next
  let m0 := streamBits dst i.sizes a (List.replicate (min 4096 (len - a)) (0, false))
  let va := (s.view i.plan (aSrc i.words)).base + a
  match s.furlPa n i.ctx va false with
  | .inr b => let r := s.aeBlock n q i (16 * i.next) b; (false, r.1, r.2)
  | .inl pa =>
    if s.aeFenced n m0 then (false, { i with phase := .fenced }, s)
    else
      let k := s.takeCredit i 0 4096
      if !k.1 then (false, k.2.1, k.2.2)
      else
      let s := k.2.2.count (bAe n + 0x100) 4096
      let f := match s.furlPlace pa with
        | some p => s.furlUnpack p.1 p.2.1
        | none => s.readPa i.ctx 2 pa 4096
      (true, i.moved false 4096, f.2.csPut n (streamBits dst i.sizes a (f.1.take (len - a))))

/-- R277: the check word of stored bytes. -/
def furlCrc (bs : List Byte) (poison : Bool) : Nat :=
  let c := (crc32c bs).toNat
  if poison then c ^^^ 0xFFFFFFFF else c

/-- R277: one granule of a DEEP_FURL: its stored bytes leave for the host slot and its check word is written. -/
def State.deepFurlUnit (s : State) (n q : Nat) (i : AeItem) : AeStep :=
  let va := (s.view i.plan (aSrc i.words)).base + 4096 * i.next
  let out := (s.view i.plan (aDst i.words)).base + 4096 * i.next
  match s.translate n i.ctx out true with
  | .stack _ _ _ => (false, i, s.ctxFault i.ctx 0x0A)
  | .host _ _ =>
    match s.furlPa n i.ctx va false with
    | .inr b => let r := s.aeBlock n q i (16 * i.next) b; (false, r.1, r.2)
    | .inl pa =>
      let s := s.count (bAe n + 0x100) 4096
      let x := match s.furlPlace pa with
        | some p =>
          let r := s.rawRead p.1 p.2.1
          let bad := r.1.2.1 || r.1.2.2.any (fun (b : PByte) => b.2)
          let bs := r.1.2.2.map (fun (b : PByte) => b.1)
          (r.1.1 != 0, bs, r.2.putCheck p.2.2 (furlCrc bs bad))
        | none =>
          let r := s.readPa i.ctx 2 pa 4096
          let bs := r.1.map (fun (b : PByte) => b.1)
          (false, bs, match r.2.furlRegion pa with
            | some (_, _, _, c) => r.2.putCheck c (furlCrc bs (r.1.any (fun (b : PByte) => b.2)))
            | none => r.2)
      let i := { i with packed := i.packed + (if x.1 then 1 else 0), stored := i.stored + x.2.1.length,
                        wrote := true, wait := 0, phase := .waiting }
      let r := x.2.2.pumpWrites n q i [(out, plain x.2.1)]
      (false, r.1, r.2)
  | y => let r := s.aeBlock n q i (16 * i.next) (out, true, y); (false, r.1, r.2)

/-- R277: one granule of a DEEP_UNFURL: checked, then written back as it was, or as poison over its slot. -/
def State.deepUnfurlUnit (s : State) (n q : Nat) (i : AeItem) : AeStep :=
  let va := (s.view i.plan (aDst i.words)).base + 4096 * i.next
  let src := (s.view i.plan (aSrc i.words)).base + 4096 * i.next
  match s.furlPa n i.ctx va true with
  | .inr b => let r := s.aeBlock n q i (16 * i.next) b; (false, r.1, r.2)
  | .inl pa =>
    match s.xlateAll n i.ctx [(src, false)] with
    | some b => let r := s.aeBlock n q i (16 * i.next) b; (false, r.1, r.2)
    | none =>
      match s.furlPlace pa with
      | none =>
        let f := s.aeFetch n q i [(src, 4096)]
        match f.1 with
        | none => (false, f.2.1, f.2.2)
        | some data =>
          let bs : List PByte := data.bytes src 4096
          let s := f.2.2.count (bAe n + 0x108) 4096
          let c := match s.furlRegion pa with
            | some (_, _, _, c) => s.checkHolds c (furlCrc (bs.map (fun (b : PByte) => b.1)) false)
            | none => (true, s)
          if c.1 then (true, f.2.1.moved false 4096, c.2.storePa n i.ctx 2 pa bs)
          else
            let j := f.2.1.moved false 4096
            (true, { j with poisoned := j.poisoned + 1 },
              (c.2.storePa n i.ctx 2 pa (List.replicate 4096 (0, true))).flag (bAe n + 0x18) 4)
      | some p =>
        let z := s.readSize p.2.1
        let len := if z.1.1 = 0 then 4096 else 256 * z.1.1
        let f := z.2.aeFetch n q i [(src, len)]
        match f.1 with
        | none => (false, f.2.1, f.2.2)
        | some data =>
          let bs : List PByte := data.bytes src len
          let c := (f.2.2.count (bAe n + 0x108) len).checkHolds p.2.2 (furlCrc (bs.map (fun b => b.1)) false)
          if c.1 && !z.1.2 then (true, f.2.1.moved (z.1.1 != 0) len, c.2.rawWrite p.1 p.2.1 z.1.1 bs)
          else
            let s := c.2.rawWrite p.1 p.2.1 0 (List.replicate 4096 (0, true))
            let i := f.2.1.moved (z.1.1 != 0) len
            (true, { i with poisoned := i.poisoned + 1 }, s.flag (bAe n + 0x18) 4)

/-- How many granules a furl opcode moves. -/
def State.furlUnits (s : State) (i : AeItem) : Nat :=
  let v := if aOp i.words = 0x2B then s.view i.plan (aDst i.words) else s.view i.plan (aSrc i.words)
  ceilDiv (streamLen v i.sizes) 4096

/-- R279: the completion record. -/
def recordWords (i : AeItem) (units : Nat) : List Word :=
  let status := if 0 < i.poisoned then 2 else if i.resumed then 1 else 0
  [packWord [(32, units % 2 ^ 32), (0, i.packed % 2 ^ 32)], BitVec.ofNat 64 (4096 * units),
   BitVec.ofNat 64 i.stored, packWord [(56, status), (0, i.poisoned % 2 ^ 32)]]

/-- R279: writes the completion record. -/
def State.recordUnit (s : State) (n q : Nat) (i : AeItem) : AeStep :=
  let m := (recordWords i i.next).zipIdx.foldl (fun m w => putBits m (8 * (aRecord i.words + 8 * w.2)) 64 w.1.toNat false) []
  match s.xlateAll n i.ctx [(aRecord i.words, true)] with
  | some b => let r := s.aeBlock n q i (16 * i.next) b; (false, r.1, r.2)
  | none =>
    let k := s.takeCredit i 0 32
    if k.1 then k.2.2.aeStore n q k.2.1 m else (false, k.2.1, k.2.2)

/-! ## Remote reads (R280, R281) -/

/-- R280: remote reads of the module that wait for their response. -/
def State.remoteOut (s : State) : Nat :=
  (s.cores.flatMap (fun p => p.2.queues.flatMap (fun q => q.2.filter (fun i =>
    aOp i.words == 0x2E && i.vstage == 1)))).length

/-- R281: do the image's routes reach a module: a torus stay in the first dimension that differs, or a collective route to it. -/
def State.imageReaches (s : State) (m : Nat) : Bool :=
  match (List.range 4).find? (fun d => s.coord s.moduleNo d ≠ s.coord m d) with
  | none => false
  | some d => decide (m < s.modules) &&
      (List.range 12).any (fun t => s.inRing d t || (s.stayUse t == 3 && s.stayPeer t == m))

/-- R280, R382: a request for an exported range leaves for a module on VC3. -/
def State.askRemote (s : State) (m : Nat) (v : View) (sizes : List Nat) : State :=
  (s.send { kind := .remoteRequest, dest := m,
            words := [BitVec.ofNat 64 v.base, BitVec.ofNat 64 (streamLen v sizes)] }).freeMsg m 3

/-- R280, R281: asks another module for an exported range. -/
def State.remoteUnit (s : State) (n : Nat) (i : AeItem) : AeStep :=
  let m := wfld i.words 6 63 48
  let src := s.view i.plan (aSrc i.words)
  if i.vstage = 1 then (false, { i with phase := .waiting }, s)
  else if i.vstage = 2 then
    let dst := (s.view i.plan (aDst i.words)).sized i.sizes
    let w := streamBits dst i.sizes 0 ((Fetched.bytes i.host 0 (streamLen dst i.sizes)))
    if s.aeFenced n w then (false, { i with phase := .fenced }, s)
    else (true, i.advance, (s.csPut n w).count (bAe n + 0x158) 1)
  else if !s.imageReaches m then (false, i, (s.flag (bAe n + 0x18) 5).ctxFault i.ctx 0x0A)
  else if (s.route m 12 0).isNone then (false, i, s.ctxFault i.ctx 0x11)
  else if 16 ≤ s.remoteOut then (false, { i with phase := .waiting }, s)
  else (false, { i with phase := .waiting, vstage := 1 }, s.askRemote m src i.sizes)

/-! ## Hoists (R265–R273) -/

/-- R269: the slice pair of a core's home stack. -/
def homeStack (n : Nat) : Nat := n / 16 / 4 * 4 + n % 16 / 4

/-- R269: the slice whose entry a hoist takes: of the pair's two the one of its identifier's parity, while one of its 64
entries is free, else the other. -/
def watchSlice (used : List Hoist) (pair id : Nat) : Nat :=
  let own := 2 * pair + id % 2
  if (used.filter (fun h => h.slice == own)).length < 64 then own else 2 * pair + (1 - id % 2)

/-- R269, R271, R274: takes a watch entry in a pair, and answers its slice: the entry of the oldest hoist when all 128 are in
use, which then can no longer be confirmed. -/
def State.takeWatch (s : State) (pair id : Nat) : Nat × State :=
  let used := s.hoists.filter (fun h => h.watched && h.pair == pair)
  let s := s.count (bHoist + 0x100) 1
  let old := (used.foldl (fun m h => min m h.order) s.hoistSeq)
  let full := 128 ≤ used.length
  let slice := if full then ((used.find? (fun h => h.order == old)).map (fun h => h.slice)).getD 0 else watchSlice used pair id
  let s :=
    if full then
      let s := { s with hoists := s.hoists.map (fun (h : Hoist) =>
        if h.order = old then { h with usable := false, watched := false } else h) }
      (s.count (bHoist + 0x118) 1).flag (bHoist + 0x40) 1
    else s
  let r := bHoist + 8 * pair
  (slice, s.setRfld r 15 8 (max (s.rfld r 15 8) (min 128 (used.length + 1))))

/-- R268: a dropped hoist. -/
def State.dropHoist (s : State) (n : Nat) : State := (s.count (bAe n + 0x138) 1).flag (bAe n + 0x18) 2

/-- R268, R313: the host refuses a read of a hoist: the hoist is dropped. -/
def State.refuseHoist (s : State) (n order : Nat) : State := (s.endHoists (fun h => h.order == order)).dropHoist n

/-- The words of a descriptor with its source and destination replaced (R273). -/
def withViews (ws : List Word) (src dst : Nat) : List Word :=
  splice ws 1 [setFld (setFld (wd ws 1) 63 48 src) 47 32 dst]

/-- R313: asks the host for what a hoist still needs. -/
def State.pumpHoist (s : State) (h : Hoist) : State :=
  if h.need = [] then s
  else
    let r := s.pumpReads h.core h.ctx 8 h.order h.need
    { r.2 with hoists := r.2.hoists.map (fun x => if x.order = h.order then
        { x with need := r.1.1, wait := x.wait + r.1.2.1, usable := x.usable && !r.1.2.2 } else x) }

/-- R265, R268–R271: issues one hoist: a watch entry, then the reads of its source; a miss drops it. -/
def State.startHoist (s : State) (n : Nat) (i : AeItem) (src dst id : Nat) : State :=
  let ws := withViews i.words src dst
  let slot := if aVchk ws then (s.expected ws).toNat % 2 else 0
  let i := { i with words := ws, slot := slot }
  let total := volume (loadSizes ws i.sizes)
  let u := s.loadXfer i 0 (List.range total)
  let tag := if aVchk ws then [((s.slotOf (s.view i.plan src).base slot).1, 8)] else []
  let ps := u.srcPieces ++ tag
  let acc := u.accesses ++ tag.map (fun p => (p.1, false))
  let s := s.count (bAe n + 0x120) 1
  let pas := ps.filterMap (fun p => match s.translate n i.ctx p.1 false with
    | .stack pa _ _ => some (pa, pa + p.2) | _ => none)
  let pair := match pas with
    | x :: _ => paStack x.1
    | [] => homeStack n
  let w := s.takeWatch pair id
  let s := w.2
  match s.xlateAll n i.ctx acc with
  | some b => (s.noteMiss n i.ctx b.1).dropHoist n
  | none =>
    let hosts := s.hostPieces n i.ctx ps false
    let f := s.fetchPieces n i.ctx ps
    let h : Hoist :=
      { core := n, ctx := i.ctx, id := id, num := i.num, pair := pair, slice := w.1
        lo := (pas.map (fun x => x.1)).foldl min (2 ^ 39), hi := (pas.map (fun x => x.2)).foldl max 0
        words := ws, sizes := i.sizes, edge := i.edge, src := src, dst := dst, plan := i.plan, order := f.2.hoistSeq
        bytes := f.1, need := hosts }
    ({ f.2 with hoistSeq := f.2.hoistSeq + 1, hoists := f.2.hoists ++ [h] }).pumpHoist h

/-- Puts an expert in its place among experts by falling count, ties to the lower index. -/
def insertExpert (x : Nat × Int) : List (Nat × Int) → List (Nat × Int)
  | [] => [x]
  | y :: r => if y.2 < x.2 then x :: y :: r else y :: insertExpert x r

/-- R273: the experts with the highest counts, ties to the lower index. -/
def topExperts (counts : List Int) (k : Nat) : List Nat :=
  ((counts.zipIdx.foldl (fun l c => insertExpert (c.2, c.1) l) []).take k).map (fun x => x.1)

/-- R273: reads the count table of an expert hoist; none on a miss. -/
def State.expertCounts (s : State) (n : Nat) (i : AeItem) : Option (List Int) × State :=
  let v := s.view i.plan (aIdx i.words)
  let is := (List.range (volume v.plan)).map (indexOf v.plan)
  if v.space = 0 then
    let ps := cutRuns (runsOf (v.reads is))
    match s.xlateAll n i.ctx (ps.map (fun p => (p.1, false))) with
    | some b => (none, s.noteMiss n i.ctx b.1)
    | none =>
      if s.hostPieces n i.ctx ps false ≠ [] then (none, s)
      else
      let f := s.fetchPieces n i.ctx ps
      (some (is.map (fun x => signed 32 (v.elemFrom f.1 x).code)), f.2)
  else
    let e := s.csElems n v is
    (some (e.1.map (fun x => signed 32 x.code)), e.2)

/-- Hoists of a descriptor that have not landed. -/
def State.flying (s : State) (n num : Nat) : List Hoist :=
  s.hoists.filter (fun h => h.core == n && h.num == num && !h.landed)

/-- A HOIST or HOIST_EXPERT: it issues its hoists, then waits until each has landed. -/
def State.hoistUnit (s : State) (n : Nat) (i : AeItem) : AeStep :=
  if i.vstage = 1 then
    if s.flying n i.num = [] then (true, i.advance, s)
    else (false, { i with phase := .waiting }, (s.flying n i.num).foldl (fun t h => t.pumpHoist h) s)
  else
    let src := s.view i.plan (aSrc i.words)
    let bytes := volume i.sizes * src.fmt.width / 8
    let counts := s.view i.plan (aIdx i.words)
    let k := s.takeCredit i 0 (if aOp i.words = 0x28 then bytes
      else bytes * wfld i.words 6 47 32 + (if counts.space = 0 then 4 * volume counts.plan else 0))
    if !k.1 then (false, k.2.1, k.2.2)
    else
    let i := k.2.1
    let s := k.2.2
    let s :=
      if aOp i.words = 0x28 then s.startHoist n i (aSrc i.words) (aDst i.words) (aHoist i.words)
      else
        let c := s.expertCounts n i
        match c.1 with
        | none => c.2.dropHoist n
        | some cs => (topExperts cs (wfld i.words 6 47 32)).foldl (fun t e =>
            t.startHoist n i (aSrc i.words + e) (aDst i.words + e) (aHoist i.words + e)) c.2
    if s.flying n i.num = [] then (true, i.advance, s) else (false, { i with vstage := 1, phase := .waiting }, s)

/-- R266 condition 1: equal views, in the core store of the same core, sizes, formats, SAT and INT8 constants. -/
def State.sameLoad (s : State) (n : Nat) (i : AeItem) (h : Hoist) : Bool :=
  (h.core == n || (s.view h.plan h.dst).space == 0) && s.tensor i.plan (aSrc i.words) == s.tensor h.plan h.src && s.tensor i.plan (aDst i.words) == s.tensor h.plan h.dst &&
  i.sizes == h.sizes && i.edge == h.edge && wfld i.words 0 55 45 == wfld h.words 0 55 45 && wd i.words 2 == wd h.words 2 &&
  wfld i.words 3 63 56 == wfld h.words 3 63 56

/-- R266: a failed confirmation. -/
def State.hoistStale (s : State) (n : Nat) (i : AeItem) : AeItem × State :=
  ({ i with confirm := false, phase := .ready }, (s.count (bAe n + 0x130) 1).flag (bAe n + 0x18) 1)

/-- R266, R270: a LOAD tries to confirm its hoist; one still in progress it waits for. The entry is released whatever comes of
it; on success the unconfirmed lines become ordinary, else they are invalidated. -/
def State.confirmHoist (s : State) (n : Nat) (i : AeItem) : AeItem × State :=
  match s.hoists.find? (fun h => h.ctx = i.ctx ∧ h.id = aHoist i.words) with
  | none => s.hoistStale n i
  | some h =>
    if !h.landed then ({ i with confirm := true, phase := .waiting }, s)
    else
      let good := s.sameLoad n i h && h.usable && !h.stale && (!(aVchk i.words) || h.version == s.expected i.words)
      if good then
        let s := (s.adoptHoist i.ctx h.order).endHoists (fun x => x.order == h.order)
        ({ i with confirm := false, phase := .finished, started := true, tally := h.tally },
          (s.count (bAe n + 0x128) 1).count (bHoist + 0x108) 1)
      else (s.endHoists (fun x => x.order == h.order)).hoistStale n i

/-! ## Version checks (R427–R429) -/

/-- The key of a shard load in the step: context and buffer. -/
def State.shardKey (s : State) (i : AeItem) : Nat :=
  match s.bufferAt (s.view i.plan (aSrc i.words)).base with
  | some b => i.ctx * 65536 + wfld b 0 63 48
  | none => i.ctx * 65536 + 65535

/-- R428: a version-checked load that cannot go on. -/
def State.versionFault (s : State) (i : AeItem) : AeStep := (false, i, s.stepFault i.ctx i.again)

/-- R428, R447: a load repeated or taken from the other slot. -/
def State.refetch (s : State) : State := s.count (bTell + 0x120) 1

/-- R428, R429: a stage of a version-checked load: the header of the expected slot, of the other slot, or the header
once more after the data. -/
def State.versionStage (s : State) (n q : Nat) (i : AeItem) : AeStep :=
  let base := (s.view i.plan (aSrc i.words)).base
  let e := s.expected i.words
  let i := if i.vstage = 0 then
      { i with slot := e.toNat % 2, again := s.step.gathered.contains (s.shardKey i, e.toNat) } else i
  let at_ := (s.slotOf base i.slot).1
  match s.xlateAll n i.ctx [(at_, false)] with
  | some b => let r := s.aeBlock n q i i.next b; (false, r.1, r.2)
  | none =>
    let k := s.takeCredit i 1 256
    if !k.1 then (false, k.2.1, k.2.2)
    else
    let f := k.2.2.aeFetch n q k.2.1 [(at_, 256)]
    match f.1 with
    | none => (false, f.2.1, f.2.2)
    | some data =>
      let bs := data.bytes at_ 256
      let header := bs.map (fun b => b.1)
      let tag := BitVec.ofNat 64 (ofLeBytes (header.take 8))
      let i := { f.2.1 with host := [], paid := 0 }
      let s := f.2.2
      if bs.any (fun b => b.2) then (false, i, s.ctxFault i.ctx 0x06)
      else if i.vstage = 0 then
        if tag = e then (true, { i with vstage := 2, header := header }, s)
        else (true, { i with vstage := 1, slot := 1 - i.slot }, s)
      else if i.vstage = 1 then
        if tag = e then (true, { i with vstage := 2, header := header }, if i.again then s.refetch.flag (bTell + 0x20) 4 else s)
        else s.versionFault i
      else if header = i.header then (true, i.advance, s)
      else if 3 ≤ i.tries then s.versionFault i
      else (true, { i with next := 0, vstage := 0, tries := i.tries + 1, tally := {} }, s.refetch)

/-! ## Running the queues (R247) -/

/-- How many units a descriptor has. -/
def State.aeTotal (s : State) (i : AeItem) : Nat :=
  match aOp i.words with
  | 0x20 => s.loadUnits i + (if aVchk i.words then 1 else 0)
  | 0x21 => s.loadUnits i
  | 0x22 => ceilDiv (volume i.sizes) (elemCount (aDfmt i.words))
  | 0x23 => granules (s.view i.plan (aDst i.words)).fmt.width (volume i.sizes)
  | 0x24 => volume (s.view i.plan (aIdx i.words)).plan
  | 0x25 => volume i.sizes
  | 0x2A | 0x2B | 0x2C | 0x2D => s.furlUnits i + (if aRecord i.words = 0 then 0 else 1)
  | _ => 1

/-- The next unit of a descriptor. -/
def State.aeUnit (s : State) (n q : Nat) (i : AeItem) : AeStep :=
  match aOp i.words with
  | 0x20 =>
    if aVchk i.words && (i.vstage < 2 || i.next == s.loadUnits i) then s.versionStage n q i else s.loadUnit n q i
  | 0x21 => s.loadUnit n q i
  | 0x22 => s.fillUnit n q i
  | 0x23 => s.drainUnit n q i
  | 0x24 => s.gatherUnit n q i
  | 0x25 => s.atomicUnit n q i
  | 0x2A => if i.next = s.furlUnits i then s.recordUnit n q i else s.furlUnit n q i
  | 0x2B => if i.next = s.furlUnits i then s.recordUnit n q i else s.unfurlUnit n q i
  | 0x2C => if i.next = s.furlUnits i then s.recordUnit n q i else s.deepFurlUnit n q i
  | 0x2D => if i.next = s.furlUnits i then s.recordUnit n q i else s.deepUnfurlUnit n q i
  | 0x2E => s.remoteUnit n i
  | _ => s.hoistUnit n i

/-- One attempt at a descriptor: what it waits for from the host first, then its next unit. -/
def State.aeStep (s : State) (n q : Nat) (i : AeItem) : AeStep :=
  if i.confirm then (false, i, s)
  else if i.wrote then
    if i.host ≠ [] then let r := s.pumpWrites n q i i.host; (false, r.1, r.2)
    else if i.wait = 0 then
      if aeSite i.words = some 2 ∧ i.gran ≠ ({} : Tally) then (true, i.advance, s.addTally 2 (aDfmt i.words) i.gran)
      else (true, { i.advance with tally := if aeSite i.words = some 2 then i.tally else i.tally.add i.gran }, s)
    else (false, i, s)
  else
    let p := s.aePump n q i
    if p.1 then p.2.2.aeUnit n q { p.2.1 with phase := .ready } else (false, p.2.1, p.2.2)

/-- Has a context stopped for good (R319). -/
def State.ctxOver (s : State) (c : Nat) : Bool := 6 ≤ (s.ctx c).state

/-- Runs a descriptor until it has to wait, `k` attempts at most. -/
def State.runItem (s : State) (n q : Nat) : Nat → AeItem → AeItem × State
  | 0, i => (i, s)
  | k + 1, i =>
    if s.aeTotal i ≤ i.next then ({ i with phase := .finished }, s)
    else
      let r := s.aeStep n q i
      if r.1 && !r.2.2.ctxOver i.ctx then r.2.2.runItem n q k r.2.1 else (r.2.1, r.2.2)

/-- Puts a descriptor back in its queue, unless its context is over or its core fenced. -/
def State.putItem (s : State) (n q : Nat) (i : AeItem) : State :=
  s.modCore n (fun c => { c with
    queues := kmod [] c.queues q (fun l => l.map (fun x => if x.num = i.num then i else x)) })

/-- R266, R272: the waiting LOADs of a context that `p` picks decide. -/
def State.decideAll (s : State) (p : AeItem → Bool) : State :=
  let waiting := s.cores.flatMap (fun k => k.2.queues.flatMap (fun q =>
    (q.2.filter (fun i => i.confirm && p i)).map (fun i => (k.1, q.1, i))))
  waiting.foldl (fun t x => let r := t.confirmHoist x.1 x.2.2; r.2.putItem x.1 x.2.1 r.1) s

/-- R266: every LOAD that waits for a hoist decides. -/
def State.decideConfirms (s : State) (c id : Nat) : State := s.decideAll (fun i => i.ctx == c && aHoist i.words == id)

/-- The descriptors of a queue. -/
def State.queue (s : State) (n q : Nat) : List AeItem := kget [] (s.core n).queues q

/-- May the descriptor with number `num` be attempted: its context runs, it is among the four in progress, nothing
earlier that stopped holds it back, and it stands ready or waiting. -/
def runnable (four : List AeItem) (num : Nat) : Option AeItem :=
  let before := four.takeWhile (fun x => x.num ≠ num)
  match four.find? (fun x => x.num = num) with
  | none => none
  | some i =>
    let held := before.any (fun x => x.phase == .parked)
    if (i.started || !held) && (i.phase == .ready || i.phase == .waiting) then some i else none

/-- The misses that no queue has taken note of go. -/
def State.clearMissed (s : State) (n : Nat) : State :=
  if (s.core n).missed = [] then s else s.modCore n (fun c => { c with missed := [] })

/-- R258: the lines that loads of a queue have just missed in the core cache: the stream prefetcher keeps the last two. -/
def State.noteMisses (s : State) (n q : Nat) : State :=
  if (s.core n).missed = [] then s
  else
    s.modCore n (fun c => { c with
      misses := kput c.misses q (c.missed.foldl (fun p l => (p.2, l)) (kget (0, 0) c.misses q)), missed := [] })

/-- Attempts one descriptor of a queue. -/
def State.runOne (s : State) (n q num : Nat) : State :=
  match runnable ((s.queue n q).take 4) num with
  | none => s
  | some i =>
    if (s.ctx i.ctx).state = 2 then
      let r := s.clearMissed n |>.runItem n q (2 * s.aeTotal i + 16) { i with started := true }
      (r.2.putItem n q r.1).noteMisses n q
    else s

/-- R247: attempts the four descriptors in progress of a queue, in order. -/
def State.runQueue (s : State) (n q : Nat) : State :=
  (((s.queue n q).take 4).map (fun i => i.num)).foldl (fun t num => t.runOne n q num) s

/-- Every queue of a core, and of the module. -/
def State.runCore (s : State) (n : Nat) : State := (List.range 8).foldl (fun t q => t.runQueue n q) s
def State.runAll (s : State) : State := (s.cores.map (fun p => p.1)).foldl (fun t n => t.runCore n) s

end Sys2Proof.Machine
end

