-- ==== Sys2Proof/Machine/Collect.lean ====
section
/-! DEFINITION. What tackle operations are made of: member sets, count tables, signatures, shares, elements, partial
sums, and the collective engine's transfers through translation (R387–R408). -/
namespace Sys2Proof.Machine

/-! ## Operation entries (R388) -/

def oOpc (w : List Word) : Nat := wfld w 0 63 56
def oFmt (w : List Word) : Fmt := (Fmt.ofCode (wfld w 0 55 51)).getD .fp32
def oOfmt (w : List Word) : Fmt := (Fmt.ofCode (wfld w 0 50 46)).getD .fp32
def oRedop (w : List Word) : Nat := wfld w 0 45 42
def oSet (w : List Word) : Nat := wfld w 0 41 32
def oTrig (w : List Word) : Nat := wfld w 0 31 16
def oDone (w : List Word) : Nat := wfld w 0 15 0
def oThreshold (w : List Word) : Nat := (wd w 1).toNat
def oSrc (w : List Word) : Nat := wfld w 2 63 48
def oDst (w : List Word) : Nat := wfld w 2 47 32
def oTable (w : List Word) : Nat := wfld w 2 31 16
def oRoot (w : List Word) : Nat := wfld w 2 15 0
def oAux (w : List Word) : Nat := wfld w 3 47 32
def oSpill (w : List Word) : Nat := wfld w 3 31 16
def oRts (w : List Word) : Nat := wfld w 3 15 8
def oDrop (w : List Word) : Bool := bitAt (wd w 3) 7
def oCntDesc (w : List Word) : Nat := wfld w 4 63 48

/-- The words of an operation. -/
def State.opWords (s : State) (o : CollOp) : List Word := s.tackleOp o.op

/-- R395, R396: does an operation reduce. -/
def reduces (opc : Nat) : Bool := opc == 0x10 || opc == 0x11 || opc == 0x14

/-! ## Member sets (R383, R388) -/

/-- R388: size of a member set. -/
def State.setSize (s : State) (set : Nat) : Nat := ((s.setDims set).map s.torus).foldl (· * ·) 1

/-- Mixed-radix rank over dimensions, the lowest varying fastest. -/
def rankFold (sizes coords : List Nat) : Nat := linear sizes coords

/-- R388: rank of a module in a set of this module. -/
def State.rankIn (s : State) (set m : Nat) : Nat :=
  rankFold ((s.setDims set).map s.torus) ((s.setDims set).map (fun d => s.coord m d))

/-- R388: this module's rank in a set. -/
def State.myRank (s : State) (set : Nat) : Nat := s.rankIn set s.moduleNo

/-- R383, R388: the module of rank `r` in a set of this module. -/
def State.moduleOf (s : State) (set r : Nat) : Nat :=
  let ds := s.setDims set
  let at_ := indexOf (ds.map s.torus) r
  let coords := (List.range 4).map (fun d =>
    match ds.findIdx? (fun e => e = d) with
    | some i => at_.getD i 0
    | none => s.coord s.moduleNo d)
  linear ((List.range 4).map s.torus) coords

/-! ## Count tables (R389) -/

/-- The u32 entry `k` of the table at word `o`. -/
def tableEntry (sec : List Word) (o k : Nat) : Nat := wfld sec (o + 2 + k / 2) (32 * (k % 2) + 31) (32 * (k % 2))

/-- R389: can a table header stand at word `o`. -/
def headerAt (sec : List Word) (o : Nat) : Bool :=
  1 ≤ wfld sec o 63 60 && wfld sec o 63 60 ≤ 3 && wfld sec o 59 32 == 0 && 1 ≤ wfld sec o 31 0 && wd sec (o + 1) == 0

/-- R389, R406: can a table of KIND 3 for `p` members have `e` experts: its owners are members, K is 1 to `e`, and behind K the
table's last 64 B are zero and the next table begins, or the section is zero to its end. -/
def expertsFit (sec : List Word) (o p e : Nat) : Bool :=
  let n := 4 * e + p + 1
  let next := o + 8 * ceilDiv (16 + 4 * n) 64
  let k := tableEntry sec o (4 * e + p)
  1 ≤ k && k ≤ e && (List.range e).all (fun i => decide (tableEntry sec o (4 * i) < p)) &&
    (List.range (2 * (next - o - 2) - n)).all (fun i => tableEntry sec o (n + i) == 0) &&
    (headerAt sec next || (sec.drop next).all (· == 0))

/-- R389, R406: experts of a table of KIND 3 for `p` members. The table does not say how many it has: the fewest that fit. -/
def tableExperts (sec : List Word) (o p : Nat) : Nat := ((List.range (sec.length - o)).find? (expertsFit sec o p)).getD 0

/-- R389: K of a table of KIND 3: expert choices of each token. -/
def tableK (sec : List Word) (o p : Nat) : Nat := tableEntry sec o (4 * tableExperts sec o p + p)

/-- R389: bytes of the table at word `o`. -/
def tableSize (sec : List Word) (o : Nat) : Nat :=
  let p := wfld sec o 31 0
  match wfld sec o 63 60 with
  | 1 => 16 + 4 * p
  | 2 => 16 + 4 * p * p
  | _ => 16 + 4 * (4 * tableExperts sec o p + p + 1)

/-- The word at which count table `t` starts: one after the other, each on a multiple of 64 B. -/
def State.tableAt (s : State) : Nat → Nat
  | 0 => (wd s.tackleSec 5).toNat / 8
  | t + 1 =>
    let o := s.tableAt t
    o + 8 * ceilDiv (tableSize s.tackleSec o) 64

/-- KIND of the table an operation names; 0 for equal shares. -/
def State.tableKind (s : State) (w : List Word) : Nat :=
  if oTable w = 0xFFFF then 0 else wfld s.tackleSec (s.tableAt (oTable w)) 63 60

def State.tableVal (s : State) (w : List Word) (k : Nat) : Nat := tableEntry s.tackleSec (s.tableAt (oTable w)) k

/-- R391: bits [41:0] of the digest of the planned count table, 0 without one. -/
def State.countsHash (s : State) (w : List Word) : Nat :=
  if oTable w = 0xFFFF then 0
  else
    let o := s.tableAt (oTable w)
    let bs := (wordsBytes (s.tackleSec.drop o)).take (tableSize s.tackleSec o)
    ofLeBytes (sha384 bs) % 2 ^ 42

/-! ## Signatures (R391) -/

/-- R391: SEQ of an operation. -/
def CollOp.seqNo (o : CollOp) : Nat := o.pidx * 65536 + o.op

/-- R388, R391: OPC, ROOT and the size of the set in a signature. A SEND and its RECV are one operation of two members, of the
sender's OPC with the receiver as ROOT. -/
def State.signParts (s : State) (w : List Word) : Nat × Nat × Nat :=
  match oOpc w with
  | 0x20 => (0x20, oRoot w, 2)
  | 0x21 => (0x20, s.myRank (oSet w), 2)
  | opc => (opc, oRoot w, s.setSize (oSet w))

/-- R391: the 128-bit signature. -/
def State.signature (s : State) (o : CollOp) : Nat :=
  let w := s.opWords o
  let x := s.signParts w
  o.seqNo % 2 ^ 32 * 2 ^ 96 + x.1 * 2 ^ 88 + wfld w 0 55 51 * 2 ^ 83 + wfld w 0 50 46 * 2 ^ 78 + oRedop w * 2 ^ 74 +
    x.2.1 * 2 ^ 58 + (x.2.2 - 1) % 1024 * 2 ^ 48 + wfld (s.tackleList o.list) 0 63 48 % 64 * 2 ^ 42 +
    s.countsHash w

/-! ## Elements of views -/

/-- Number of planned elements of a view. -/
def View.count (v : View) : Nat := volume v.plan

/-- A view's planned elements from λ number `a` on, `n` of them. -/
def View.span (v : View) (a n : Nat) : List (List Nat) := (List.range n).map (fun i => indexOf v.plan (a + i))

/-- Code, scale and poison of an element. -/
abbrev CElem := Nat × Nat × Bool

def celem (e : Elem) : CElem := (e.code, e.scale, e.poison)

/-- The bits that elements of a view take when they are written, scales included. -/
def View.puts (v : View) (es : List (List Nat × CElem)) : BitWrites :=
  es.foldl (fun m e =>
    let m := putBits m (v.bitAddr e.1).toNat v.fmt.width e.2.1 e.2.2.2
    if v.fmt.isMx then putBits m (8 * v.scaleAddr e.1) 8 e.2.2.1 e.2.2.2 else m) []

/-- R406: the spill view of the expert with local index `l`: rows of `d` elements in instance `l` of the buffer. -/
def State.spillView (s : State) (buf l d rows : Nat) (f : Fmt) : View :=
  let b := (s.buffer buf).getD []
  { base := (wd b 1).toNat + l * (wd b 3).toNat, fmt := f, ndim := 2, space := 0, caxis := 0, scale := 0, pad := 0
    pos := 0, sizes := [d, rows], plan := [d, rows], stride := [1, (d : Int)], shape := [d, rows], origin := none }

/-! ## MoE tables and places (R406–R408) -/

/-- R406: OWNER, LOCAL, CAPACITY, SPILL_SLOTS of global expert `e`. -/
def State.expertRow (s : State) (w : List Word) (e : Nat) : Nat × Nat × Nat × Nat :=
  (s.tableVal w (4 * e), s.tableVal w (4 * e + 1), s.tableVal w (4 * e + 2), s.tableVal w (4 * e + 3))

/-- R406: number of experts of an operation's table. -/
def State.experts (s : State) (w : List Word) : Nat :=
  tableExperts s.tackleSec (s.tableAt (oTable w)) (s.setSize (oSet w))

/-- c[s][e], the offset o[s][e] and N_e of R406. -/
def routed (o : CollOp) (e_ m e : Nat) : Nat := o.counts.getD (m * e_ + e) 0
def routedBefore (o : CollOp) (e_ m e : Nat) : Nat := ((List.range m).map (fun x => routed o e_ x e)).foldl (· + ·) 0
def routedAll (o : CollOp) (e_ p e : Nat) : Nat := routedBefore o e_ p e

/-- R406, R407: the rows of member `m` that travel to or from the experts of owner `j`: expert and position, in
ascending expert and token; dropped ones are left out. -/
def State.moeRows (s : State) (o : CollOp) (m j : Nat) : List (Nat × Nat) :=
  let w := s.opWords o
  let n := s.experts w
  (List.range n).flatMap (fun e =>
    let x := s.expertRow w e
    if x.1 = j then
      ((List.range (routed o n m e)).map (fun i => (e, routedBefore o n m e + i))).filter
        (fun y => !oDrop w || y.2 < x.2.2.1)
    else [])

/-- Where a row of an expert lies at its owner: below the capacity in the expert's view, above in its spill view. -/
def State.moeRow (s : State) (o : CollOp) (p desc d : Nat) (y : Nat × Nat) : View × Nat :=
  let w := s.opWords o
  let x := s.expertRow w y.1
  if y.2 < x.2.2.1 then (s.view p (desc + x.2.1), y.2)
  else (s.spillView (oSpill w) x.2.1 d x.2.2.2 (oFmt w), y.2 - x.2.2.1)

/-- Index vectors of row `r` of a view of rows. -/
def View.row (v : View) (r : Nat) : List (List Nat) :=
  v.span (r * v.plan.getD 0 0) (v.plan.getD 0 0)

/-- R406: the tokens of this module that chose expert `e`, with the place of the choice, in ascending token. -/
def tokensOf (k : Nat) (route : List CElem) (e : Nat) : List (Nat × Nat) :=
  ((route.zipIdx).filter (fun x => x.1.1 = e)).map (fun x => (x.2 / k, x.2 % k))

/-- R389, R406: expert choices per token, K of the expert table. -/
def State.choices (s : State) (o : CollOp) : Nat :=
  let w := s.opWords o
  max 1 (tableK s.tackleSec (s.tableAt (oTable w)) (s.setSize (oSet w)))

/-- R408: the dispatch whose rows a combine returns: the latest with the same count table. -/
def State.dispatchOf (s : State) (w : List Word) : Option CollOp :=
  (s.ops.filter (fun o => oOpc (s.opWords o) = 0x16 ∧ oTable (s.opWords o) = oTable w ∧ o.phase = .done)).getLast?

/-- The routing tensor that a dispatch kept behind its source rows. -/
def State.routeOf (s : State) (o : CollOp) : List CElem := o.own.drop (s.view o.src (oSrc (s.opWords o))).count

/-! ## Sources (R388, R395, R406, R408) -/

/-- What an operation reads at this module: elements of views, in order. -/
def State.opReads (s : State) (o : CollOp) : List (View × List (List Nat)) :=
  let w := s.opWords o
  let whole := fun d => let v := s.view o.src d; (v, v.span 0 v.count)
  match oOpc w with
  | 0x01 => []
  | 0x21 => []
  | 0x16 => [whole (oSrc w), whole (oAux w)]
  | 0x17 =>
    let p := s.setSize (oSet w)
    let r := s.myRank (oSet w)
    let d := (s.view o.src (oSrc w)).plan.getD 0 0
    (List.range p).flatMap (fun m => (s.moeRows o m r).map (fun y =>
      let x := s.moeRow o o.src (oSrc w) d y
      (x.1, x.1.row x.2)))
  | _ => [whole (oSrc w)]

/-- R402: the core-store ranges that an operation holds until it completes. -/
def State.opRanges (s : State) (o : CollOp) : List (Nat × Nat) :=
  ((s.opReads o).filter (fun x => x.1.space = 1)).flatMap (fun x => x.1.ranges) |>.eraseDups

/-! ## Shares (R389, R390, R395) -/

/-- The counts of phase 0 as a sum over members below `r`. -/
def countsBefore (o : CollOp) (r : Nat) : Nat := (o.counts.take r).foldl (· + ·) 0

/-- R406: this module's counts per expert, `n` of them. -/
def routeCounts (route : List CElem) (n : Nat) : List Nat :=
  (List.range n).map (fun e => (route.filter (fun x => x.1 = e)).length)

/-- R390: this module's run-time counts as it sends them: the planned ones, one for its share or one for each member;
for MoE its tokens by expert. -/
def State.planCounts (s : State) (o : CollOp) : List Nat :=
  let w := s.opWords o
  let p := s.setSize (oSet w)
  let r := s.myRank (oSet w)
  let e := (s.view o.src (oSrc w)).count
  match s.tableKind w with
  | 1 => [s.tableVal w r]
  | 2 => (List.range p).map (fun j => s.tableVal w (r * p + j))
  | 3 =>
    if oOpc w = 0x16 then routeCounts (s.routeOf o) (s.experts w)
    else (o.counts.drop (r * s.experts w)).take (s.experts w)
  | _ => if oOpc w = 0x11 ∨ oOpc w = 0x15 then [e / p] else if oOpc w = 0x21 then [(s.view o.plan (oDst w)).count] else [e]

/-- R389, R390, R395: the elements that member `i` of an ALL_TO_ALL sends to member `j`: from its table, or its equal share. -/
def State.pairCount (s : State) (o : CollOp) (i j : Nat) : Nat :=
  let w := s.opWords o
  if s.tableKind w = 2 then o.counts.getD (i * s.setSize (oSet w) + j) 0 else o.counts.getD i 0

/-- R388, R395: what this module sends to rank `j` out of its own elements, as start and length. -/
def State.sendSpan (s : State) (o : CollOp) (j : Nat) : Nat × Nat :=
  let w := s.opWords o
  let r := s.myRank (oSet w)
  match oOpc w with
  | 0x10 => (0, o.counts.getD r 0)
  | 0x11 => (countsBefore o j, o.counts.getD j 0)
  | 0x14 => (0, if j = oRoot w then o.counts.getD r 0 else 0)
  | 0x12 => (0, o.counts.getD r 0)
  | 0x13 => (0, if r = oRoot w then o.counts.getD r 0 else 0)
  | 0x15 => (((List.range j).map (fun x => s.pairCount o r x)).foldl (· + ·) 0, s.pairCount o r j)
  | 0x20 => (0, if j = oRoot w then o.counts.getD r 0 else 0)
  | _ => (0, 0)

/-- The elements this module sends to rank `j`. -/
def State.sendElems (s : State) (o : CollOp) (j : Nat) : List CElem :=
  let w := s.opWords o
  let r := s.myRank (oSet w)
  match oOpc w with
  | 0x16 =>
    let d := (s.view o.src (oSrc w)).plan.getD 0 0
    let n := s.experts w
    let route := s.routeOf o
    (s.moeRows o r j).flatMap (fun y =>
      let t := (tokensOf (s.choices o) route y.1).getD (y.2 - routedBefore o n r y.1) (0, 0)
      (o.own.drop (t.1 * d)).take d)
  | 0x17 =>
    let d := (s.view o.src (oSrc w)).plan.getD 0 0
    let before := ((List.range j).map (fun m => (s.moeRows o m r).length)).foldl (· + ·) 0
    (o.own.drop (before * d)).take ((s.moeRows o j r).length * d)
  | _ =>
    let x := s.sendSpan o j
    (o.own.drop x.1).take x.2

/-- The result elements that come from rank `i`: first place and number; for MoE the number alone counts. -/
def State.recvSpan (s : State) (o : CollOp) (i : Nat) : Nat × Nat :=
  let w := s.opWords o
  let r := s.myRank (oSet w)
  match oOpc w with
  | 0x10 => (0, o.counts.getD r 0)
  | 0x11 => (0, o.counts.getD r 0)
  | 0x14 => (0, if r = oRoot w then o.counts.getD r 0 else 0)
  | 0x12 => (countsBefore o i, o.counts.getD i 0)
  | 0x13 => (0, if i = oRoot w then o.counts.getD i 0 else 0)
  | 0x15 => (((List.range i).map (fun x => s.pairCount o x r)).foldl (· + ·) 0, s.pairCount o i r)
  | 0x21 => (0, if i = oRoot w then o.counts.getD i 0 else 0)
  | 0x16 => (0, (s.moeRows o i r).length * (s.view o.src (oSrc w)).plan.getD 0 0)
  | 0x17 => (0, (s.moeRows o r i).length * (s.view o.src (oSrc w)).plan.getD 0 0)
  | _ => (0, 0)

/-- R395: number of result elements of a reduction at this module. -/
def State.resultCount (s : State) (o : CollOp) : Nat := (s.recvSpan o (s.myRank (oSet (s.opWords o)))).2

/-- R397: where this module's result elements begin in the element space of the exponent vector. -/
def State.resultBase (s : State) (o : CollOp) : Nat :=
  let w := s.opWords o
  if oOpc w = 0x11 then countsBefore o (s.myRank (oSet w)) else 0

/-- R400: a chunk is 4,096 elements. -/
def chunkElems : Nat := 4096
def chunksOfCount (n : Nat) : Nat := ceilDiv n chunkElems

/-- R401: the chunks this module expects, by source rank. -/
def State.expected_ (s : State) (o : CollOp) : List (Nat × Nat) :=
  let set := oSet (s.opWords o)
  let r := s.myRank set
  ((List.range (s.setSize set)).filter (fun i => i ≠ r)).flatMap (fun i =>
    (List.range (chunksOfCount (s.recvSpan o i).2)).map (fun k => (i, k)))

/-! ## Reductions (R76–R80, R394, R396–R398) -/

/-- R397: exponent word of a chunk of contributions. -/
def expoWord (vs : List Num) : Nat :=
  let eb := match emaxOf vs with
    | some e => (e + 1075).toNat
    | none => 0
  (if vs.any Num.isNan then 2 ^ 15 else 0) + (if vs.any (fun v => v.isInf && !v.sign) then 2 ^ 14 else 0) +
    (if vs.any (fun v => v.isInf && v.sign) then 2 ^ 13 else 0) + eb % 2 ^ 13

/-- R397: two exponent words combined. -/
def expoJoin (a b : Nat) : Nat := ((a ||| b) / 2 ^ 13) * 2 ^ 13 + max (a % 2 ^ 13) (b % 2 ^ 13)

/-- R397: the exponent vector of a module's own elements. -/
def expoVector (f : Fmt) (es : List CElem) : List Nat :=
  (List.range (chunksOfCount es.length)).map (fun k =>
    expoWord (((es.drop (chunkElems * k)).take chunkElems).map (fun e => f.decode e.1)))

/-- R397: E_max of result element `i`; none when no contribution is finite and nonzero. -/
def CollOp.emax (o : CollOp) (i : Nat) : Option Int :=
  let eb : Nat := o.expo.getD (i / chunkElems) 0 % 2 ^ 13
  if eb = 0 then none else some (Int.ofNat eb - 1075)

/-- R398: the special mark of a contribution: 1 +Inf, 2 −Inf, 3 NaN. -/
def specialOf (v : Num) : Nat := if v.isNan then 3 else if v.isInf then (if v.sign then 2 else 1) else 0

/-- R80: two special marks combined. -/
def specialJoin (a b : Nat) : Nat := if a = 0 then b else if b = 0 ∨ a = b then a else 3

/-- R77: the fixed-point integer of a contribution. -/
def fixedOf (emax : Option Int) (v : Num) : Int :=
  match emax with
  | none => 0
  | some e => if v.isFin then toFixed e v else 0

/-- R77, R85: a nonzero contribution that converts to 0. -/
def ftzOf (emax : Option Int) (v : Num) : Tally :=
  if v.isFin && !v.isZero && fixedOf emax v == 0 then { ftz := 1 } else {}

/-- R79, R80: the result of an element, rounded once. -/
def finalSum (l : Layout) (emax : Option Int) (sum : Int) (special : Nat) : Nat × Tally :=
  match special with
  | 3 => (l.defaultNaN, { total := 1, nan := 1 })
  | 1 => (l.infBits false, { total := 1, inf := 1 })
  | 2 => (l.infBits true, { total := 1, inf := 1 })
  | _ => l.convert false ((Num.ofInt sum).scale (emax.getD 0 - 96))

/-- R396: one FP maximum: −0 below +0, any NaN gives the default NaN. -/
def fpMax (f : Fmt) (a b : Nat) : Nat :=
  if (f.decode a).isNan || (f.decode b).isNan then (layoutOf f).defaultNaN else maxBits f a b

/-- R396: one step of a bulk reduction other than the order-free sum. -/
def redopBits (op : Nat) (f : Fmt) (a b : Nat) : Nat :=
  match op with
  | 1 => iaddBits a b
  | 2 => minBits .int32 a b
  | 3 => maxBits .int32 a b
  | 4 => a &&& b
  | 5 => a ||| b
  | _ => fpMax f a b

/-- R394: one step of a scalar reduction other than the order-free sum. -/
def scalarBits (op a b : Nat) : Nat :=
  match op with
  | 1 => (a + b) % 2 ^ 64
  | 2 => if signed 64 a ≤ signed 64 b then a else b
  | 3 => if signed 64 a ≤ signed 64 b then b else a
  | 4 => a &&& b
  | 5 => a ||| b
  | _ => fpMax .fp64 a b

/-- The words of a set folded with an operation that is idempotent or has 0 for its neutral word; of one word an FP maximum
takes its NaN to the default NaN. -/
def foldFirst (op : Nat) : List Nat → Nat
  | [] => 0
  | x :: r => r.foldl (scalarBits op) (if op = 6 then scalarBits op x x else x)

/-- R392, R394: one scalar result from every member's word, in ascending rank; E_max over every word. -/
def scalarResult (op : Nat) (emax : Option Int) (ws : List Nat) : Nat × Tally :=
  if op = 0 then
    let vs := ws.map layout64.decode
    finalSum layout64 emax ((vs.map (fixedOf emax)).foldl (· + ·) 0) ((vs.map specialOf).foldl specialJoin 0)
  else (foldFirst op ws, {})

/-- R397, R398: adds one contribution or partial to result element `i`. -/
def CollOp.addFixed (o : CollOp) (i : Nat) (q : Int) (special : Nat) (poison : Bool) : CollOp :=
  { o with
    sums := kmod 0 o.sums i (fun x => x + q)
    specials := if special = 0 then o.specials else kmod 0 o.specials i (fun x => specialJoin x special)
    bad := if poison then i :: o.bad else o.bad }

/-- R396: adds one contribution of another reduction to result element `i`; the first stands as it is, but a NaN of an FP
maximum as the default NaN. -/
def CollOp.addBits (o : CollOp) (redop : Nat) (f : Fmt) (first : Bool) (i x : Nat) (poison : Bool) : CollOp :=
  { o with
    sums := kmod 0 o.sums i (fun y => if first then ((if redop = 6 then redopBits redop f x x else x : Nat) : Int) else (redopBits redop f y.toNat x : Nat))
    bad := if poison then i :: o.bad else o.bad }

/-! ## The engine's transfers (R313, R314) -/

/-- The core whose TLB an operation of context `c` uses, and whose store its core-store views name: its lowest. -/
def State.collCore (s : State) (c : Nat) : Nat := (s.ctx c).coreList.headD 0

/-- The transfer record of an operation. -/
def State.opItem (s : State) (o : CollOp) : Option AeItem :=
  (s.queue (s.collCore o.ctx) collQueue).find? (fun i => i.num = o.op)

def State.putOp (s : State) (o : CollOp) : State :=
  { s with ops := s.ops.map (fun x => if x.op = o.op ∧ x.pidx = o.pidx then o else x) }

/-- Reads stack memory at translated addresses for the collective engine, through the chip cache. -/
def State.collPieces (s : State) (n c : Nat) : List (Nat × Nat) → Fetched × State
  | [] => ([], s)
  | p :: r =>
    match s.translate n c p.1 false with
    | .stack pa policy _ =>
      let x := s.readPa c policy pa p.2
      let t := x.2.collPieces n c r
      ((p.1, x.1) :: t.1, t.2)
    | _ => s.collPieces n c r

/-- Writes the stack pieces of a result. -/
def State.collStore (s : State) (n c : Nat) (m : BitWrites) (old : Fetched) (ps : List (Nat × Nat)) : State :=
  ps.foldl (fun t p =>
    match t.translate n c p.1 true with
    | .stack pa policy _ => t.writePa c policy pa (mergedBytes m old p.1 p.2)
    | _ => t) s

/-- The elements of what an operation reads, from fetched memory and from the core store. -/
def State.gatherElems (s : State) (n : Nat) (f : Fetched) : List (View × List (List Nat)) → List CElem × State
  | [] => ([], s)
  | x :: r =>
    let e := if x.1.space = 0 then (x.2.map (x.1.elemFrom f), s) else s.csElems n x.1 x.2
    let t := e.2.gatherElems n f r
    (e.1.map celem ++ t.1, t.2)

/-- R314: reads the source of an operation; none while it waits for a walk, the host, or parked. -/
def State.readSource (s : State) (o : CollOp) (i : AeItem) : Option (List CElem) × AeItem × State :=
  let n := s.collCore o.ctx
  let rs := s.opReads o
  let ps := rs.flatMap (fun x => if x.1.space = 0 then cutRuns (runsOf (x.1.reads x.2)) else [])
  match s.xlateAll n o.ctx (ps.map (fun p => (p.1, false))) with
  | some b => let r := s.aeBlock n collQueue i 0 b; (none, r.1, r.2)
  | none =>
    let missing := (s.hostPieces n o.ctx ps false).filter (fun p => !(Fetched.has i.host p.1 p.2))
    if missing ≠ [] then
      let r := s.aePump n collQueue { i with need := missing }
      (none, r.2.1, r.2.2)
    else
      let f := s.collPieces n o.ctx ps
      let e := f.2.gatherElems n (f.1 ++ i.host) rs
      (some e.1, { i with host := [], need := [], wait := 0, phase := .ready }, e.2)

/-- R254, R314: writes one piece of a result; `true` when it is done. -/
def State.writeResult (s : State) (o : CollOp) (i : AeItem) (x : Bool × BitWrites) : Bool × AeItem × State :=
  let n := s.collCore o.ctx
  if x.1 then
    if s.aeFenced n x.2 then (false, { i with phase := .waiting }, s) else (true, i.advance, s.csPut n x.2)
  else
    let ps := cutRuns (runsOf x.2)
    match s.xlateAll n o.ctx (ps.map (fun p => (p.1, true))) with
    | some b => let r := s.aeBlock n collQueue i i.next b; (false, r.1, r.2)
    | none =>
      let old := s.oldBytes n o.ctx x.2
      let hosts := old.2.hostPieces n o.ctx ps true
      let data := hosts.map (fun p => (p.1, mergedBytes x.2 old.1 p.1 p.2))
      if data.any (fun p => p.2.any (fun b => b.2)) then (false, i, old.2.ctxFault o.ctx 0x06)
      else
        let s := old.2.collStore n o.ctx x.2 old.1 ps
        if hosts = [] then (true, i.advance, s)
        else
          let r := s.pumpWrites n collQueue { i with wrote := true, wait := 0, phase := .waiting } data
          (false, r.1, r.2)

end Sys2Proof.Machine
end

