-- ==== Sys2Proof/Machine/Collective.lean ====
section
/-! DEFINITION. Tackle operations: start, phase 0, the scalar path, chunks, verification and re-send, MoE
(R387–R408). -/
namespace Sys2Proof.Machine

/-! ## Placing elements at their destination -/

/-- R406, R408: the row of a destination that row `q` from rank `i` lands in. -/
def State.rowPlace (s : State) (o : CollOp) (i q : Nat) : View × Nat :=
  let w := s.opWords o
  let r := s.myRank (oSet w)
  let d := (s.view o.src (oSrc w)).plan.getD 0 0
  if oOpc w = 0x16 then s.moeRow o o.plan (oDst w) d ((s.moeRows o i r).getD q (0, 0))
  else
    let y := (s.moeRows o r i).getD q (0, 0)
    let route := match s.dispatchOf w with
      | some x => s.routeOf x
      | none => []
    let t := (tokensOf (s.choices o) route y.1).getD (y.2 - routedBefore o (s.experts w) r y.1) (0, 0)
    (s.view o.plan (oDst w), t.1 * s.choices o + t.2)

/-- The bits of a view's elements as a piece to write: to the core store or to memory. -/
def View.piece (v : View) (es : List (List Nat × CElem)) : Bool × BitWrites := (v.space == 1, v.puts es)

/-- Cuts a run of elements that starts at element `a` of rows of `d` into (row, first column, elements). -/
def rowCuts (d : Nat) : Nat → Nat → List CElem → List (Nat × Nat × List CElem)
  | 0, _, _ => []
  | k + 1, a, es =>
    if es = [] ∨ d = 0 then []
    else (a / d, a % d, es.take (d - a % d)) :: rowCuts d k (a + (d - a % d)) (es.drop (d - a % d))

/-- What is written for elements `a` on of the share of rank `i`. -/
def State.placeElems (s : State) (o : CollOp) (i a : Nat) (es : List CElem) : List (Bool × BitWrites) :=
  let w := s.opWords o
  if es = [] then []
  else if oOpc w = 0x16 ∨ oOpc w = 0x17 then
    let d := (s.view o.src (oSrc w)).plan.getD 0 0
    (rowCuts d (es.length + 1) a es).map (fun c =>
      let x := s.rowPlace o i c.1
      x.1.piece (List.zip (x.1.span (x.2 * d + c.2.1) c.2.2.length) c.2.2))
  else
    let v := s.view o.plan (oDst w)
    [v.piece (List.zip (v.span ((s.recvSpan o i).1 + a) es.length) es)]

/-! ## Payloads (R398, R400) -/

/-- Bits of codes one after the other, lowest first. -/
def packCodes (w : Nat) (cs : List Nat) : Nat := cs.foldr (fun c n => c % 2 ^ w + n <<< w) 0

/-- R400: payload of elements as their codes, and one scale byte per element for an MX format. -/
def elemBytes (f : Fmt) (es : List CElem) : List PByte :=
  let n := ceilDiv (es.length * f.width) 8
  let bad := fun (i : Nat) => (List.range es.length).any (fun k =>
    (es.getD k (0, 0, false)).2.2 && decide (k * f.width < 8 * i + 8) && decide (8 * i < (k + 1) * f.width))
  (leBytes n (packCodes f.width (es.map (fun e => e.1)))).zipIdx.map (fun b => (b.1, bad b.2)) ++
    (if f.isMx then es.map (fun e => (BitVec.ofNat 8 e.2.1, e.2.2)) else [])

/-- Elements of a payload of `n` of them, with the poison of its 8-B words. -/
def bytesElems (f : Fmt) (n : Nat) (bs : List Byte) (poison : List Bool) : List CElem :=
  let x := ofLeBytes bs
  let m := ceilDiv (n * f.width) 8
  (List.range n).map (fun i =>
    let lo := i * f.width / 64
    let hi := ((i + 1) * f.width - 1) / 64
    let bad := (List.range (hi + 1 - lo)).any (fun k => poison.getD (lo + k) false)
    ((x >>> (i * f.width)) % 2 ^ f.width, if f.isMx then (bs.getD (m + i) 0).toNat else 0x7F,
      bad || (f.isMx && poison.getD ((m + i) / 8) false)))

/-- R397, R398: does an expo word that covers elements `a` to `a + n − 1` carry a flag. -/
def CollOp.flagged (o : CollOp) (a n : Nat) : Bool :=
  (List.range (ceilDiv (a % chunkElems + n) chunkElems)).any (fun k => decide (2 ^ 13 ≤ o.expo.getD (a / chunkElems + k) 0))

/-- R398: partials of contributions from element `a` of the element space on, 16 B each, and their special marks. -/
def partialBytes_ (o : CollOp) (f : Fmt) (a : Nat) (es : List CElem) : List PByte × List Byte :=
  let bs := es.zipIdx.flatMap (fun e =>
    (leBytes 16 (unsigned 128 (fixedOf (o.emax (a + e.2)) (f.decode e.1.1)))).map (fun b => (b, e.1.2.2)))
  let ms := es.map (fun e => specialOf (f.decode e.1))
  (bs, if o.flagged a es.length then leBytes (ceilDiv es.length 4) (packCodes 2 ms) else [])

/-- R398, R400: the number in a partial, and its special mark. -/
def partialAt (bs mask : List Byte) (i : Nat) : Int × Nat :=
  (signed 128 (ofLeBytes ((bs.drop (16 * i)).take 16)), (ofLeBytes mask >>> (2 * i)) % 4)

/-! ## Chunk messages (R400, R402) -/

/-- R400: KIND of an operation's messages. -/
def chunkKind (w : List Word) : Nat :=
  match oOpc w with
  | 0x16 => 3
  | 0x17 => 4
  | o => if reduces o then (if oRedop w = 0 then 1 else 0) else 2

/-- R400: payload bytes of `n` elements. -/
def chunkLength (w : List Word) (n : Nat) : Nat :=
  if chunkKind w = 1 then 16 * n
  else ceilDiv (n * (oFmt w).width) 8 + (if (oFmt w).isMx then n else 0)

/-- R400: header words of a chunk message, CRC field 0. -/
def State.chunkHeader (s : State) (o : CollOp) (flags chunk src dst len : Nat) : List Word :=
  let w := s.opWords o
  [packWord [(32, o.seqNo % 2 ^ 32), (16, wfld (s.tackleList o.list) 0 63 48), (8, chunkKind w), (0, flags)],
   packWord [(32, chunk), (16, src), (0, dst)], s.reg bTell, packWord [(32, len)]]

/-- R397: where the elements for rank `j` begin in the element space. -/
def State.spaceBase (s : State) (o : CollOp) (j : Nat) : Nat :=
  if oOpc (s.opWords o) = 0x11 then countsBefore o j else 0

/-- R400: chunk `k` for rank `j` as it leaves: header with its CRC, payload with poison, special mask behind it. -/
def State.chunkMsg (s : State) (o : CollOp) (j k : Nat) (resend poison : Bool) : List Word × List PByte :=
  let w := s.opWords o
  let es := ((s.sendElems o j).drop (chunkElems * k)).take chunkElems
  let p : List PByte × List Byte :=
    if chunkKind w = 1 then partialBytes_ o (oFmt w) (s.spaceBase o j + chunkElems * k) es else (elemBytes (oFmt w) es, [])
  let flags := (if resend then 1 else 0) + (if p.2 = [] then 0 else 2) + 4
  let h := s.chunkHeader o flags k (s.myRank (oSet w)) j p.1.length
  let crc := (crc32c (wordsBytes h ++ p.1.map (fun b => b.1))).toNat
  (h.take 3 ++ [packWord [(32, p.1.length), (0, crc)]],
    p.1.map (fun b => (b.1, b.2 || poison)) ++ p.2.map (fun b => (b, poison)))

/-- R400: sends chunk `k` to rank `j`. -/
def State.sendChunk (s : State) (o : CollOp) (j k : Nat) (resend poison : Bool) : State :=
  let m := s.chunkMsg o j k resend poison
  let dest := s.moduleOf (oSet (s.opWords o)) j
  (s.send { kind := .chunk, dest := dest, words := m.1, bytes := m.2.map (fun b => b.1) }).sendMsg dest 1
    (plain (wordsBytes m.1) ++ m.2)

/-! ## The STAGE buffer (R388, R402–R404) -/

/-- Bytes that one retained message takes in a STAGE buffer: its header, 64 KiB and a special mask, in lines of 256 B. -/
def stageSlot : Nat := 66816

/-- R388, R402: does slot `i` of an operation's STAGE buffer lie in stack memory; without one the copy is the source view. -/
def State.staged (s : State) (w : List Word) (i : Nat) : Bool :=
  match s.buffer (wfld w 3 63 48) with
  | some b => decide ((i + 1) * stageSlot ≤ (wd b 2).toNat) && (s.bufPa (wfld w 3 63 48) (i * stageSlot)).isSome
  | none => false

/-- R402: writes a retained message into slot `i` of STAGE, line by line. -/
def State.putStage (s : State) (c : Nat) (w : List Word) (i : Nat) (bs : List PByte) : State :=
  if s.staged w i then
    (List.range (ceilDiv bs.length 256)).foldl (fun t k =>
      match t.bufPa (wfld w 3 63 48) (i * stageSlot + 256 * k) with
      | some pa => t.writePa c 1 pa ((bs.drop (256 * k)).take 256)
      | none => t) s
  else s

/-- R402: reads `n` bytes of a retained message back from slot `i`. -/
def State.getStage (s : State) (c : Nat) (w : List Word) (i n : Nat) : List PByte × State :=
  (List.range (ceilDiv n 256)).foldl (fun (a : List PByte × State) k =>
    match a.2.bufPa (wfld w 3 63 48) (i * stageSlot + 256 * k) with
    | some pa => let r := a.2.readPa c 1 pa (min 256 (n - 256 * k)); (a.1 ++ r.1, r.2)
    | none => a) ([], s)

/-- R404: is the copy of chunk `k` for rank `j` usable: no word of it in STAGE reads poisoned that was sent clean. -/
def State.copyOk (s : State) (o : CollOp) (j k : Nat) : Bool × State :=
  let w := s.opWords o
  match o.retained.findIdx? (fun x => x == (j, k)) with
  | none => (false, s)
  | some i =>
    if s.staged w i then
      let m := s.chunkMsg o j k false false
      let bs := plain (wordsBytes m.1) ++ m.2
      let r := s.getStage o.ctx w i bs.length
      ((List.zip bs r.1).all (fun x => x.1.2 || !x.2.2), r.2)
    else (true, s)

/-- R402: the chunks a member sends, by destination rank: it retains each. -/
def State.toSend (s : State) (o : CollOp) : List (Nat × Nat) :=
  let set := oSet (s.opWords o)
  ((List.range (s.setSize set)).filter (fun j => j ≠ s.myRank set)).flatMap (fun j =>
    (List.range (chunksOfCount (s.sendElems o j).length)).map (fun k => (j, k)))

/-! ## Results -/

/-- R438: does an operation write the source view of a gradient shard. -/
def State.gradientView (s : State) (w : List Word) : Bool :=
  s.shards.any (fun e => isGradient e.2 && wfld e.2 1 47 32 == oDst w)

/-- R86, R398, R438: counts of a reduction at site 5; with OVF, INF or NAN a gradient's loss scale has overflowed. -/
def State.collTally (s : State) (w : List Word) (t : Tally) : State :=
  let s := s.addTally 5 (oOfmt w) t
  if (0 < t.ovf ∨ 0 < t.inf ∨ 0 < t.nan) ∧ s.gradientView w then { s with step := { s.step with overflow := true } } else s

/-- R423: the gradient shards whose source view an operation writes have as many data members as its set. -/
def State.noteMembers (s : State) (w : List Word) : State :=
  { s with step := { s.step with members :=
    (s.shards.filter (fun e => isGradient e.2 && wfld e.2 1 47 32 == oDst w)).foldl (fun m e =>
      kset 1 m e.1 (s.setSize (oSet w))) s.step.members } }

/-- R79, R396: result element `i` of a reduction: its code and counts. -/
def State.resultElem (s : State) (o : CollOp) (i : Nat) : CElem × Tally :=
  let w := s.opWords o
  let bad := o.bad.contains i
  if oRedop w = 0 then
    let r := finalSum (layoutOf (oOfmt w)) (o.emax (s.resultBase o + i)) (kget 0 o.sums i) (kget 0 o.specials i)
    ((r.1, 0x7F, bad), r.2)
  else (((kget 0 o.sums i).toNat, 0x7F, bad), {})

/-- R77, R86, R398: the counts of this module's contributions to the elements of an order-free sum that satisfy `p`. -/
def State.quantTally (s : State) (o : CollOp) (p : Nat → Bool) : Tally :=
  let w := s.opWords o
  if reduces (oOpc w) && oRedop w == 0 then
    (o.own.zipIdx.filter (fun e => p e.2)).foldl (fun (a : Tally) e => a.add (ftzOf (o.emax e.2) ((oFmt w).decode e.1.1))) {}
  else {}

/-- R86, R398, R401: a chunk of a reduction whose contributions are all in is rounded and written; its counts are made now, those
of this module's contributions to it too. -/
def State.finishChunk (s : State) (o : CollOp) (k : Nat) : CollOp × State :=
  let w := s.opWords o
  let n := s.resultCount o
  let idx := (List.range (min chunkElems (n - chunkElems * k))).map (fun i => chunkElems * k + i)
  let rs := idx.map (s.resultElem o)
  let v := s.view o.plan (oDst w)
  let base := s.resultBase o + chunkElems * k
  let t := rs.foldl (fun a r => a.add r.2) (s.quantTally o (fun e => base ≤ e && e < base + idx.length))
  ({ o with writes := o.writes ++ [v.piece (List.zip (idx.map (indexOf v.plan)) (rs.map (fun r => r.1)))] }, (s.collTally w t).noteMembers w)

/-- Are all contributions to chunk `k` of this module's result in. -/
def State.chunkReady (s : State) (o : CollOp) (k : Nat) : Bool :=
  let set := oSet (s.opWords o)
  (List.range (s.setSize set)).all (fun i => i == s.myRank set || o.got.contains (i, k))

/-- R396, R398: elements from `a` on of this module's result, as codes, join the result. -/
def CollOp.addCodes (o : CollOp) (w : List Word) (base : Nat) (first : Bool) (a : Nat) (es : List CElem) : CollOp :=
  es.zipIdx.foldl (fun (o : CollOp) e =>
    let i := a + e.2
    if oRedop w = 0 then
      let v := (oFmt w).decode e.1.1
      o.addFixed i (fixedOf (o.emax (base + i)) v) (specialOf v) e.1.2.2
    else o.addBits (oRedop w) (oFmt w) first i e.1.1 e.1.2.2) o

/-- R398: partials from `a` on of this module's result join it. -/
def CollOp.addPartials (o : CollOp) (a n : Nat) (bs mask : List Byte) (poison : List Bool) : CollOp :=
  (List.range n).foldl (fun (o : CollOp) i =>
    let p := partialAt bs mask i
    o.addFixed (a + i) p.1 p.2 (poison.getD (2 * i) false || poison.getD (2 * i + 1) false)) o

/-! ## Running an operation's transfers (R314) -/

/-- Puts an operation and its transfer record back, unless its context is over. -/
def State.putOpItem (s : State) (o : CollOp) (i : AeItem) : State :=
  if s.ctxOver o.ctx then s else (s.putOp o).putItem (s.collCore o.ctx) collQueue i

/-- R390: is a run-time count above its planned one at this module: tokens for one expert. -/
def State.overPlanned (s : State) (o : CollOp) : Bool :=
  let w := s.opWords o
  oOpc w == 0x16 &&
    (s.planCounts o).any (fun c => decide (s.tableVal w (4 * s.experts w + s.myRank (oSet w)) < c))

/-- R390, R397: the exponent vector that an operation sends. -/
def State.ownExpo (s : State) (o : CollOp) : List Nat :=
  let w := s.opWords o
  if (reduces (oOpc w) ∨ oOpc w = 0x02) ∧ oRedop w = 0 then expoVector (oFmt w) o.own else []

/-! ## The exchange on the rings (R390, R392, R406) -/

/-- R383, R392: the neighbour of this module in dimension `d`. -/
def State.near (s : State) (d : Nat) (minus : Bool) : Nat :=
  let n := s.torus d
  linear ((List.range 4).map s.torus) ((List.range 4).map (fun e =>
    let x := s.coord s.moduleNo e
    if e = d then (if minus then (x + n - 1) % n else (x + 1) % n) else x))

/-- R392: a phase 0 message for a module: what it says, and its flits on VC0. -/
def State.sayTo (s : State) (o : CollOp) (m : Nat) (ws : List Word) : State :=
  (s.send { kind := .phase0, dest := m, code := o.op, words := ws }).freeMsg m 0

/-- R392: the dimensions of a set that have more than one member. -/
def State.ringDims (s : State) (set : Nat) : List Nat := (s.setDims set).filter (fun d => 1 < s.torus d)

/-- R392: a value begins its way in dimension `d`: both ways, but for a ring of two the plus way only. -/
def State.sayBoth (s : State) (o : CollOp) (d : Nat) (ws : List Word) : State :=
  let s := s.sayTo o (s.near d false) ws
  if 2 < s.torus d then s.sayTo o (s.near d true) ws else s

/-- R390, R406: the counts that go to single members: the planned pairs of a table of KIND 2, and the tokens routed to the
experts of each owner. -/
def State.sayCounts (s : State) (o : CollOp) (counts : List Nat) : State :=
  let w := s.opWords o
  let set := oSet w
  let given := fun (j : Nat) => match s.tableKind w with
    | 2 => [counts.getD j 0]
    | 3 => if oOpc w = 0x16 then
        ((List.range (s.experts w)).filter (fun e => (s.expertRow w e).1 = j)).map (fun e => counts.getD e 0)
      else []
    | _ => []
  ((List.range (s.setSize set)).filter (fun j => j ≠ s.myRank set && given j != [])).foldl (fun t j =>
    t.sayTo o (s.moduleOf set j) ((given j).map (BitVec.ofNat 64))) s

/-- R390: an operation that has read its source sends what it has for phase 0. -/
def State.beginPhase0 (s : State) (o : CollOp) : State :=
  let w := s.opWords o
  let sig := s.signature o
  let counts := if oOpc w < 0x10 then [] else s.planCounts o
  let words := ([sig % 2 ^ 64, sig / 2 ^ 64, if s.overPlanned o then 1 else 0] ++
    (if 2 ≤ s.tableKind w then [] else counts) ++ s.ownExpo o ++
    (if oOpc w = 0x02 then o.own.map (fun (e : CElem) => e.1) else [])).map (BitVec.ofNat 64)
  let s := s.putOp { o with phase := .phase0, expo := s.ownExpo o, said := words }
  let s := match s.ringDims (oSet w) with
    | [] => s
    | d :: _ => s.sayBoth o d words
  s.sayCounts o counts

/-- Writes what an operation has to write, as far as it goes. -/
def State.runWrites (s : State) : Nat → CollOp → AeItem → State
  | 0, o, i => s.putOpItem o i
  | k + 1, o, i =>
    match o.writes with
    | [] => s.putOpItem o i
    | x :: rest =>
      if i.wrote then
        if i.host ≠ [] then
          let r := s.pumpWrites (s.collCore o.ctx) collQueue i i.host
          r.2.putOpItem o r.1
        else if i.wait = 0 then s.runWrites k { o with writes := rest } { i.advance with wrote := false }
        else s.putOpItem o i
      else
        let r := s.writeResult o i x
        if r.1 then r.2.2.runWrites k { o with writes := rest } r.2.1 else r.2.2.putOpItem o r.2.1

/-- Takes an operation as far as its transfers let it go. -/
def State.runOp (s : State) (o : CollOp) : State :=
  match s.opItem o with
  | none => s
  | some i =>
    if s.ctxOver o.ctx ∨ !(i.phase == .ready || i.phase == .waiting) then s
    else
      match o.phase with
      | .reading =>
        let r := s.readSource o i
        match r.1 with
        | none => r.2.2.putOpItem o r.2.1
        | some es =>
          let o := { o with own := es }
          let s := r.2.2.putOpItem o r.2.1
          if oOpc (s.opWords o) = 0x16 ∧ (s.routeOf o).any (fun e => e.2.2) then s.ctxFault o.ctx 0x06
          else s.beginPhase0 o
      | .moving => s.runWrites (o.writes.length + 1) o i
      | _ => s

def State.runOps (s : State) : State :=
  (s.ops.filter (fun o => o.phase == .reading || o.phase == .moving)).foldl (fun t o => t.runOp o) s

/-- Everything that waits for a translation, the host or credit tries again. -/
def State.runEngines (s : State) : State := s.runAll.runOps

/-! ## Starting (R388, R402, R409) -/

/-- R254: the owner kind of an operation's fenced source. -/
def ownTackle : Nat := 5

/-- R388, R390, R409: an armed operation whose trigger counter has reached its threshold starts, whether its context
runs, is saved, or the module is halted; it waits for fence entries. -/
def State.startOp (s : State) (k opc : Nat) : State :=
  match s.ops.find? (fun o => o.op = k ∧ o.phase = .armed) with
  | none => s
  | some o =>
    let w := s.opWords o
    let n := s.collCore o.ctx
    if oOpc w = opc ∧ oThreshold w ≤ s.tackleOf (oTrig w) ∧ !s.ctxOver o.ctx ∧ (s.mode = .running ∨ s.mode = .halted) then
      let o := { o with
        phase := .reading
        counts := match s.dispatchOf w with
          | some d => if opc = 0x17 then d.counts else []
          | none => [] }
      let rs := s.opRanges o
      if s.fenceRoom n rs.length then
        let s := (s.fenceAdd n o.ctx ownTackle k rs).putOp o
        let i : AeItem := { num := k, ctx := o.ctx, plan := o.src, words := w, sizes := [], started := true }
        (s.modCore n (fun c => { c with queues := kmod [] c.queues collQueue (fun l => l ++ [i]) })).runOp o
      else s.fenceWait n
    else s

/-- BARRIER (R392, R395). -/
def execBarrier (op : Nat) (s : State) : Res := .next (s.startOp op 0x01)
/-- SCALAR_ALLREDUCE (R394). -/
def execScalarAllreduce (op : Nat) (s : State) : Res := .next (s.startOp op 0x02)
/-- ALL_REDUCE (R395). -/
def execAllReduce (op : Nat) (s : State) : Res := .next (s.startOp op 0x10)
/-- REDUCE_SCATTER (R395). -/
def execReduceScatter (op : Nat) (s : State) : Res := .next (s.startOp op 0x11)
/-- ALL_GATHER (R395). -/
def execAllGather (op : Nat) (s : State) : Res := .next (s.startOp op 0x12)
/-- BROADCAST (R395). -/
def execBroadcast (op : Nat) (s : State) : Res := .next (s.startOp op 0x13)
/-- REDUCE (R395). -/
def execReduce (op : Nat) (s : State) : Res := .next (s.startOp op 0x14)
/-- ALL_TO_ALL (R395). -/
def execAllToAll (op : Nat) (s : State) : Res := .next (s.startOp op 0x15)
/-- MOE_DISPATCH (R406). -/
def execMoeDispatch (op : Nat) (s : State) : Res := .next (s.startOp op 0x16)
/-- MOE_COMBINE (R408). -/
def execMoeCombine (op : Nat) (s : State) : Res := .next (s.startOp op 0x17)
/-- SEND (R395). -/
def execSend (op : Nat) (s : State) : Res := .next (s.startOp op 0x20)
/-- RECV (R395). -/
def execRecv (op : Nat) (s : State) : Res := .next (s.startOp op 0x21)

/-! ## Receiving chunks (R399, R401, R403, R404) -/

/-- R401: does a header match what the operation expects. -/
def State.headerFits (s : State) (o : CollOp) (h : List Word) : Bool :=
  let w := s.opWords o
  let src := wfld h 1 31 16
  let k := wfld h 1 63 32
  let n := min chunkElems ((s.recvSpan o src).2 - chunkElems * k)
  wfld h 0 63 32 == o.seqNo % 2 ^ 32 && wfld h 0 31 16 == wfld (s.tackleList o.list) 0 63 48 &&
  wfld h 0 15 8 == chunkKind w && wfld h 0 7 3 == 0 && (s.expected_ o).contains (src, k) &&
  wfld h 1 15 0 == s.myRank (oSet w) && wd h 2 == s.reg bTell && wfld h 3 63 32 == chunkLength w n

/-- R391, R401, R415: a mismatch: the logs, then the context faults. -/
def State.collMismatch (s : State) (o : CollOp) (log2 log3 : Nat) : State :=
  let sig := s.signature o
  let a := BitVec.ofNat 64 log2
  let b := BitVec.ofNat 64 log3
  let s := (s.setReg (bColl + 0x20) (BitVec.ofNat 64 sig)).setReg (bColl + 0x28) (BitVec.ofNat 64 (sig >>> 64))
  let s := (s.setReg (bColl + 0x30) a).setReg (bColl + 0x38) b
  (s.flag (bColl + 0x10) 2).ctxFault o.ctx 0x05 a b

/-- R403: an unusable chunk is asked for again. -/
def State.askChunk (s : State) (o : CollOp) (src k : Nat) (injected : Bool) : State :=
  let w := s.opWords o
  let m := s.moduleOf (oSet w) src
  let s := (s.flag (bColl + 0x10) 0).record { kind := 0x46, cls := 0, injected := injected }
  let s := s.putOp { o with asked := if o.asked.contains (src, k) then o.asked else (src, k) :: o.asked }
  (s.send { kind := .resendRequest, dest := m, words :=
    [BitVec.ofNat 64 o.seqNo, BitVec.ofNat 64 k, BitVec.ofNat 64 (s.myRank (oSet w))] }).freeMsg m 0

/-- R399, R506: what the residue check of an addition saw: may the sum stand, and the state after the events. -/
def State.pipeCheck (s : State) (c : Chk) : Bool × State :=
  let r := s.takeCheck (fun x => fld x 63 60 == 9)
  let k : Chk := match r.1 with
    | some x => forcedCheck 9 x
    | none => c
  let one := fun (t : State) =>
    ((t.flag (bColl + 0x10) 5).count (bColl + 0x128) 1).record { kind := 0x45, cls := 0, injected := r.1.isSome }
  if k.fails = 0 then (true, r.2) else if k.fails = 1 then (true, one r.2) else (false, one (one r.2))

/-- R398, R401, R404: a verified chunk goes where it belongs. -/
def State.useChunk (s : State) (o : CollOp) (m : ChunkMsg) : State :=
  let w := s.opWords o
  let src := wfld m.header 1 31 16
  let k := wfld m.header 1 63 32
  let a := chunkElems * k
  let n := min chunkElems ((s.recvSpan o src).2 - a)
  let len := wfld m.header 3 63 32
  let lost := bitAt (wd m.header 0) 0 && m.poison != [] && m.poison.all (fun b => b)
  let s := (s.count (bColl + 0x110) 1)
  let s := if lost then (s.flag (bColl + 0x10) 1).count (bColl + 0x120) 1 else s
  let o := { o with got := (src, k) :: o.got, asked := o.asked.filter (fun x => x ≠ (src, k)) }
  if reduces (oOpc w) then
    let c := s.pipeCheck m.chk
    let bs := m.payload.take len
    let o := if chunkKind w = 1 then o.addPartials a n bs (if bitAt (wd m.header 0) 1 then m.payload.drop len else []) m.poison
      else o.addCodes w 0 false a (bytesElems (oFmt w) n bs m.poison)
    let o := if c.1 then o else { o with bad := (List.range n).map (fun i => a + i) ++ o.bad }
    let r := if c.2.chunkReady o k then c.2.finishChunk o k else (o, c.2)
    (r.2.putOp r.1).runOp r.1
  else
    let o := { o with writes := o.writes ++ s.placeElems o src a (bytesElems (oFmt w) n (m.payload.take len) m.poison) }
    (s.putOp o).runOp o

/-- R401: a chunk message for an operation in progress. -/
def State.chunkFor (s : State) (o : CollOp) (m : ChunkMsg) : State :=
  let src := wfld m.header 1 31 16
  let k := wfld m.header 1 63 32
  let a := s.takeLinkReq 3 (fun _ => true)
  if !m.crcOk || a.1.isSome then
    if (a.2.expected_ o).contains (src, k) && !(o.got.contains (src, k)) then a.2.askChunk o src k a.1.isSome else a.2
  else if !(a.2.headerFits o m.header) then
    a.2.collMismatch o (wd m.header 0).toNat (wd m.header 1).toNat
  else if o.got.contains (src, k) then a.2
  else a.2.useChunk o m

/-- R387: the list that holds operation `k`, with its context and plan. -/
def State.listOf (s : State) (k : Nat) : Option (Nat × Nat × Nat) :=
  ((List.range (wfld s.tackleSec 0 63 48)).find? (fun i =>
    let l := s.tackleList i
    decide (wfld l 0 47 32 ≤ k) && decide (k < wfld l 0 47 32 + wfld l 0 31 16))).map (fun i =>
      (i, wfld (s.tackleList i) 0 11 8, wfld (s.tackleList i) 0 15 12))

/-- R401: the operation that a chunk message names where none of it moves data: the latest armed, or one not armed at all. -/
def State.opNamed (s : State) (k : Nat) : Option CollOp :=
  match (s.ops.filter (fun o => o.op = k)).getLast? with
  | some o => some o
  | none => (s.listOf k).map (fun x => { op := k, list := x.1, ctx := x.2.1, src := x.2.2, plan := x.2.2, pidx := s.step.phase })

/-- R401: where a chunk message goes: to its operation, or to wait for the end of its phase 0; a chunk that an operation has
already is dropped, and any other that is good and not expected faults its context. -/
def State.chunkIn (s : State) (m : ChunkMsg) : State :=
  match s.ops.find? (fun o => o.op = m.op ∧ (o.phase = .moving ∨ o.phase = .phase0)) with
  | some o => if o.phase = .phase0 then s.putOp { o with early := o.early ++ [m] } else s.chunkFor o m
  | none =>
    match s.opNamed m.op with
    | some o =>
      if !m.crcOk || o.got.contains (wfld m.header 1 31 16, wfld m.header 1 63 32) || !s.mayFault o.ctx then s
      else s.collMismatch o (wd m.header 0).toNat (wd m.header 1).toNat
    | none => s

/-- CHUNK_RECEIVED (R401, R403). -/
def execChunkReceived (m : ChunkMsg) (s : State) : Res := .next (s.chunkIn m)

/-- R403: the operation a re-send request is for: its latest arming that has moved data. -/
def State.resendOp (s : State) (op : Nat) : Option CollOp :=
  (s.ops.filter (fun o => o.op = op ∧ (o.phase = .moving ∨ o.phase = .done ∨ o.phase = .failed))).getLast?

/-- R404: does a copy of a chunk stand: it is retained, and its context has not faulted. -/
def State.keepsCopy (s : State) (o : CollOp) (dest chunk : Nat) : Bool :=
  o.retained.contains (dest, chunk) && o.phase != .failed && (s.ctx o.ctx).state != 6

/-- RESEND_REQUEST (R402–R404): a retained copy is sent again; without one, or where it reads uncorrectable, the reply is
poisoned. -/
def execResendRequest (op chunk dest : Nat) (s : State) : Res :=
  match s.resendOp op with
  | none => .next s
  | some o =>
    if s.keepsCopy o dest chunk then
      let c := s.copyOk o dest chunk
      if c.1 then .next ((c.2.count (bColl + 0x118) 1).sendChunk o dest chunk true false)
      else .next (c.2.sendChunk o dest chunk true true)
    else .next (s.sendChunk o dest chunk true true)

/-! ## After phase 0 -/

/-- R355: writes value 0 of a run-time shape slot. -/
def State.putShape (s : State) (o : CollOp) (slot x : Nat) : State :=
  let b := wfld (s.planSec o.plan) 6 63 48
  match s.bufPa b ((slot - 1) * 32) with
  | some pa => s.writePa o.ctx 1 pa (plain (leBytes 4 x))
  | none => s

/-- R406, R407: what the owner of expert `e` writes besides rows: its count, its shape values, and how many rows
spill, of which each sets the flags. -/
def State.ownerCounts (s : State) (o : CollOp) (e : Nat) : CollOp × State :=
  let w := s.opWords o
  let x := s.expertRow w e
  let n := routedAll o (s.experts w) (s.setSize (oSet w)) e
  let spill := if oDrop w then 0 else n - x.2.2.1
  let v := s.view o.plan (oCntDesc w)
  let o := if oCntDesc w = 0xFFFF then o
    else { o with writes := o.writes ++ [v.piece [(indexOf v.plan x.2.1, (n % 2 ^ 32, 0x7F, false))]] }
  let s := (s.putShape o (oRts w + 2 * x.2.1) (min n x.2.2.1)).putShape o (oRts w + 2 * x.2.1 + 1) spill
  let s := (s.count (bColl + 0x130) spill).count (bFault + 0x100) spill
  (o, (List.range (min 2 spill)).foldl (fun t _ => (t.flag (bColl + 0x10) 4).flag (bFault + 0x08) 0) s)

/-- R407, R408: token and choice of this module's pairs that a dispatch drops. -/
def State.droppedPairs (s : State) (o : CollOp) (route : List CElem) : List (Nat × Nat) :=
  let w := s.opWords o
  let r := s.myRank (oSet w)
  let n := s.experts w
  if oDrop w then
    (List.range n).flatMap (fun e =>
      ((tokensOf (s.choices o) route e).zipIdx.filter (fun t =>
        (s.expertRow w e).2.2.1 ≤ routedBefore o n r e + t.2)).map (fun t => t.1))
  else []

/-- R406: an owner tells each member the offsets of its tokens. -/
def State.sayOffsets (s : State) (o : CollOp) (mine : List Nat) : State :=
  let w := s.opWords o
  let set := oSet w
  if mine = [] then s
  else ((List.range (s.setSize set)).filter (fun m => m ≠ s.myRank set)).foldl (fun t m =>
    t.sayTo o (s.moduleOf set m) (mine.map (fun e => BitVec.ofNat 64 (routedBefore o (s.experts w) m e)))) s

/-- R390, R406, R407: the start of a dispatch; one whose every count is 0 writes nothing. -/
def State.startDispatch (s : State) (o : CollOp) : CollOp × State :=
  let w := s.opWords o
  let r := s.myRank (oSet w)
  let mine := (List.range (s.experts w)).filter (fun e => (s.expertRow w e).1 = r)
  let x := if o.counts.all (· == 0) then (o, s) else
    mine.foldl (fun (t : CollOp × State) e => t.2.ownerCounts t.1 e) (o, s.sayOffsets o mine)
  let n := (s.droppedPairs o (s.routeOf o)).length
  (x.1, { x.2 with step := { x.2.step with drops := x.2.step.drops + n } })

/-- R408: +0 in the output slots and weights of pairs that were dropped. -/
def State.startCombine (s : State) (o : CollOp) : CollOp :=
  let w := s.opWords o
  match s.dispatchOf w with
  | none => o
  | some x =>
    let v := s.view o.plan (oDst w)
    let g := s.view o.src (oAux w)
    let d := (s.view o.src (oSrc w)).plan.getD 0 0
    let k := s.choices o
    { o with writes := o.writes ++ (s.droppedPairs x (s.routeOf x)).flatMap (fun t =>
        [v.piece ((v.span ((t.1 * k + t.2) * d) d).map (fun i => (i, (0, 0x7F, false)))),
         g.piece [(indexOf g.plan (t.1 * k + t.2), (0, 0x7F, false))]]) }

/-- R395, R398: this module's own contribution, or the part of its own source that it writes itself. -/
def State.ownShare (s : State) (o : CollOp) : CollOp × State :=
  let w := s.opWords o
  let r := s.myRank (oSet w)
  if reduces (oOpc w) then
    let base := s.resultBase o
    let o := o.addCodes w base true 0 ((o.own.drop base).take (s.resultCount o))
    ((List.range (chunksOfCount (s.resultCount o))).filter (s.chunkReady o)).foldl
      (fun (x : CollOp × State) k => x.2.finishChunk x.1 k) (o, s)
  else
    let es := match oOpc w with
      | 0x13 => if r = oRoot w then o.own.take (s.recvSpan o r).2 else []
      | 0x12 | 0x15 | 0x16 | 0x17 => s.sendElems o r
      | _ => []
    ({ o with writes := o.writes ++ s.placeElems o r 0 es }, s)

/-- R392: every member's words of a scalar operation, in ascending rank. -/
def State.memberWords (s : State) (o : CollOp) (members : List (List Word)) : List (List Nat) :=
  let set := oSet (s.opWords o)
  (List.range (s.setSize set)).map (fun m =>
    if m = s.myRank set then o.own.map (fun e => e.1) else (members.getD m []).map (fun x => x.toNat))

/-- R392: the value of the ring member at coordinate `x` of dimension `d` once the dimensions below are done: of a scalar
operation the words combined so far, the integers of an order-free sum before their rounding; else what phase 0 combines. -/
def State.ringValue (s : State) (o : CollOp) (ms : List (List Nat)) (d x : Nat) : List Word :=
  let w := s.opWords o
  let set := oSet w
  if oOpc w ≠ 0x02 then o.said
  else
    let ranks := (List.range ms.length).filter (fun m =>
      let u := s.moduleOf set m
      s.coord u d == x && ((s.setDims set).filter (fun e => d < e)).all (fun e => s.coord u e == s.coord s.moduleNo e))
    let emax := emaxOf (ms.flatMap (fun m => m.map layout64.decode))
    ((List.range o.own.length).flatMap (fun k =>
      let ws := ranks.map (fun m => (ms.getD m []).getD k 0)
      if oRedop w = 0 then
        let n := unsigned 128 ((ws.map (fun v => fixedOf emax (layout64.decode v))).foldl (· + ·) 0)
        [n % 2 ^ 64, n / 2 ^ 64]
      else [foldFirst (oRedop w) ws])).map (BitVec.ofNat 64)

/-- R392: the values that this module sends on in dimension `d`: its own where an earlier dimension has combined it, and those of
its ring that have not gone their whole way, at most floor(n/2) hops plus and the rest minus. -/
def State.sayRing (s : State) (o : CollOp) (ms : List (List Nat)) (first : Bool) (d : Nat) : State :=
  let n := s.torus d
  let x := s.coord s.moduleNo d
  let s := if first then s else s.sayBoth o d (s.ringValue o ms d x)
  let s := (List.range (n / 2 - 1)).foldl (fun t h =>
    t.sayTo o (t.near d false) (t.ringValue o ms d ((x + n - 1 - h) % n))) s
  (List.range ((n - 1) / 2 - 1)).foldl (fun t h => t.sayTo o (t.near d true) (t.ringValue o ms d ((x + 1 + h) % n))) s

/-- R392: what this module sends on in the whole exchange, dimension by dimension. -/
def State.sayRings (s : State) (o : CollOp) (members : List (List Word)) : State :=
  let ms := s.memberWords o members
  (s.ringDims (oSet (s.opWords o))).zipIdx.foldl (fun t x => t.sayRing o ms (x.2 == 0) x.1) s

/-- R394, R404: the results of a scalar operation; a word that is poisoned at a member is poisoned in the result. -/
def State.scalarDone (s : State) (o : CollOp) (members : List (List Word)) (poison : List Nat) : CollOp × State :=
  let w := s.opWords o
  let own := o.own.map (fun e => e.1)
  let ms := s.memberWords o members
  let emax := emaxOf (ms.flatMap (fun m => m.map layout64.decode))
  let rs := (List.range own.length).map (fun k => scalarResult (oRedop w) emax (ms.map (fun m => m.getD k 0)))
  let t := rs.foldl (fun a x => a.add x.2) (if oRedop w = 0 then
    own.foldl (fun (a : Tally) x => a.add (ftzOf emax (layout64.decode x))) {} else {})
  let bad := fun (k : Nat) => poison.contains k || (o.own.getD k (0, 0, false)).2.2
  let v := s.view o.plan (oDst w)
  ({ o with writes := [v.piece ((rs.zipIdx).map (fun x => (indexOf v.plan x.2, (x.1.1, 0x7F, bad x.2))))] },
    if oRedop w = 0 then s.collTally w t else s)

/-- R390, R395: an operation proceeds after its phase 0. -/
def State.proceed (s : State) (o : CollOp) (p : Phase0) : State :=
  let w := s.opWords o
  if oOpc w = 0x01 then (s.putOp o).runOp o
  else if oOpc w = 0x02 then
    let r := s.scalarDone o p.scalars p.poison
    (r.2.putOp r.1).runOp r.1
  else
    let d := if oOpc w = 0x16 then s.startDispatch o else if oOpc w = 0x17 then (s.startCombine o, s) else (o, s)
    let r := d.2.ownShare d.1
    let l := r.2.toSend r.1
    let o := { r.1 with retained := l, early := [] }
    let s := l.zipIdx.foldl (fun (t : State) x =>
      let m := t.chunkMsg o x.1.1 x.1.2 false false
      ((t.putStage o.ctx w x.2 (plain (wordsBytes m.1) ++ m.2)).count (bColl + 0x108) 1).sendChunk o x.1.1 x.1.2 false false)
      (r.2.putOp o)
    r.1.early.foldl (fun t m => t.chunkIn m) (s.runOp o)

/-- R390: the counts of phase 0 with this module's own in their place. -/
def State.allCounts (s : State) (o : CollOp) (cs : List Nat) : List Nat :=
  let w := s.opWords o
  let r := s.myRank (oSet w)
  if oOpc w = 0x17 then o.counts
  else
    let own := s.planCounts o
    let n := own.length
    (List.range (s.setSize (oSet w) * n)).map (fun i => if i / n = r then own.getD (i % n) 0 else cs.getD i 0)

/-- R390, R391, R397: phase 0 of an operation completes. A mismatch goes before an ending member, and both before an
over-count. -/
def State.phase0Done (s : State) (o : CollOp) (p : Phase0) : State :=
  let sig := s.signature o
  let diff := (p.sigAnd &&& sig) ^^^ (p.sigOr ||| sig)
  let late := s.ctxOver o.ctx
  let status := p.status ||| ((if s.overPlanned o then 1 else 0) + (if late then 2 else 0))
  let s := s.count (bColl + 0x138) 1
  let out := s.putOp { o with phase := .failed, early := [] }
  if diff ≠ 0 then out.collMismatch o (diff % 2 ^ 64) (diff >>> 64)
  else if status.testBit 1 then (if late then out else out.collMismatch o status 0)
  else if status.testBit 0 then (out.flag (bColl + 0x10) 3).ctxFault o.ctx 0x01
  else
    let s := s.sayRings o p.scalars
    let own := s.ownExpo o
    let n := max own.length p.exponents.length
    s.proceed { o with
      phase := .moving
      counts := s.allCounts o p.counts
      expo := (List.range n).map (fun i => expoJoin (own.getD i 0) (p.exponents.getD i 0)) } p

/-- PHASE0_COMPLETE (R390, R391). -/
def execPhase0Complete (op : Nat) (r : Phase0) (s : State) : Res :=
  match s.ops.find? (fun o => o.op = op ∧ o.phase = .phase0) with
  | none => .next s
  | some o => .next (s.phase0Done o r)

/-- COLLECTIVE_OP_COMPLETE (R86, R387, R402): every chunk is verified and written; DONE_CNT increments. The module's contributions to
the chunks that other members write count now. -/
def execCollectiveOpComplete (op : Nat) (s : State) : Res :=
  match s.ops.find? (fun o => o.op = op ∧ o.phase = .moving) with
  | none => .next s
  | some o =>
    let w := s.opWords o
    let n := s.collCore o.ctx
    if o.writes = [] ∧ (s.expected_ o).all (fun x => o.got.contains x) then
      let base := s.resultBase o
      let t := s.quantTally o (fun e => e < base || base + s.resultCount o ≤ e)
      let s := s.collTally w t
      let s := s.putOp { o with phase := .done, sums := [], specials := [], bad := [], asked := [] }
      let s := (s.fenceRetire n ownTackle op).modCore n (fun c => { c with
        queues := kmod [] c.queues collQueue (fun l => l.filter (fun i => i.num ≠ op)) })
      .next ((s.tackleAdd (oDone w) 1).count (bColl + 0x100) 1)
    else .next s

end Sys2Proof.Machine
end

