-- ==== Sys2Proof/Machine/Program.lean ====
section
/-! DEFINITION. The items of a plan's programs as the image gives them, with the loops around them and the tensor
descriptors they name at every iteration (R351–R354). -/
namespace Sys2Proof.Machine

/-- R353, R354: a loop around an item: its planned count, DESC_STRIDE and THR_STRIDE. -/
abbrev LoopAt := Nat × Nat × Nat

/-- An item of a program: its byte offset in its section, its core, its words, the loops around it from within, and
its number in the program. -/
structure ProgItem where
  off   : Nat
  core  : Nat
  words : List Word
  loops : List LoopAt
  num   : Nat

def ProgItem.op (i : ProgItem) : Nat := wfld i.words 0 63 56

/-- R352, R353: the items of a program with the loops around them. -/
def placeItems (core : Nat) : Nat → Nat → Nat → List LoopAt → List Word → List ProgItem
  | 0, _, _, _, _ => []
  | _, _, _, _, [] => []
  | k + 1, num, off, ls, w :: r =>
    let i := (w :: r).take (itemSize w)
    let op := fld w 63 56
    let next := if op = 0xE2 then (wfld i 1 63 32, wfld i 1 31 16, wfld i 1 15 0) :: ls
      else if op = 0xE3 then ls.drop 1 else ls
    ⟨off, core, i, ls, num⟩ :: placeItems core k (num + 1) (off + 8 * itemSize w) next ((w :: r).drop (itemSize w))

/-- R351: where the program of core `n` starts in its section. -/
def progOffset (ws : List Word) (n : Nat) : Nat := (wd ws ((wd ws 5).toNat / 8 + 2 * n)).toNat

/-- The items of core `n` in plan `p`. -/
def State.planItems (m : State) (p n : Nat) : List ProgItem :=
  let pr := m.program p n
  placeItems n pr.length 0 (progOffset (m.planSec p) n) [] pr

/-- The items of every core in plan `p`. -/
def State.allItems (m : State) (p : Nat) : List ProgItem := (List.range 128).flatMap (m.planItems p)

/-- R354: an index at every iteration of the loops around it, at planned counts; 0xFFFF is left alone. -/
def strided (ls : List LoopAt) (i : Nat) : List Nat :=
  if i = 0xFFFF then []
  else (ls.foldl (fun l f => l.flatMap (fun j => (List.range f.1).map (fun k => j + k * f.2.1))) [i]).eraseDups

/-- R354: the index fields of an item that name a source and that name a destination. -/
def sourceFields (op : Nat) : List (Nat × Nat) :=
  if op = 0x23 ∨ op = 0x2E then [(1, 16)] else if op < 0x2F then [(1, 48), (1, 16)] else if op = 0x30 then [(1, 48)]
  else if op = 0x40 then [(2, 48), (2, 32), (2, 0)] else if op = 0x48 then [(2, 48), (2, 32)] else []

def destFields (ws : List Word) : List (Nat × Nat) :=
  let op := wfld ws 0 63 56
  if op = 0x22 then [] else if op < 0x2F then [(1, 32)] else if op = 0x30 then [(1, 32)]
  else if op = 0x40 then [(2, 16)]
  else if op = 0x48 then (if wfld ws 0 50 48 ≤ 1 then [(2, 48)] else [(2, 32)]) ++ [(2, 16), (2, 0)] else []

/-- R354: the descriptor index fields of an item that its loops move. -/
def descFields (op : Nat) : List (Nat × Nat) :=
  if op < 0x20 then [] else if op < 0x2F then [(1, 48), (1, 32), (1, 16)] else if op = 0x30 then [(1, 48), (1, 32)]
  else if op = 0x40 ∨ op = 0x48 then [(2, 48), (2, 32), (2, 16), (2, 0)] else []

/-- R354: an item as it issues at every iteration of its loops, at planned counts. -/
def ProgItem.each (i : ProgItem) : List ProgItem :=
  (strided i.loops 0).map (fun k => { i with words := (descFields i.op).foldl (strideIndex k) i.words })

/-- The tensor descriptors that an item reads and that it writes, over every iteration. -/
def ProgItem.fieldsOf (i : ProgItem) (fs : List (Nat × Nat)) : List Nat :=
  if i.op < 0x20 ∨ 0x50 ≤ i.op then []
  else fs.flatMap (fun f => strided i.loops (wfld i.words f.1 (f.2 + 15) f.2))

def ProgItem.reads (i : ProgItem) : List Nat := i.fieldsOf (sourceFields i.op)
def ProgItem.writes (i : ProgItem) : List Nat := i.fieldsOf (destFields i.words)
def ProgItem.touches (i : ProgItem) : List Nat := i.reads ++ i.writes

/-- R273: the source and destination descriptors of the experts of a HOIST_EXPERT beyond the first. -/
def State.expertsOf (m : State) (p : Nat) (i : ProgItem) (lo : Nat) : List Nat :=
  if i.op = 0x29 then
    i.each.flatMap (fun x => (List.range (volume (m.view p (wfld x.words 1 31 16)).plan - 1)).map (fun e =>
      wfld x.words 1 (lo + 15) lo + e + 1))
  else []

/-- The tensor descriptors that an item reads and that it writes: those it names, those of an expert hoist's experts (R273), and
the table that a TABLE_LOAD loads (R153). -/
def State.readsOf (m : State) (p : Nat) (i : ProgItem) : List Nat :=
  i.reads ++ m.expertsOf p i 48 ++ (if i.op = 0xC9 then [wfld (m.tableDesc p (wfld i.words 0 15 0)) 3 63 48] else [])
def State.writesOf (m : State) (p : Nat) (i : ProgItem) : List Nat := i.writes ++ m.expertsOf p i 32
def State.touchesOf (m : State) (p : Nat) (i : ProgItem) : List Nat := m.readsOf p i ++ m.writesOf p i

end Sys2Proof.Machine
end

