-- ==== Sys2Proof/Machine/AccessCmd.lean ====
section
/-! DEFINITION. The commands of the access engine (R244–R281): issue, retire, hoist landing, prefetch, the release
of fenced writes, and remote reads. -/
namespace Sys2Proof.Machine

/-! ## Issue (R106, R230, R244, R248, R254, R255) -/

/-- The view whose sizes a run-time shape slot replaces (R355). -/
def State.shapedView (s : State) (ws : List Word) : View :=
  s.view s.plan (if aOp ws = 0x23 then aDst ws else aSrc ws)

/-- R230: do the core-store views of a descriptor lie in its context's partition. -/
def State.aeAllowed (s : State) (c : Nat) (ws : List Word) : Bool :=
  let ok := fun d => s.viewAllowed c (s.view s.plan d)
  (aOp ws == 0x23 || aOp ws == 0x2E || ok (aSrc ws)) && (aOp ws == 0x22 || ok (aDst ws)) &&
    (aIdx ws == 0xFFFF || ok (aIdx ws))

/-- R254: the core-store ranges that a STORE, a FURL or a FILL_FIFO reads. -/
def State.aeRanges (s : State) (ws : List Word) : List (Nat × Nat) :=
  let v := s.view s.plan (aSrc ws)
  if (aOp ws = 0x21 ∨ aOp ws = 0x22 ∨ aOp ws = 0x2A) ∧ v.space = 1 then v.ranges else []

/-- R69: where the rows of an operand view of a split-mantissa pass begin (true) and end (false) over the pass's K range:
the core-store bytes of digit plane 0 of their first and last elements; `rows` rows from `i0`, K from `k0`. -/
def State.rowCuts (s : State) (t i0 rows k0 k : Nat) : List (Nat × Bool) :=
  let v := s.view s.plan t
  let at_ := fun (j i : Nat) (b : Bool) => ((v.coords [j, i, 0]).map (fun c => ((v.bitAddr c).toNat / 8, b))).toList
  if v.fmt = .slice ∧ k ≠ 0 then (List.range rows).flatMap (fun r => at_ k0 (i0 + r) true ++ at_ (k0 + k - 1) (i0 + r) false)
  else []

/-- R69, R354: where the K ranges of the split-mantissa passes in the program of core `n` begin and end in its core store, at
every iteration of the loops around them. -/
def State.sliceCuts (s : State) (n : Nat) : List (Nat × Bool) :=
  (s.planItems s.plan n).flatMap (fun i =>
    let w := i.words
    if i.op = 0x40 ∧ wfld w 0 55 51 = 0x0D then
      (strided i.loops (wfld w 2 63 48)).flatMap (fun t => s.rowCuts t (wfld w 3 63 32) (wfld w 1 63 55) (wfld w 3 31 0) (wfld w 1 31 0)) ++
      (strided i.loops (wfld w 2 47 32)).flatMap (fun t => s.rowCuts t (wfld w 4 31 0) (wfld w 1 54 48) (wfld w 4 63 32) (wfld w 1 31 0))
    else [])

/-- R248, R293: the run-time sizes of which a zero makes a descriptor a no-op: those of a GATHER without its row count, whose rows
are the pad value when it is 0. -/
def clampedOut (ws : List Word) (sizes : List Nat) : List Nat :=
  if aOp ws = 0x24 then sizes.take (sizes.length - 1) else sizes

/-- R244–R248: issues an access-engine descriptor: refused above the planned shape, nothing to do on a size of
zero; it waits while its queue is full or the fence table lacks room; else it joins its queue and starts. -/
def State.issueAe (s : State) (d : Desc) : Res :=
  let n := d.core.val
  let c := d.ctx.val
  if s.mayIssue n c then
    let ws := s.issueWords d [(1, 48), (1, 32), (1, 16)]
    let q := aQueue ws
    if 32 ≤ (s.queue n q).length then .next s
    else
      let v := s.shapedView ws
      let r := s.shapeOf c s.plan (wfld ws 3 55 48) v.shape
      let s := r.2
      let sizes := v.opSizes r.1.1
      if r.1.2 then .next (s.ctxFault c 0x06)
      else if (List.zipWith (fun a b => decide (b < a)) r.1.1 v.shape).any (fun b => b) then .next (s.ctxFault c 0x01)
      else if (clampedOut ws sizes).any (· = 0) then .next (s.tackleAdd (aCnt ws) 1)
      else if !s.aeAllowed c ws then .next (s.ctxFault c 0x0A)
      else if !s.fenceRoom n (s.aeRanges ws).length then .next (s.fenceWait n)
      else
        let num := (s.core n).aeNum
        let i : AeItem := { num := num, ctx := c, plan := s.plan, words := ws, sizes := sizes, edge := v.opEdge r.1.1
                            cuts := if slices ws then s.sliceCuts n else [] }
        let s := (s.modCore n (fun k => { k with aeNum := num + 1 })).fenceAdd n c ownQueue num (s.aeRanges ws)
        let h := if aOp ws = 0x20 ∧ aHoist ws ≠ 0 then s.confirmHoist n i else (i, s)
        let s := h.2.modCore n (fun k => { k with queues := kmod [] k.queues q (fun l => l ++ [h.1]) })
        .next (s.runQueue n q)
  else .next s

/-- LOAD (R246, R250, R266, R427–R429). -/
def execLoad (d : Desc) (s : State) : Res := s.issueAe d
/-- STORE (R246, R250, R254). -/
def execStore (d : Desc) (s : State) : Res := s.issueAe d
/-- FILL_FIFO (R253). -/
def execFillFifo (d : Desc) (s : State) : Res := s.issueAe d
/-- DRAIN_FIFO (R253). -/
def execDrainFifo (d : Desc) (s : State) : Res := s.issueAe d
/-- GATHER (R259). -/
def execGather (d : Desc) (s : State) : Res := s.issueAe d
/-- ATOMIC_ADD (R260). -/
def execAtomicAdd (d : Desc) (s : State) : Res := s.issueAe d
/-- ATOMIC_MIN (R260). -/
def execAtomicMin (d : Desc) (s : State) : Res := s.issueAe d
/-- ATOMIC_MAX (R260). -/
def execAtomicMax (d : Desc) (s : State) : Res := s.issueAe d
/-- ATOMIC_AND (R260). -/
def execAtomicAnd (d : Desc) (s : State) : Res := s.issueAe d
/-- ATOMIC_OR (R260). -/
def execAtomicOr (d : Desc) (s : State) : Res := s.issueAe d
/-- ATOMIC_XOR (R260). -/
def execAtomicXor (d : Desc) (s : State) : Res := s.issueAe d
/-- HOIST (R265, R268–R271). -/
def execHoist (d : Desc) (s : State) : Res := s.issueAe d
/-- HOIST_EXPERT (R273). -/
def execHoistExpert (d : Desc) (s : State) : Res := s.issueAe d
/-- FURL (R276). -/
def execFurl (d : Desc) (s : State) : Res := s.issueAe d
/-- UNFURL (R276). -/
def execUnfurl (d : Desc) (s : State) : Res := s.issueAe d
/-- DEEP_FURL (R277). -/
def execDeepFurl (d : Desc) (s : State) : Res := s.issueAe d
/-- DEEP_UNFURL (R277). -/
def execDeepUnfurl (d : Desc) (s : State) : Res := s.issueAe d
/-- REMOTE_READ (R280). -/
def execRemoteRead (d : Desc) (s : State) : Res := s.issueAe d

/-! ## Retire (R247, R251, R254) -/

/-- R428: a version-checked load has loaded its shard in this step. -/
def State.noteGathered (s : State) (i : AeItem) : State :=
  let k := (s.shardKey i, (s.expected i.words).toNat)
  if aVchk i.words ∧ aOp i.words = 0x20 ∧ !s.step.gathered.contains k then
    { s with step := { s.step with gathered := s.step.gathered ++ [k] } }
  else s

/-- R246, R259: the elements that a descriptor writes along each dimension of its destination: a GATHER's rows are its
indices. -/
def State.writtenSizes (s : State) (i : AeItem) : List Nat :=
  if aOp i.words = 0x24 then i.sizes.take (i.sizes.length - 1) ++ [volume (s.view i.plan (aIdx i.words)).plan]
  else loadSizes i.words i.sizes

/-- R86, R251: the counts of a load that retires wait for the operation that reads its destination. -/
def State.loadCounts (s : State) (n : Nat) (i : AeItem) : State :=
  match aeSite i.words with
  | none => s
  | some site =>
    let v := (s.view i.plan (aDst i.words)).sized (s.writtenSizes i)
    if i.tally = ({} : Tally) then s
    else s.addDue n { ctx := i.ctx, site := site, fmt := (aDfmt i.words).code, tally := i.tally
                      ranges := if v.space = 1 then v.ranges else inMemory v.ranges }

/-- R86, R251: the loads into memory that a descriptor read count when it retires. -/
def State.consumeSource (s : State) (i : AeItem) : State :=
  let v := s.view i.plan (aSrc i.words)
  if aOp i.words ≠ 0x23 ∧ aOp i.words ≠ 0x2E ∧ v.space = 0 ∧ s.cores.any (fun x => !x.2.dues.isEmpty) then
    s.consumeMem i.ctx (v.sized i.sizes).ranges
  else s

/-- R179, R194: a memory-to-core-store read and a core-store-to-memory write of a descriptor that retires, as the traveller
buffers see them. -/
def State.trackItem (s : State) (i : AeItem) : State :=
  let src := s.view i.plan (aSrc i.words)
  let dst := s.view i.plan (aDst i.words)
  let r := src.footprint
  let w := (dst.sized (s.writtenSizes i)).ranges
  [false, true].foldl (fun t d =>
    let t := if aOp i.words ≠ 0x23 ∧ aOp i.words ≠ 0x2E ∧ src.space = 0 then t.trackRead d i.ctx r.1 r.2 else t
    if aOp i.words ≠ 0x22 ∧ dst.space = 0 then t.trackStored d i.ctx w else t) s

/-- AE_DESCRIPTOR_RETIRE (R247): the head of a queue, once finished, retires in order: its fence releases, the
counts of the loads it read are added, its own wait for a consumer, traveller buffers see what it read and wrote, and CNT_ID increments. -/
def execAeDescriptorRetire (core : Fin 128) (queue : Fin 8) (s : State) : Res :=
  let n := core.val
  let q := queue.val
  let s := s.runQueue n q
  match s.queue n q with
  | [] => .next s
  | i :: r =>
    if i.phase = .finished ∧ (s.ctx i.ctx).state = 2 then
      let s := s.modCore n (fun k => { k with queues := kset [] k.queues q r })
      let s := ((s.fenceRetire n ownQueue i.num).consumeSource i).loadCounts n i
      .next ((((s.noteGathered i).trackItem i).tackleAdd (aCnt i.words) 1).runQueue n q)
    else .next s

/-- R254: device-space writes to a core store land, oldest first, where no fence entry holds their word. -/
def State.landWrites (s : State) (n : Nat) : State :=
  s.devWrites.foldl (fun (t : State) x =>
    if x.1 = n ∧ !t.fenceHit n (8 * x.2.1) (8 * x.2.1 + 8) then
      { t with devWrites := t.devWrites.erase x }.csWrite n (8 * x.2.1) (plain (leBytes 8 x.2.2.toNat))
    else t) s

/-- FENCED_WRITE_RELEASE (R254): a write of the queue, or of device space, that waited for the retire fence goes on,
once no entry holds its range. -/
def execFencedWriteRelease (core : Fin 128) (queue : Fin 8) (s : State) : Res :=
  let n := core.val
  let s := s.landWrites n
  let s := s.modCore n (fun k => { k with
    queues := kmod [] k.queues queue.val (fun l => l.map (fun i => if i.phase = .fenced then { i with phase := .ready } else i)) })
  .next (s.runQueue n queue.val)

/-! ## Landing a hoist (R265, R266, R272) -/

/-- R265: what a hoist writes, from its source bytes. -/
def State.hoistBits (s : State) (h : Hoist) : (BitWrites × Tally × List (Nat × Int × Bool)) × State :=
  let i : AeItem := { num := h.num, ctx := h.ctx, plan := h.plan, words := h.words, sizes := h.sizes, edge := h.edge,
                      cuts := if slices h.words then s.sliceCuts h.core else []
                      slot := if aVchk h.words then (s.expected h.words).toNat % 2 else 0 }
  let u := s.loadXfer i 0 (List.range (volume (loadSizes h.words h.sizes)))
  let e := s.xferElems h.core u h.bytes
  let gs := u.convert e.1
  ((u.values gs, u.tally gs, u.lines gs), e.2)

/-- R266 condition 3: the version a hoist read. -/
def State.hoistVersion (s : State) (h : Hoist) : Word :=
  if aVchk h.words then
    let at_ := (s.slotOf (s.view h.plan h.src).base ((s.expected h.words).toNat % 2)).1
    BitVec.ofNat 64 (ofLeBytes ((Fetched.bytes h.bytes at_ 8).map (fun b => b.1)))
  else 0

/-- Replaces a hoist. -/
def State.putHoist (s : State) (h : Hoist) : State :=
  { s with hoists := s.hoists.map (fun (x : Hoist) => if x.order = h.order then h else x) }

/-- R265: the bytes of a hoist into a stack buffer by physical address; none when its destination no longer translates. -/
def State.hoistLines (s : State) (h : Hoist) (m : BitWrites) : Option (List (Nat × List PByte)) × State :=
  let ps := cutRuns (runsOf m)
  match s.xlateAll h.core h.ctx (ps.map (fun p => (p.1, true))) with
  | some b => (none, s.noteMiss h.core h.ctx b.1)
  | none =>
    let old := s.oldBytes h.core h.ctx m
    (some (ps.filterMap (fun p =>
      match old.2.translate h.core h.ctx p.1 true with
      | .stack pa _ _ => some (pa, mergedBytes m old.1 p.1 p.2)
      | _ => none)), old.2)

/-- R265, R271: lands a hoist whose source is all there: in the core store, or in unconfirmed lines of the chip cache. A miss
on its destination drops it and releases its entry (R268, R270). `false` when the retire fence holds it. -/
def State.landHoist (s : State) (h : Hoist) : Bool × State :=
  if !h.usable then (true, s.putHoist { h with landed := true })
  else
    let r := s.hoistBits h
    let m := r.1.1
    let v := s.hoistVersion h
    if (s.view h.plan h.dst).space = 1 then
      if (runsOf m).any (fun x => s.fenceHit h.core x.1 x.2) then (false, s)
      else
        let s := r.2.csPut h.core m
        let s := s.modCore h.core (fun c => { c with slices := r.1.2.2.foldl (fun l x => kput l x.1 x.2) c.slices })
        (true, s.putHoist { h with landed := true, version := v, tally := r.1.2.1 })
    else
      let l := r.2.hoistLines h m
      match l.1 with
      | none => (true, (l.2.endHoists (fun x => x.order == h.order)).dropHoist h.core)
      | some ls =>
        let s := l.2.putHoist { h with landed := true, version := v, tally := r.1.2.1 }
        (true, ls.foldl (fun t x => t.landPaN h.ctx h.order (x.2.length / 256 + 2) x.1 x.2) s)

/-- HOIST_LANDED (R265, R266): a hoist whose reads have all returned lands unconfirmed; its descriptor and the LOADs
that wait for it go on. -/
def execHoistLanded (core : Fin 128) (hoist : Nat) (s : State) : Res :=
  match s.hoists.find? (fun h => h.core == core.val && h.id == hoist && !h.landed) with
  | none => .next s
  | some h =>
    if (s.ctx h.ctx).state ≠ 2 then .next s
    else if h.need ≠ [] ∨ 0 < h.wait then .next (s.pumpHoist h)
    else
      let r := s.landHoist h
      if r.1 then .next ((r.2.decideConfirms h.ctx h.id).runEngines) else .next r.2

/-! ## Prefetch (R256–R258) -/

/-- R262: read trackers of a core's access engine in use: none while it holds no descriptor or hoist that reads, else a sampled
number. -/
def State.trackers (s : State) (n : Nat) : Nat :=
  let reads := fun (i : AeItem) => i.started && !(i.phase == .finished || i.phase == .parked || i.phase == .fenced)
  if (s.core n).queues.any (fun q => q.1 < 8 && q.2.any reads) || s.hoists.any (fun h => h.core == n && !h.landed)
  then Config.feederSample 3 n s.time.now % 641 else 0

/-- R257: are at least 128 of the 640 read trackers free. -/
def State.trackersFree (s : State) (n : Nat) : Bool := s.trackers n ≤ 512

/-- R257: a dropped prefetch. -/
def State.dropPrefetch (s : State) (n : Nat) : State := (s.count (bAe n + 0x118) 1).flag (bAe n + 0x18) 0

/-- R256: prefetches the 256-B lines of address pieces until `left` bytes are covered or a page permits no
run-ahead. -/
def State.runAhead (s : State) (n c : Nat) : Nat → List (Nat × Nat) → State
  | _, [] => s
  | left, p :: r =>
    if left = 0 then s
    else
      match s.translate n c p.1 false with
      | .stack pa policy ra =>
        if ra then
          let m := min left p.2
          let lines := (pa % 256 + m + 255) / 256
          let s := (List.range lines).foldl (fun t k => (t.readInLine c policy (pa / 256 * 256 + 256 * k) 256).2) s
          ((s.count (bAe n + 0x110) lines).count (bAe n + 0x100) (256 * lines)).runAhead n c (left - m) r
        else s
      | .host _ _ => s
      | _ => ((s.noteMiss n c p.1).dropPrefetch n).runAhead n c (left - min left p.2) r

/-- RUN_AHEAD_PREFETCH (R256, R257): a LOAD or FILL_FIFO whose start waits on a tackle counter prefetches its source
into the chip cache. -/
def execRunAheadPrefetch (d : Desc) (s : State) : Res :=
  let n := d.core.val
  let c := d.ctx.val
  let ws := s.issueWords d [(1, 48), (1, 32), (1, 16)]
  let v := s.view s.plan (aSrc ws)
  let ra := wfld ws 3 31 27
  let waits := (kget {} (s.core n).seqs c).waitCnt.isSome
  if (s.ctx c).state = 2 ∧ !s.fenced n ∧ s.trackersFree n ∧ waits ∧ (aOp ws = 0x20 ∨ aOp ws = 0x22) ∧ ra ≠ 0 ∧ v.space = 0 then
    let is := (List.range (min (volume v.plan) (2 ^ ra * 8 / v.fmt.width))).map (indexOf v.plan)
    let ps := cutRuns (runsOf (v.reads is))
    -- R326: without credit a prefetch waits for the next refill, and the command may come again
    match s.drawCredit c (piecesLen ps) with
    | some t => .next (t.runAhead n c (2 ^ ra) ps)
    | none => .next (s.count (bXl + 0x838) 1)
  else .next s

/-- R258, R310: the base of the page that a core's TLB maps an address in. -/
def State.pageOf (s : State) (n c va : Nat) : Option Nat :=
  (s.tlbFind n (s.ctx c).asid (va % 2 ^ 57)).map (fun e => e.base)

/-- R258: the lines the stream prefetcher fetches, in order, from the page at `page` on; it stops at the next page where that
permits no run-ahead. -/
def State.streamAhead (s : State) (n c : Nat) (page : Option Nat) : Nat → Nat → State
  | _, 0 => s
  | va, k + 1 =>
    match s.translate n c va false with
    | .stack pa policy ra =>
      if (s.pageOf n c va ≠ page ∧ !ra) ∨ policy ≠ 0 then s
      else
        let s := if (s.findKLine n pa).isSome then s
          else ((s.fillKLine n c pa).2.count (bAe n + 0x110) 1).count (bAe n + 0x100) 128
        s.streamAhead n c (s.pageOf n c va) (va + 128) k
    | .host _ _ => s
    | _ => (s.noteMiss n c va).dropPrefetch n

/-- R258: were the last two misses of a queue's policy-0 loads at consecutive lines, the second of them the line of `va`. -/
def State.streamSeen (s : State) (n q c va : Nat) : Bool :=
  match s.translate n c va false with
  | .stack pa policy _ =>
    let m := kget (0, 0) (s.core n).misses q
    policy == 0 && m.2 == pa / 128 && m.2 == m.1 + 1
  | _ => false

/-- STREAM_PREFETCH (R257, R258, R262): after two misses at consecutive lines, the second at `va`, of a queue's policy-0
loads, the next SPF_DEPTH lines. -/
def execStreamPrefetch (core : Fin 128) (queue : Fin 8) (va : Nat) (s : State) : Res :=
  let n := core.val
  let ctl := s.reg (bAe n + 0x10)
  match s.queue n queue with
  | [] => .next s
  | i :: _ =>
    if bitAt ctl 0 && (s.ctx i.ctx).state == 2 && s.trackersFree n && s.streamSeen n queue i.ctx va then
      let depth := max 1 (fld ctl 4 1)
      match s.drawCredit i.ctx (128 * depth) with
      | some t => .next (t.streamAhead n i.ctx (s.pageOf n i.ctx va) ((va / 128 + 1) * 128) depth)
      | none => .next (s.count (bXl + 0x838) 1)
    else .next s

/-! ## Remote reads (R280, R281) -/

/-- Reads a range of a placed buffer by virtual address, 4 KiB at most a piece, for CTX0. -/
def State.readVa (s : State) (b : List Word) : Nat → Nat → Nat → List PByte × State
  | 0, _, _ => ([], s)
  | k + 1, va, len =>
    if len = 0 then ([], s)
    else
      let m := min len (4096 - va % 4096)
      let rel := va - (wd b 1).toNat
      let pitch := (wd b 3).toNat
      let r := s.readBuf 0 (wfld b 0 63 48) (rel / pitch * (wd b 2).toNat + rel % pitch) m
      let t := r.2.readVa b k (va + m) (len - m)
      (r.1 ++ t.1, t.2)

/-- R280, R349: the exported buffer that holds a range. -/
def State.exportedAt (s : State) (va len : Nat) : Option (List Word) :=
  match s.bufferAt va with
  | none => none
  | some b =>
    let rel := (va - (wd b 1).toNat) % (wd b 3).toNat
    if bitAt (wd b 0) 27 ∧ rel + len ≤ (wd b 2).toNat ∧ len ≤ 65536 then some b else none

/-- REMOTE_READ_REQUEST_RECEIVED (R280, R281): the owner answers with the range and its poison, or refuses one that it
does not export. -/
def execRemoteReadRequestReceived (r : RemoteReq) (s : State) : Res :=
  match (if s.mode = .running ∨ s.mode = .halted then s.exportedAt r.va r.length else none) with
  | none => .next ((s.send { kind := .remoteResponse, dest := r.module, status := 0x0A }).freeMsg r.module 3)
  | some b =>
    let x := s.readVa b (r.length / 4096 + 2) r.va r.length
    .next ((x.2.send { kind := .remoteResponse, dest := r.module, bytes := x.1.map (fun y => y.1),
                       words := x.1.map (fun y => if y.2 then 1 else 0) }).freeMsg r.module 3)

/-- REMOTE_READ_RESPONSE (R280, R281): data lands with its poison; a failed CRC is requested once more; a refusal, or a
second failure, faults the context. -/
def execRemoteReadResponse (core : Fin 128) (r : RemoteResp) (s : State) : Res :=
  let n := core.val
  let q := r.queue.val
  match (s.queue n q).find? (fun i => aOp i.words == 0x2E && i.vstage == 1) with
  | none => .next s
  | some i =>
    if r.noRoute then .next (s.ctxFault i.ctx 0x11)
    else if r.refused || (!r.crcOk && i.tries == 1) then .next ((s.flag (bAe n + 0x18) 5).ctxFault i.ctx 0x0A)
    else if !r.crcOk then
      let s := s.putItem n q { i with tries := 1 }
      .next (s.askRemote (wfld i.words 6 63 48) (s.view i.plan (aSrc i.words)) i.sizes)
    else
      let bs := r.data.zipIdx.map (fun b => (b.1, r.poison.getD (b.2 / 8) false))
      .next ((s.putItem n q { i with vstage := 2, host := [(0, bs)] }).runEngines)

end Sys2Proof.Machine
end

