-- ==== Sys2Proof/Machine/Vector.lean ====
section
/-! DEFINITION. Vector-engine instructions (R129–R142). -/
namespace Sys2Proof.Machine

/-- R133: the fields of a VE or SFE instruction. -/
structure VeF where
  fmt   : Fmt
  sat   : Bool
  dst   : Nat
  src1  : Nat
  src2  : Nat
  src3  : Nat
  sfmt  : Fmt
  group : Nat
  imm   : Nat

/-- R133: decodes an instruction word. -/
def veFields (w : Word) : VeF :=
  { fmt := (Fmt.ofCode (fld w 55 51)).getD .fp32
    sat := bitAt w 50
    dst := fld w 49 44
    src1 := fld w 43 38
    src2 := fld w 37 32
    src3 := fld w 31 26
    sfmt := (Fmt.ofCode (fld w 25 21)).getD .fp32
    group := fld w 20 16
    imm := fld w 15 0 }

/-! ## Registers -/

def Core.vreg (c : Core) (k : Nat) : VReg := kget VReg.zero c.vregs k
def State.vreg (s : State) (n k : Nat) : VReg := (s.core n).vreg k
def State.setVreg (s : State) (n k : Nat) (r : VReg) : State :=
  s.modCore n (fun c => { c with vregs := kset VReg.zero c.vregs k r })

/-- R130: the registers that hold an operand of a format. -/
def regsOf (f : Fmt) (k : Nat) : List Nat := if f = .fp64 then [k, k + 1] else [k]

/-- R130, R132: the elements of an operand. -/
def State.elems (s : State) (n : Nat) (f : Fmt) (k : Nat) : List Nat :=
  elemsOf f (s.vreg n k).lanes (s.vreg n (k + 1)).lanes

/-- Clean register contents. -/
def cleanReg (ls : List Nat) : VReg := ⟨ls, List.replicate 256 false⟩

/-- The registers an instruction writes with the elements of its destination; what a packed format leaves of the register is
0 (log entry 209). -/
def regWrites (f : Fmt) (dst : Nat) (es : List Nat) : List (Nat × VReg) :=
  let p := lanesOf f es
  if f = .fp64 then [(dst, cleanReg p.1), (dst + 1, cleanReg p.2)] else [(dst, cleanReg p.1)]

/-- R131: does any lane of some registers carry poison. -/
def State.poisonIn (s : State) (n : Nat) (ks : List Nat) : Bool :=
  ks.any (fun k => (s.vreg n k).poison.any (fun b => b))

/-! ## Issue, check, retire -/

/-- What an instruction does at retire: register writes, counts of one conversion site and format,
counts of the fills it consumes by format code, vectors pushed to the row-scale FIFO and to an output FIFO, and running
maxima of an online softmax. -/
structure VeOut where
  writes : List (Nat × VReg) := []
  site   : Nat := 0
  fmt    : Fmt := .fp32
  tally  : Tally := {}
  dues   : List (Nat × Tally) := []
  scale  : List (List Nat) := []
  queue  : Nat := 0
  out    : List VReg := []
  maxima : List Nat := []

/-- FP32 −Inf. -/
def fpNegInf : Nat := 0xFF800000

/-- R440: the greatest of some FP32 values, under R396 REDOP 6. -/
def maxLogit (a : Nat) (l : List Nat) : Nat := l.foldl (fpMax .fp32) a

/-- R440: the maxima that core `n` holds for the attention entries, with those of an online softmax step of context `x` in
phase `p`, if it is one (log entry 97). As a running maximum never falls, the greatest of every step is that of the final
ones (R189). -/
def Core.noted (c : Core) (p n x : Nat) (l : List Nat) : KMap Nat :=
  if l = [] then c.logits
  else kmod fpNegInf c.logits (Config.attnEntry p n (kget {} c.seqs x).steps) (fun m => maxLogit m l)

/-- R440: the sequencers of a core after an online softmax step of context `x`, if it is one. -/
def Core.stepped (c : Core) (x : Nat) (l : List Nat) : KMap Seq :=
  if l = [] then c.seqs else kmod {} c.seqs x (fun q => { q with steps := q.steps + 1 })

/-- R131, R161: an instruction that reads poison faults its context; nothing of it is written. -/
def State.vePoison (s : State) (n c : Nat) (sfe : Bool) : State :=
  (s.flag ((checkRegs sfe n).event) (if sfe then 3 else 4)).ctxFault c 0x06

/-- R158, R160, R167, R170: what leaves an engine at retire; one engine counts (log entry 212). -/
def State.veRetire (s : State) (n ctx : Nat) (sfe : Bool) (o : VeOut) : State :=
  let s := o.writes.foldl (fun t w => t.setVreg n w.1 w.2) s
  let s := s.modCore n (fun c => { c with
    rsFifo := c.rsFifo ++ o.scale.map (fun v => (v, false))
    fifos := if o.out = [] then c.fifos else kmod [] c.fifos o.queue (fun q => q ++ o.out)
    logits := c.noted s.step.phase n ctx o.maxima
    seqs := c.stepped ctx o.maxima
    veCtx := ctx })
  let s := if o.tally = {} then s else s.addTally o.site o.fmt o.tally
  let s := s.addDues o.dues
  if sfe then s.count (bSfe n + 0x100) 256 else s.count (bVe n + 0x100) 1

/-- R353, R148, R139: may the core's vector engines take another instruction of context `c`. -/
def State.veReady (s : State) (n c : Nat) : Bool :=
  s.mayIssue n c && (s.core n).routine.isNone

/-- R131, R157–R160: issues an instruction of `steps` checker steps: poison faults, else checks, else `o`
retires. -/
def State.veIssue (s : State) (v : VeOp) (sfe tree : Bool) (steps : Nat) (poison : Bool) (o : VeOut) : State :=
  if poison then s.vePoison v.core v.ctx sfe
  else
    let r := s.issueSteps v.core sfe tree (fld v.word 63 56) steps v.chk
    if r.1 then r.2.veRetire v.core v.ctx sfe o else r.2

/-- An instruction over whole source registers with nothing to wait for. -/
def State.veSimple (s : State) (v : VeOp) (sfe tree : Bool) (used : List Nat) (o : VeOut) : Res :=
  .next (if s.veReady v.core v.ctx && (s.core v.core).stream.isEmpty then
    s.veIssue v sfe tree 1 (s.poisonIn v.core used) o else s)

/-- R57, R294: with SAT a BF16 result that overflows from finite operands is the largest finite value. -/
def bfSat (w : VeF) (ops : List Nat) (r : Nat) : Nat :=
  if w.fmt = .bf16 ∧ w.sat ∧ (layoutBf.decode r).isInf ∧ ops.all (fun x => (layoutBf.decode x).isFin) then
    r % 2 ^ 16 - 1
  else r

/-- R135: elementwise with one source. -/
def State.veUnary (s : State) (v : VeOp) (f : Fmt → Nat → Nat) : Res :=
  let w := veFields v.word
  s.veSimple v false false (regsOf w.fmt w.src1)
    { writes := regWrites w.fmt w.dst ((s.elems v.core w.fmt w.src1).map (fun a => bfSat w [a] (f w.fmt a))) }

/-- R135: elementwise with two sources. -/
def State.veBinary (s : State) (v : VeOp) (f : Fmt → Nat → Nat → Nat) : Res :=
  let w := veFields v.word
  s.veSimple v false false (regsOf w.fmt w.src1 ++ regsOf w.fmt w.src2)
    { writes := regWrites w.fmt w.dst
        (List.zipWith (fun a b => bfSat w [a, b] (f w.fmt a b))
          (s.elems v.core w.fmt w.src1) (s.elems v.core w.fmt w.src2)) }

/-- R135: elementwise with three sources. -/
def State.veTernary (s : State) (v : VeOp) (f : Fmt → Nat → Nat → Nat → Nat) : Res :=
  let w := veFields v.word
  s.veSimple v false false (regsOf w.fmt w.src1 ++ regsOf w.fmt w.src2 ++ regsOf w.fmt w.src3)
    { writes := regWrites w.fmt w.dst
        (List.zipWith (fun g c => g c)
          (List.zipWith (fun a b c => bfSat w [a, b, c] (f w.fmt a b c)) (s.elems v.core w.fmt w.src1) (s.elems v.core w.fmt w.src2))
          (s.elems v.core w.fmt w.src3)) }

/-! ## Elementwise instructions (R135, R136) -/

/-- ADD (R135). -/
def execAdd (v : VeOp) (s : State) : Res := s.veBinary v addBits
/-- SUB (R135). -/
def execSub (v : VeOp) (s : State) : Res := s.veBinary v subBits
/-- MUL (R135). -/
def execMul (v : VeOp) (s : State) : Res := s.veBinary v mulBits
/-- FMA (R135). -/
def execFma (v : VeOp) (s : State) : Res := s.veTernary v fmaBits
/-- FMS (R135). -/
def execFms (v : VeOp) (s : State) : Res := s.veTernary v fmsBits
/-- DIV (R135, R136). -/
def execDiv (v : VeOp) (s : State) : Res := s.veBinary v divBits
/-- SQRT (R135). -/
def execSqrt (v : VeOp) (s : State) : Res := s.veUnary v sqrtBits
/-- MIN (R136). -/
def execMin (v : VeOp) (s : State) : Res := s.veBinary v minBits
/-- MAX (R136). -/
def execMax (v : VeOp) (s : State) : Res := s.veBinary v maxBits
/-- ABS (R136). -/
def execAbs (v : VeOp) (s : State) : Res := s.veUnary v absBits
/-- NEG (R136). -/
def execNeg (v : VeOp) (s : State) : Res := s.veUnary v negBits
/-- RINT (R135). -/
def execRint (v : VeOp) (s : State) : Res := s.veUnary v rintBits

/-- SCALB (R135): SRC2 is one INT32 register; both BF16 elements of a lane take that lane. -/
def execScalb (v : VeOp) (s : State) : Res :=
  let w := veFields v.word
  let ks := (s.vreg v.core w.src2).lanes
  s.veSimple v false false (regsOf w.fmt w.src1 ++ [w.src2])
    { writes := regWrites w.fmt w.dst ((s.elems v.core w.fmt w.src1).zipIdx.map (fun e =>
        bfSat w [e.1] <| scalbBits w.fmt e.1 (ks.getD (if w.fmt = .bf16 then e.2 / 2 else e.2) 0))) }

/-- CMP (R135): the relation is IMM16[2:0]. -/
def execCmp (v : VeOp) (s : State) : Res :=
  let w := veFields v.word
  s.veBinary v (fun f a b => cmpBits f (w.imm % 8) a b)

/-- R135: the selector of element `i` in the lanes of SRC3. -/
def selector (f : Fmt) (ls : List Nat) (i : Nat) : Bool :=
  match f with
  | .bf16 => (ls.getD (i / 2) 0) / 2 ^ (16 * (i % 2)) % 2 ^ 16 != 0
  | _ => ls.getD i 0 != 0

/-- R135: the layout by which SEL selects: per 32-bit lane for formats narrower than 16 bits. -/
def selFmt (f : Fmt) : Fmt := if f.width < 16 then .fp32 else f

/-- R131: does SEL use a poisoned lane: one of SRC3, or one of the source selected in that lane. -/
def State.selPoison (s : State) (n : Nat) (w : VeF) : Bool :=
  let f := selFmt w.fmt
  let z := s.vreg n w.src3
  let per := if f = .bf16 then 2 else 1
  z.poison.any (fun b => b) || (List.range 256).any (fun i =>
    let bad := fun k => (regsOf f k).any (fun r => (s.vreg n r).poison.getD i false)
    (List.range per).any (fun j =>
      if selector f z.lanes (per * i + j) then bad w.src1 else bad w.src2))

/-- SEL (R131, R135). -/
def execSel (v : VeOp) (s : State) : Res :=
  let w := veFields v.word
  let f := selFmt w.fmt
  let z := (s.vreg v.core w.src3).lanes
  let es := (List.zipWith (fun a b => (a, b)) (s.elems v.core f w.src1) (s.elems v.core f w.src2)).zipIdx.map
    (fun e => if selector f z e.2 then e.1.1 else e.1.2)
  .next (if s.veReady v.core v.ctx && (s.core v.core).stream.isEmpty then
    s.veIssue v false false 1 (s.selPoison v.core w) { writes := regWrites f w.dst es } else s)

/-! ## Conversion (R132) -/

/-- The FP32 value of constant slot `k` of the running plan (R351). -/
def State.constFp32 (s : State) (k : Nat) : Nat := fld (s.const s.plan k) 31 0

/-- Replaces `n` elements of a list from `at_`. -/
def putElems (old : List Nat) (at_ : Nat) (new : List Nat) : List Nat := splice old at_ new

/-- R132: source elements of a CVT with the scale of each. -/
def State.cvtSource (s : State) (n : Nat) (w : VeF) (from_ k : Nat) : List (Nat × Nat) :=
  let es := ((s.elems n w.sfmt w.src1).drop from_).take k
  let sc := elemsOf .int8 (s.vreg n w.src2).lanes []
  es.zipIdx.map (fun e => (e.1, if w.sfmt.isMx then sc.getD ((from_ + e.2) / 32) 0x7F else 0x7F))

/-- R132: the registers a CVT writes and its counts. -/
def State.cvtOut (s : State) (n : Nat) (w : VeF) : VeOut :=
  let seg := w.imm % 8
  let k := cvtCount w.sfmt w.fmt
  let c := w.imm / 256
  let readAll := w.fmt.width < 16 || elemCount w.sfmt ≤ elemCount w.fmt
  let srcFrom := if readAll then 0 else seg * k
  let src := s.cvtSource n w srcFrom k
  let put := fun es =>
    if elemCount w.fmt ≤ k then es else putElems (s.elems n w.fmt w.dst) (seg * k) es
  if w.fmt.isMx then
    let r := cvtMx w.fmt (k / 32) (src.map (fun e => w.sfmt.decodeScaled e.2 e.1))
    let img := elemsOf .int8 (s.vreg n (w.dst + 1)).lanes []
    { writes := regWrites w.fmt w.dst (put r.1) ++
        regWrites .int8 (w.dst + 1) (putElems img (seg * k / 32) r.2.1)
      site := 4, fmt := w.fmt, tally := r.2.2 }
  else
    let rs := src.map (fun e =>
      cvtElem w.sfmt w.fmt w.sat (s.constFp32 c) (s.constFp32 (c + 1)) (s.constFp32 (c + 2)) e.2 e.1)
    { writes := regWrites w.fmt w.dst (put (rs.map (fun r => r.1)))
      site := 4, fmt := w.fmt, tally := rs.foldl (fun t r => t.add r.2) {} }

/-- R131: a register that keeps elements keeps the poison of the lanes it keeps. -/
def keepPoison (old : VReg) (lo hi : Nat) (new : VReg) : VReg :=
  { new with poison := old.poison.zipIdx.map (fun b => if lo ≤ b.2 ∧ b.2 < hi then false else b.1) }

/-- R132: the writes of a CVT with the poison of the elements it keeps. -/
def State.cvtKeep (s : State) (n : Nat) (w : VeF) (o : VeOut) : VeOut :=
  let seg := w.imm % 8
  let k := cvtCount w.sfmt w.fmt
  if elemCount w.fmt ≤ k then
    { o with writes := o.writes.map (fun x =>
        if w.fmt.isMx ∧ x.1 = w.dst + 1 then
          (x.1, keepPoison (s.vreg n x.1) (seg * k / 128) ((seg + 1) * k / 128) x.2) else x) }
  else
    { o with writes := o.writes.map (fun x =>
        let u := if w.fmt.isMx ∧ x.1 = w.dst + 1 then k / 128 else k * w.fmt.width / 32
        (x.1, keepPoison (s.vreg n x.1) (seg * u) ((seg + 1) * u) x.2)) }

/-- CVT (R132, R57–R61). -/
def execCvt (v : VeOp) (s : State) : Res :=
  let w := veFields v.word
  let used := regsOf w.sfmt w.src1 ++ (if w.sfmt.isMx then [w.src2] else [])
  s.veSimple v false false used (s.cvtKeep v.core w (s.cvtOut v.core w))

/-! ## Integer instructions (R135) -/

/-- IADD (R135). -/
def execIadd (v : VeOp) (s : State) : Res := s.veBinary v (fun _ a b => iaddBits a b)
/-- ISUB (R135). -/
def execIsub (v : VeOp) (s : State) : Res := s.veBinary v (fun _ a b => isubBits a b)
/-- IMUL (R135). -/
def execImul (v : VeOp) (s : State) : Res := s.veBinary v (fun _ a b => imulBits a b)
/-- AND (R135). -/
def execAnd (v : VeOp) (s : State) : Res := s.veBinary v (fun _ a b => a &&& b)
/-- OR (R135). -/
def execOr (v : VeOp) (s : State) : Res := s.veBinary v (fun _ a b => a ||| b)
/-- XOR (R135). -/
def execXor (v : VeOp) (s : State) : Res := s.veBinary v (fun _ a b => a ^^^ b)
/-- SHL (R135). -/
def execShl (v : VeOp) (s : State) : Res := s.veBinary v (fun _ a b => shlBits a b)
/-- SHR (R135). -/
def execShr (v : VeOp) (s : State) : Res := s.veBinary v (fun _ a b => shrBits a b)
/-- IMIN (R135). -/
def execImin (v : VeOp) (s : State) : Res := s.veBinary v (fun _ a b => minBits .int32 a b)
/-- IMAX (R135). -/
def execImax (v : VeOp) (s : State) : Res := s.veBinary v (fun _ a b => maxBits .int32 a b)

/-! ## Queues and moves (R135, R253) -/

/-- R161: an instruction waits on an input FIFO, or on the row-scale FIFO. -/
def State.waitIn (s : State) (n : Nat) : State :=
  (s.count (bVe n + 0x110) 1).setRfld (bVe n + 0x08) 1 1 1
def State.waitScale (s : State) (n : Nat) : State :=
  (s.count (bVe n + 0x118) 1).setRfld (bVe n + 0x08) 2 2 1

/-- LDQ (R131, R135, R253): pops a vector, two for an FP64 pair (log entry 208), with their poison. -/
def execLdq (v : VeOp) (s : State) : Res :=
  let w := veFields v.word
  let ks := regsOf w.fmt w.dst
  if s.veReady v.core v.ctx && (s.core v.core).stream.isEmpty then
    let q := s.fifo v.core w.imm
    if q.length < ks.length then .next (s.waitIn v.core)
    else
      let p := s.popFifo v.core w.imm ks.length
      .next ((p.2.veIssue v false false 1 false
        { writes := List.zipWith (fun k r => (k, r)) ks q, dues := p.1 }).runCore v.core)
  else .next s

/-- STQ (R131, R135, R246): pushes a vector, two for an FP64 pair, and waits while its FIFO of eight lacks
room. -/
def execStq (v : VeOp) (s : State) : Res :=
  let w := veFields v.word
  let ks := regsOf w.fmt w.src1
  if s.veReady v.core v.ctx && (s.core v.core).stream.isEmpty &&
      (s.fifo v.core w.imm).length + ks.length ≤ 8 then
    .next ((s.veIssue v false false 1 false { queue := w.imm, out := ks.map (s.vreg v.core) }).runCore v.core)
  else .next s

/-- BCAST (R135). -/
def execBcast (v : VeOp) (s : State) : Res :=
  let w := veFields v.word
  let one := fun k => List.replicate 256 ((s.vreg v.core k).lanes.getD (w.imm % 256) 0)
  s.veSimple v false false (regsOf w.fmt w.src1)
    { writes := List.zipWith (fun d k => (d, cleanReg (one k))) (regsOf w.fmt w.dst) (regsOf w.fmt w.src1) }

/-- MOV (R131, R136): copies with poison. -/
def execMov (v : VeOp) (s : State) : Res :=
  let w := veFields v.word
  s.veSimple v false false []
    { writes := List.zipWith (fun d k => (d, s.vreg v.core k)) (regsOf w.fmt w.dst) (regsOf w.fmt w.src1) }

/-- RSVEC (R135, R109, R161): pushes to the row-scale FIFO, waiting while it holds four vectors. -/
def execRsvec (v : VeOp) (s : State) : Res :=
  let w := veFields v.word
  if s.veReady v.core v.ctx && (s.core v.core).stream.isEmpty then
    if 4 ≤ (s.core v.core).rsFifo.length then .next (s.waitScale v.core)
    else
      .next (s.veIssue v false false 1 (s.poisonIn v.core [w.src1]) { scale := [(s.vreg v.core w.src1).lanes] })
  else .next s

/-! ## Reductions (R138–R140) -/

/-- R138: an across-lane reduction. -/
def State.veReduce (s : State) (v : VeOp) (op : Fmt → Nat → Nat → Nat) : Res :=
  let w := veFields v.word
  s.veSimple v false true (regsOf w.fmt w.src1)
    { writes := regWrites w.fmt w.dst (reduceLanes (op w.fmt) w.group (s.elems v.core w.fmt w.src1)) }

/-- RSUM (R138). -/
def execRsum (v : VeOp) (s : State) : Res := s.veReduce v addBits
/-- RMAX (R138). -/
def execRmax (v : VeOp) (s : State) : Res := s.veReduce v maxBits
/-- RMIN (R138). -/
def execRmin (v : VeOp) (s : State) : Res := s.veReduce v minBits

/-- R139, R251: the vectors a stream reduction holds, and the counts they carry. -/
def State.setStream (s : State) (n : Nat) (vs : List VReg) (dues : List (Nat × Tally)) : State :=
  s.modCore n (fun c => { c with stream := vs, fillDue := kset [] c.fillDue 16 dues })

/-- R139, R157: takes what a stream reduction still needs of its FIFO, a checked step for each value taken, two vectors for
FP64; with all `need` vectors there, after `steps` steps in all, `fin` says what retires of them. -/
def State.veStream (s : State) (v : VeOp) (need steps : Nat) (fin : List VReg → VeOut) : Res :=
  let w := veFields v.word
  if s.veReady v.core v.ctx then
    let q := s.fifo v.core w.src1
    let have_ := (s.core v.core).stream
    let more := q.take (need - have_.length)
    let p := s.popFifo v.core w.src1 more.length
    let s := p.2
    let dues := kget [] (s.core v.core).fillDue 16 ++ p.1
    let vs := have_ ++ more
    let done := fun (l : Nat) => l * steps / need
    let k := done vs.length - done have_.length
    if more.any (fun r => r.poison.any (fun b => b)) then
      .next ((s.setStream v.core [] []).vePoison v.core v.ctx false)
    else if vs.length < need then
      let s := (s.setStream v.core vs dues).modCore v.core (fun c => { c with veCtx := v.ctx })
      let r := if k = 0 then (true, s) else s.issueSteps v.core false false (fld v.word 63 56) k v.chk
      .next (if r.1 then r.2.waitIn v.core else r.2)
    else .next ((s.setStream v.core [] []).veIssue v false false k false { fin vs with dues := dues })
  else .next s

/-- R130, R253: stream vectors as elements: one vector each, two for FP64. -/
def streamElems (f : Fmt) : List VReg → List (List Nat)
  | [] => []
  | [a] => if f = .fp64 then [] else [a.lanes]
  | a :: b :: r => if f = .fp64 then elemsOf .fp64 a.lanes b.lanes :: streamElems f r
    else a.lanes :: streamElems f (b :: r)

/-- SSUM (R139). -/
def execSsum (v : VeOp) (s : State) : Res :=
  let w := veFields v.word
  s.veStream v ((w.imm + 1) * (regsOf w.fmt 0).length) (w.imm + 1) (fun vs =>
    { writes := regWrites w.fmt w.dst (streamTree (addBits w.fmt) (streamElems w.fmt vs)) })

/-- SMAX (R139). -/
def execSmax (v : VeOp) (s : State) : Res :=
  let w := veFields v.word
  s.veStream v ((w.imm + 1) * (regsOf w.fmt 0).length) (w.imm + 1) (fun vs =>
    { writes := regWrites w.fmt w.dst (streamTree (maxBits w.fmt) (streamElems w.fmt vs)) })

/-- R152, R358: the profile of the resident image. -/
def State.profile (s : State) : Nat := wfld (s.section 0x0020 0) 0 0 0

/-- R140: mean, var or ms, and the argument of rstd of one lane, from the vectors of the two passes. -/
def nstatOf (mode n eps : Nat) (xs ys : List Nat) : Nat × Nat × Nat :=
  let rn := recipCount n
  let add := addBits .fp32
  let mul := mulBits .fp32
  if mode = 0 then
    let mean := mul (fixedTree add xs) rn
    let var := mul (fixedTree add (ys.map (fun x => let d := subBits .fp32 x mean; mul d d))) rn
    (mean, add var eps, var)
  else
    let ms := mul (fixedTree add (xs.map (fun x => mul x x))) rn
    (0, add ms eps, ms)

/-- NSTAT (R140): mode 0 takes the stream twice. -/
def execNstat (v : VeOp) (s : State) : Res :=
  let w := veFields v.word
  let n := w.imm + 1
  let mode := w.src3 % 2
  let eps := s.constFp32 w.src2
  let prof := s.profile
  let k := if mode = 0 then 2 * n else n
  s.veStream v k k (fun vs =>
    let xs := (vs.take n).map (fun r => r.lanes)
    let ys := (vs.drop n).map (fun r => r.lanes)
    let rs := (List.range 256).map (fun i => nstatOf mode n eps (columnOf xs i) (columnOf ys i))
    { writes := [(w.dst, cleanReg (rs.map (fun r => r.1))),
        (w.dst + 1, cleanReg (rs.map (fun r => primBits prof .rsqrt r.2.1))),
        (w.dst + 2, cleanReg (rs.map (fun r => r.2.2)))] })

/-! ## Softmax step and split-mantissa drain (R141, R142) -/

/-- SMXSTEP (R141): the running maximum and the correction, which also goes to the row-scale FIFO; a filler's are no maxima of the
step (R40, R440). -/
def execSmxstep (v : VeOp) (s : State) : Res :=
  let w := veFields v.word
  if s.veReady v.core v.ctx && (s.core v.core).stream.isEmpty then
    if 4 ≤ (s.core v.core).rsFifo.length then .next (s.waitScale v.core)
    else
      let rs := List.zipWith (smxStep s.profile) (s.vreg v.core w.src1).lanes (s.vreg v.core w.src2).lanes
      let a := rs.map (fun r => r.2)
      .next (s.veIssue v false false 1 (s.poisonIn v.core [w.src1, w.src2])
        { writes := [(w.dst, cleanReg (rs.map (fun r => r.1))), (w.dst + 1, cleanReg a)], scale := [a]
          maxima := if (s.ctx v.ctx).cls = 2 then rs.map (fun r => r.1) else [] })
  else .next s

/-- R73, R74: one drained value as FP64; one beyond the format becomes an infinity (log entry 203). -/
def smValue (x : Int × Int × Bool) : Nat × Tally :=
  if x.2.2 then (layout64.defaultNaN, { total := 1, nan := 1 })
  else layout64.convert false ((Num.ofInt x.1).scale (x.2.1 - 60))

/-- SMCVT (R142, R73): waits for a column of the drain path, whose conversions its pass has counted (R86). -/
def execSmcvt (v : VeOp) (s : State) : Res :=
  let w := veFields v.word
  match (s.core v.core).smFifo with
  | [] => .next s
  | col :: r =>
    if s.veReady v.core v.ctx && (s.core v.core).stream.isEmpty then
      let cs := col.vals.map smValue
      let es := List.zipWith (fun a b => addBits .fp64 a b.1) (s.elems v.core .fp64 w.src1) cs
      let poison := s.poisonIn v.core (regsOf .fp64 w.src1)
      let t := s.modCore v.core (fun c => { c with smFifo := r })
      .next (t.veIssue v false false 1 poison
        { writes := regWrites .fp64 w.dst es })
    else .next s

end Sys2Proof.Machine
end

