-- ==== Sys2Proof/Machine/Sfe.lean ====
section
/-! DEFINITION. Special-function engine: primitives, composed functions, user tables (R149–R156). -/
namespace Sys2Proof.Machine

/-- R149, R156: an FP32 function of each lane. -/
def State.sfeUnary (s : State) (v : VeOp) (f : Nat → Nat → Nat) : Res :=
  let w := veFields v.word
  s.veSimple v true false [w.src1]
    { writes := [(w.dst, cleanReg ((s.vreg v.core w.src1).lanes.map (f s.profile)))] }

/-- EXP2 (R149). -/
def execExp2 (v : VeOp) (s : State) : Res := s.sfeUnary v (fun p => primBits p .exp2)
/-- LOG2 (R149). -/
def execLog2 (v : VeOp) (s : State) : Res := s.sfeUnary v (fun p => primBits p .log2)
/-- RCP (R149). -/
def execRcp (v : VeOp) (s : State) : Res := s.sfeUnary v (fun p => primBits p .rcp)
/-- RSQRT (R149). -/
def execRsqrt (v : VeOp) (s : State) : Res := s.sfeUnary v (fun p => primBits p .rsqrt)
/-- SQRT_S (R149). -/
def execSqrtS (v : VeOp) (s : State) : Res := s.sfeUnary v (fun p => primBits p .sqrtS)
/-- TANH (R149). -/
def execTanh (v : VeOp) (s : State) : Res := s.sfeUnary v (fun p => primBits p .tanh)
/-- LOGISTIC (R149). -/
def execLogistic (v : VeOp) (s : State) : Res := s.sfeUnary v (fun p => primBits p .logistic)
/-- EXP (R156). -/
def execExp (v : VeOp) (s : State) : Res := s.sfeUnary v expBits
/-- LN (R156). -/
def execLn (v : VeOp) (s : State) : Res := s.sfeUnary v lnBits
/-- GELU_TANH (R156). -/
def execGeluTanh (v : VeOp) (s : State) : Res := s.sfeUnary v geluTanhBits
/-- GELU_ERF (R156). -/
def execGeluErf (v : VeOp) (s : State) : Res := s.sfeUnary v geluErfBits
/-- SILU (R156). -/
def execSilu (v : VeOp) (s : State) : Res := s.sfeUnary v siluBits
/-- SOFTPLUS (R156). -/
def execSoftplus (v : VeOp) (s : State) : Res := s.sfeUnary v softplusBits
/-- ERF (R156). -/
def execErf (v : VeOp) (s : State) : Res := s.sfeUnary v erfBits

/-- POW (R156): x is SRC1, y is SRC2. -/
def execPow (v : VeOp) (s : State) : Res :=
  let w := veFields v.word
  s.veSimple v true false [w.src1, w.src2]
    { writes := [(w.dst, cleanReg (List.zipWith (powBits s.profile) (s.vreg v.core w.src1).lanes
        (s.vreg v.core w.src2).lanes))] }

/-! ## User tables (R153–R155) -/

def Core.slot (c : Core) (k : Nat) : TSlot := kget {} c.slots k
def Core.setSlot (c : Core) (k : Nat) (t : TSlot) : Core := { c with slots := kset {} c.slots k t }

/-- UTAB (R154, R155): waits for a swap on its slot. An empty slot, which no loaded program uses (R153),
gives no result. -/
def execUtab (v : VeOp) (s : State) : Res :=
  let w := veFields v.word
  let t := (s.core v.core).slot w.group
  if s.veReady v.core v.ctx && t.shadow.isSome then
    .next ((s.count (bSfe v.core + 0x108) 1).modCore v.core (fun c => c.setSlot w.group { t with waiting := 1 }))
  else
    match t.active with
    | none => .next s
    | some u =>
      s.veSimple v true false [w.src1]
        { writes := [(w.dst, cleanReg ((s.vreg v.core w.src1).lanes.map (utabBits u)))] }

/-- R153: a table from the header words of its descriptor and its coefficients. -/
def tableOf (ws : List Word) (coef : List Nat) : UTable :=
  { lo := wfld ws 0 63 32, hi := wfld ws 0 31 0, scale := wfld ws 1 63 32, log2Seg := wfld ws 1 3 0,
    outLo := wfld ws 2 63 32, outHi := wfld ws 2 31 0, coef := coef }

/-- TABLE_LOAD (R153–R155, R131, R230, R254): header and coefficients enter the slot's shadow. It waits for an
earlier load's swap and for fence entries; poison faults and leaves no shadow. -/
def execTableLoad (v : VeOp) (s : State) : Res :=
  let w := veFields v.word
  let n := v.core.val
  let slot := (s.core n).slot w.group
  if s.veReady n v.ctx && (s.core n).stream.isEmpty && slot.shadow.isNone then
    if !s.fenceRoom n 1 then .next (s.fenceWait n)
    else
      let ws := s.tableDesc s.plan w.imm
      let view := s.view s.plan (wfld ws 3 63 48)
      if !s.viewAllowed v.ctx view then .next (s.ctxFault v.ctx 0x0A)
      else
        let k := 4 * 2 ^ wfld ws 1 3 0
        let r := s.csElems n view ((List.range k).map (indexOf view.sizes))
        if r.1.any (fun e => e.poison) then .next (r.2.vePoison n v.ctx true)
        else
          let t := tableOf ws (r.1.map (fun e => e.code))
          let c := r.2.issueSteps n true false (fld v.word 63 56) 1 v.chk
          if c.1 then
            .next ((c.2.fenceAdd n v.ctx ownTable w.group [view.footprint]).modCore n (fun x =>
              x.setSlot w.group { x.slot w.group with shadow := some t }))
          else .next c.2
  else .next s

/-- R155: the shadow of a slot becomes active under the next epoch, modulo 2^16, and its range is no longer fenced. -/
def State.swapTable (s : State) (n k : Nat) : State :=
  let t := (s.core n).slot k
  match t.shadow with
  | none => s
  | some u =>
    let s := s.modCore n (fun c => c.setSlot k
      { t with active := some u, shadow := none, epoch := (t.epoch + 1) % 65536, waiting := 0 })
    ((s.fenceRetire n ownTable k).count (bSfe n + 0x120) 1).flag (bSfe n + 0x20) 4

/-- TABLE_SWAP (R155). -/
def execTableSwap (core : Fin 128) (slot : Fin 4) (s : State) : Res :=
  .next (if s.fenced core then s else s.swapTable core slot)

/-- R358: the initial table of an entry of the SFE section, its coefficients read from their buffer. -/
def State.initialTable (s : State) (e : List Word) : UTable × State :=
  let k := 16 * 2 ^ wfld e 4 3 0
  let r := s.readBuf 0 (wfld e 6 63 48) (wd e 7).toNat k
  let bs := r.1.map (fun b => b.1)
  ({ lo := wfld e 3 63 32, hi := wfld e 3 31 0, scale := wfld e 4 63 32, log2Seg := wfld e 4 3 0,
     outLo := wfld e 5 63 32, outHi := wfld e 5 31 0,
     coef := (List.range (k / 4)).map (fun i => ofLeBytes ((bs.drop (4 * i)).take 4)) }, r.2)

/-- R155: a slot with its initial content and epoch 0. -/
def TSlot.fresh (t : TSlot) : TSlot := { initial := t.initial, active := t.initial }

/-- R155: the slots of a core return to their initial content; no table load is under way. -/
def Core.freshTables (k : Core) : Core :=
  { k with fence := k.fence.filter (fun r => r.kind != ownTable), slots := k.slots.map (fun t => (t.1, t.2.fresh)) }

/-- R155: at STEP_OPEN every slot returns to its initial content with epoch 0, those of saved contexts too. -/
def State.resetTables (s : State) : State :=
  { s with
    cores := s.cores.map (fun p => (p.1, p.2.freshTables))
    ctxs := s.ctxs.map (fun x => (x.1, { x.2 with saved := x.2.saved.map (fun p => (p.1, p.2.freshTables)) })) }

/-- R155: the bytes of a table's coefficients. -/
def UTable.bytes (t : UTable) : List PByte := t.coef.flatMap (fun c => plain (leBytes 4 c))

/-- R155, R358: the loader installs every slot's initial content with epoch 0 and keeps a copy of it in stack DRAM of
CTX0, at the physical addresses `copies`. -/
def State.initTables (s : State) (copies : List Nat) : State :=
  let ws := s.section 0x0020 0
  let n := wfld ws 2 63 48
  let s := { s with cores := s.cores.map (fun p => (p.1, { p.2 with slots := [] })) }
  ((List.range n).foldl (fun t i =>
    let e := (ws.drop (4 + 8 * i)).take 8
    let r := t.initialTable e
    let mask := (wd e 0).toNat + (wd e 1).toNat * 2 ^ 64
    let kept := match copies[i]? with
      | some pa => r.2.writePa 0 2 pa r.1.bytes
      | none => r.2
    (List.range 128).foldl (fun u c =>
      if mask.testBit c then
        u.modCore c (fun x => x.setSlot (wfld e 2 63 62) { initial := some r.1, active := some r.1 })
      else u) kept) s)

end Sys2Proof.Machine
end

