-- ==== Sys2Proof/Machine/SmallMatrix.lean ====
section
/-! DEFINITION. Batched small-matrix routines of the vector engine (R143–R148). -/
namespace Sys2Proof.Machine

/-! ## Exact element results (R144–R147) -/

/-- A matrix as rows of element bits. -/
abbrev Mat := List (List Nat)

def matGet (a : Mat) (i j : Nat) : Nat := (a.getD i []).getD j 0
def matSet (a : Mat) (i j v : Nat) : Mat := a.set i ((a.getD i []).set j v)
/-- Rows `i` and `j` exchanged. -/
def matSwap (a : Mat) (i j : Nat) : Mat := (a.set i (a.getD j [])).set j (a.getD i [])

/-- R145: is a pivot singular under the FP64 threshold. -/
def singular (f : Fmt) (thr v : Nat) : Bool :=
  let x := (layoutOf f).decode v
  x.isNan || x.isZero || x.abs.lt (layout64.decode thr)

/-- R145: is a Cholesky pivot singular. -/
def singularChol (f : Fmt) (thr v : Nat) : Bool :=
  let x := (layoutOf f).decode v
  x.isNan || x.isZero || x.sign || x.lt (layout64.decode thr)

/-- R147: NaN(c). -/
def pivotNaN (f : Fmt) (c : Nat) : Nat :=
  if f = .fp64 then 0x7FFC000000000000 + (c % 64) <<< 44 else 0x7FE00000 + (c % 64) <<< 15

/-- R144: fma(−x, y, z); of a NaN x it returns −x (DEDUCED, log 156). -/
def fnma (f : Fmt) (x y z : Nat) : Nat := fmaBits f (negBits f x) y z

/-- Changes entries (i, j) that `p` selects. -/
def matMap (a : Mat) (p : Nat → Nat → Bool) (g : Nat → Nat → Nat → Nat) : Mat :=
  a.zipIdx.map (fun r => r.1.zipIdx.map (fun e => if p r.2 e.2 then g r.2 e.2 e.1 else e.1))

/-- R144: the pivot row of column k: the lowest index of the largest magnitude at or below k. DEDUCED (log 15): a NaN is larger
than nothing and nothing is larger than a NaN, so one in row k stays the pivot. -/
def pivotRow (f : Fmt) (a : Mat) (k n : Nat) : Nat :=
  ((List.range n).filter (fun i => k < i)).foldl (fun p i =>
    let v := fun r => ((layoutOf f).decode (matGet a r k)).abs
    if (v p).lt (v i) then i else p) k

/-- What a routine leaves of one element: the matrix, the right-hand sides, the pivots, the failing column. -/
structure Elim where
  a    : Mat
  x    : Mat := []
  piv  : List Int := []
  fail : Option Nat := none

/-- R144, R146: LU from column k on, `m` columns left. -/
def luFrom (f : Fmt) (thr n : Nat) : Nat → Nat → Mat → List Int → Elim
  | 0, _, a, piv => { a := a, piv := piv }
  | m + 1, k, a, piv =>
    let p := pivotRow f a k n
    if singular f thr (matGet a p k) then
      { a := matMap a (fun i j => k ≤ i && k ≤ j) (fun _ _ _ => pivotNaN f k)
        piv := piv ++ List.replicate (m + 1) (-1), fail := some k }
    else
      let a := matSwap a k p
      let a := matMap a (fun i j => k < i && j == k) (fun _ _ v => divBits f v (matGet a k k))
      let a := matMap a (fun i j => k < i && k < j) (fun i j v => fnma f (matGet a i k) (matGet a k j) v)
      luFrom f thr n m (k + 1) a (piv ++ [(p : Int)])

/-- R144, R146: Cholesky from column k on, `m` columns left. -/
def cholFrom (f : Fmt) (thr : Nat) : Nat → Nat → Mat → Elim
  | 0, _, a => { a := a }
  | m + 1, k, a =>
    let d := matGet a k k
    if singularChol f thr d then
      { a := matMap a (fun i j => j ≤ i && k ≤ j) (fun _ _ _ => pivotNaN f k), fail := some k }
    else
      let a := matSet a k k (sqrtBits f d)
      let a := matMap a (fun i j => k < i && j == k) (fun _ _ v => divBits f v (matGet a k k))
      let a := matMap a (fun i j => k < i && k < j && j ≤ i) (fun i j v =>
        fnma f (matGet a i k) (matGet a j k) v)
      cholFrom f thr m (k + 1) a

/-- R144, R146: a solve over the rows in `order`; `x` holds the right-hand sides and, in rows done, solutions. A
failing row c leaves rows 0 to c − 1 and writes NaN(c) from row c on. -/
def solveRows (f : Fmt) (thr : Nat) (unit : Bool) (before : Nat → Nat → Bool) (n : Nat) (a : Mat) :
    List Nat → Mat → Elim
  | [], x => { a := a, x := x }
  | i :: r, x =>
    if !unit && singular f thr (matGet a i i) then
      { a := a, x := matMap x (fun j _ => i ≤ j) (fun _ _ _ => pivotNaN f i), fail := some i }
    else
      let row := (x.getD i []).zipIdx.map (fun e =>
        let t := ((List.range n).filter (before i)).foldl (fun t j => fnma f (matGet a i j) (matGet x j e.2) t) e.1
        if unit then t else divBits f t (matGet a i i))
      solveRows f thr unit before n a r (x.set i row)

/-- R143, R144: one batch element of a routine. -/
def routineElem (routine : Nat) (f : Fmt) (thr n : Nat) (a x : Mat) : Elim :=
  let up := List.range n
  match routine with
  | 0 => luFrom f thr n n 0 a []
  | 1 => cholFrom f thr n 0 a
  | 2 => solveRows f thr false (fun i j => j < i) n a up x
  | 3 => solveRows f thr false (fun i j => i < j) n a up.reverse x
  | _ => solveRows f thr true (fun i j => j < i) n a up x

/-! ## Issue -/

/-- R284, R292: a view cut to indices start to start + len − 1 of dimension d; a window view, whose elements lie
anywhere in its parent, stays whole. -/
def View.cut (v : View) (d start len : Nat) : View :=
  if v.origin.isSome then v
  else
  { v with
    base := ((8 * (v.base : Int) + v.stride.getD d 0 * start * v.fmt.width) / 8).toNat
    sizes := v.sizes.set d len
    shape := v.shape.set d len }

/-- R143: the views a routine names, in the order matrices, right-hand sides, pivots. -/
def State.routineViews (s : State) (p : Nat) (ws : List Word) : List (Nat × View) :=
  ([(2, wfld ws 2 63 48), (2, wfld ws 2 47 32), (1, wfld ws 2 31 16)].filter (fun d => d.2 ≠ 0xFFFF)).map
    (fun d => (d.1, s.view p d.2))

/-- R254: the core-store ranges of one group; the batch runs along dimension 2 of matrices and right-hand sides
and along dimension 1 of pivots. -/
def State.groupRanges (s : State) (p : Nat) (ws : List Word) (batch g : Nat) : List (Nat × Nat) :=
  (s.routineViews p ws).map (fun v => (v.2.cut v.1 (4 * g) (min 4 (batch - 4 * g))).footprint)

/-- R148, R254: the next group of the routine on core `n` enters its ranges. -/
def State.fenceGroup (s : State) (n : Nat) (r : Routine) : State :=
  (s.fenceRetire n ownRoutine 0).fenceAdd n r.ctx ownRoutine 0 (s.groupRanges r.plan r.words r.batch r.group)

/-- R143, R106, R230, R255: issues a routine. -/
def State.issueRoutine (s : State) (d : Desc) : Res :=
  let n := d.core.val
  let c := d.ctx.val
  if s.veReady n c && (s.core n).stream.isEmpty then
    let ws := s.issueWords d [(2, 48), (2, 32), (2, 16), (2, 0)]
    let planned := wfld ws 1 63 32
    let r := s.shapeOf c s.plan (wfld ws 1 31 24) [planned]
    let s := r.2
    let b := r.1.1.getD 0 0
    if r.1.2 then .next (s.vePoison n c false)
    else if planned < b then .next (s.ctxFault c 0x01)
    else if b = 0 then .next (s.tackleAdd (wfld ws 3 63 48) 1)
    else if !((s.routineViews s.plan ws).all (fun v => s.viewAllowed c v.2)) then .next (s.ctxFault c 0x0A)
    else if !s.fenceRoom n 3 then .next (s.fenceWait n)
    else
      let x : Routine := { ctx := c, plan := s.plan, words := ws, batch := b, num := (s.core n).aeNum }
      .next ((s.modCore n (fun k => { k with routine := some x, aeNum := k.aeNum + 1 })).fenceGroup n x)
  else .next s

/-- SMALL_LU (R143, R144). -/
def execSmallLu (d : Desc) (s : State) : Res := s.issueRoutine d
/-- SMALL_CHOLESKY (R143, R144). -/
def execSmallCholesky (d : Desc) (s : State) : Res := s.issueRoutine d
/-- LOWER_SOLVE (R143, R144). -/
def execLowerSolve (d : Desc) (s : State) : Res := s.issueRoutine d
/-- UPPER_SOLVE (R143, R144). -/
def execUpperSolve (d : Desc) (s : State) : Res := s.issueRoutine d
/-- UNIT_LOWER_SOLVE (R143, R144). -/
def execUnitLowerSolve (d : Desc) (s : State) : Res := s.issueRoutine d

/-! ## A group's end -/

/-- Rows of a view of element `b`: dimension 0 is the column, dimension 1 the row, dimension 2 the element. -/
def State.readMat (s : State) (n : Nat) (v : View) (rows cols b : Nat) : (Mat × Bool) × State :=
  let r := s.csElems n v ((List.range rows).flatMap (fun i => (List.range cols).map (fun j => [j, i, b])))
  let es := r.1.map (fun e => e.code)
  (((List.range rows).map (fun i => (es.drop (i * cols)).take cols), r.1.any (fun e => e.poison)), r.2)

/-- Writes some entries of element `b` of a view. -/
def State.writeMat (s : State) (n : Nat) (v : View) (b : Nat) (a : Mat) (p : Nat → Nat → Bool) : State :=
  s.csPutElems n v (a.zipIdx.flatMap (fun r => r.1.zipIdx.filterMap (fun e =>
    if p r.2 e.2 then some ([e.2, r.2, b], { code := e.1 }) else none)))

/-- One element of a group, computed from the core store; its whole matrix is read (log entry 211). -/
def State.routineElemOf (s : State) (n : Nat) (r : Routine) (b : Nat) : (Elim × Bool) × State :=
  let ws := r.words
  let f := (Fmt.ofCode (wfld ws 0 55 51)).getD .fp32
  let k := wfld ws 0 47 41
  let a := s.readMat n (s.view r.plan (wfld ws 2 63 48)) k k b
  let x := if wfld ws 0 50 48 < 2 then (([], false), a.2)
    else a.2.readMat n (s.view r.plan (wfld ws 2 47 32)) k (wfld ws 0 40 34) b
  ((routineElem (wfld ws 0 50 48) f (wd (s.section 0x0020 0) 1).toNat k a.1.1 x.1.1, a.1.2 || x.1.2), x.2)

/-- The elements of a group. -/
def State.routineElems (s : State) (n : Nat) (r : Routine) : List Nat → List (Elim × Bool) × State
  | [] => ([], s)
  | b :: bs =>
    let e := s.routineElemOf n r b
    let t := e.2.routineElems n r bs
    (e.1 :: t.1, t.2)

/-- R144, R146: writes one element's results: LU all of the matrix and the pivots, Cholesky the lower triangle,
solves the right-hand sides; a failing element is flagged in the mask and counted. -/
def State.writeElim (s : State) (n : Nat) (r : Routine) (b : Nat) (e : Elim) : State :=
  let ws := r.words
  let routine := wfld ws 0 50 48
  let mat := s.view r.plan (wfld ws 2 63 48)
  let s :=
    if routine = 0 then
      let piv := s.view r.plan (wfld ws 2 31 16)
      (s.writeMat n mat b e.a (fun _ _ => true)).csPutElems n piv
        (e.piv.zipIdx.map (fun p => ([p.2, b], { code := unsigned 32 p.1 })))
    else if routine = 1 then s.writeMat n mat b e.a (fun i j => j ≤ i)
    else s.writeMat n (s.view r.plan (wfld ws 2 47 32)) b e.x (fun _ _ => true)
  match e.fail with
  | none => s
  | some _ =>
    let m := (s.view r.plan (wfld ws 2 15 0)).base + b / 8
    let old := s.csRead n m 1
    let v := (old.1.getD 0 (0, false)).1 ||| BitVec.ofNat 8 (1 <<< (b % 8))
    ((old.2.csWrite n m [(v, false)]).count (bVe n + 0x130) 1).flag (bVe n + 0x18) 5

/-- R157, R158, R506: the check of a group; its internal steps, whose number the spec does not give, cover
every lane. A failure is logged under the number of its own step. -/
def State.checkGroup (s : State) (n : Nat) (k : Chk) : Bool × State :=
  let g := s.takeFree
  let q := (s.core n).veSeq + 1
  let steps := 1 + g.1
  let s := g.2.modCore n (fun c => { c with veSeq := (c.veSeq + 1 + g.1) % 2 ^ 32 })
  let s := s.veIssued n 0x48 (s.core n).veSeq
  let a := s.takeCheck (fun r => fld r 59 50 == n && fld r 63 60 == 5)
  match a.1 with
  | some r => a.2.settle n false 0x48 (q + (fld r 46 39 % 16 + 16 - q % 16) % 16 % steps) (forcedCheck 1 r) true
  | none => a.2.settle n false 0x48 (q + min k.block (steps - 1)) k false

/-- ROUTINE_GROUP_DONE (R146, R148, R157–R159): a group's results are written after its check; poison read faults
and writes nothing; the last group retires the routine. -/
def execRoutineGroupDone (core : Fin 128) (chk : Chk) (s : State) : Res :=
  let n := core.val
  match (s.core n).routine with
  | none => .next s
  | some r =>
    let bs := (List.range 4).filterMap (fun i => if 4 * r.group + i < r.batch then some (4 * r.group + i) else none)
    let e := s.routineElems n r bs
    if e.1.any (fun x => x.2) then
      .next (((e.2.modCore n (fun c => { c with routine := none })).fenceDrop n ownRoutine 0).vePoison n r.ctx false)
    else
      let c := e.2.checkGroup n chk
      if c.1 then
        let s := (List.zipWith (fun b x => (b, x.1)) bs e.1).foldl (fun t x => t.writeElim n r x.1 x.2) c.2
        let s := s.count (bVe n + 0x100) 1
        if r.batch ≤ 4 * (r.group + 1) then
          .next (((s.modCore n (fun c => { c with routine := none })).fenceRetire n ownRoutine 0).tackleAdd
            (wfld r.words 3 63 48) 1)
        else
          let x := { r with group := r.group + 1 }
          .next ((s.modCore n (fun c => { c with routine := some x })).fenceGroup n x)
      else .next c.2

end Sys2Proof.Machine
end

