-- ==== Sys2Proof/Machine/Layout.lean ====
section
/-! DEFINITION. The layout engine (R295–R305). -/
namespace Sys2Proof.Machine

/-- R295: fields of a layout descriptor. -/
def lPerm (ws : List Word) : Nat := wfld ws 0 55 53
def lDimA (ws : List Word) : Nat := wfld ws 0 52 50
def lDimB (ws : List Word) : Nat := wfld ws 0 49 47
def lFmt (ws : List Word) : Fmt := (Fmt.ofCode (wfld ws 0 46 42)).getD .fp32
def lCnt (ws : List Word) : Nat := wfld ws 1 31 16
def lFactor (ws : List Word) : Nat := wfld ws 2 63 32

/-- R296: destination sizes of an operation with the given source sizes. -/
def layoutDst (ws : List Word) (src : List Nat) : List Nat :=
  if lPerm ws = 0 then (src.set (lDimA ws) (src.getD (lDimB ws) 0)).set (lDimB ws) (src.getD (lDimA ws) 0) else src

/-- The `m`-bit reversal of `x`. -/
def bitReverse : Nat → Nat → Nat
  | 0, _ => 0
  | m + 1, x => x % 2 * 2 ^ m + bitReverse m (x / 2)

/-- R296: the index along DIM_A that destination index `i` reads, for a dimension of `size`. A run-time size that is no multiple
of RFAC has no shape of the rule: which element is read is free. -/
def layoutIndex (ws : List Word) (size i : Nat) : Nat :=
  match lPerm ws with
  | 1 => bitReverse (Nat.log2 size) i
  | 2 =>
    if size % lFactor ws = 0 then i % lFactor ws * (size / lFactor ws) + i / lFactor ws
    else Config.strideSource (lFactor ws) size i % size
  | _ => i

/-- R296: the source element of destination element `i`. -/
def layoutSource (ws : List Word) (sizes i : List Nat) : List Nat :=
  let a := lDimA ws
  if lPerm ws = 0 then (i.set a (i.getD (lDimB ws) 0)).set (lDimB ws) (i.getD a 0)
  else i.set a (layoutIndex ws (sizes.getD a 0) (i.getD a 0))

/-- R298: elements of one tile: 64 × 64 lane words, an element of 8 B taking two. -/
def tileElems (f : Fmt) : Nat := if f.width = 64 then 4096 else 131072 / f.width

/-- R296, R106: a run-time size of BITREV's dimension must be a power of two. -/
def layoutSizeOk (ws : List Word) (sizes : List Nat) : Bool :=
  let n := sizes.getD (lDimA ws) 0
  lPerm ws != 1 || n == 2 ^ Nat.log2 n

/-- R297, R298, R299, R106, R255: issues a layout operation: refused above the planned shape, nothing to do on
a size of zero, otherwise its source range is fenced and it waits its turn. -/
def State.issueLayout (s : State) (d : Desc) : Res :=
  let n := d.core.val
  let c := d.ctx.val
  if s.mayIssue n c then
    let ws := s.issueWords d [(1, 48), (1, 32)]
    let src := s.view s.plan (wfld ws 1 63 48)
    let dst := s.view s.plan (wfld ws 1 47 32)
    let r := s.shapeOf c s.plan (wfld ws 1 15 8) src.shape
    let s := r.2
    let sizes := src.opSizes r.1.1
    let above := (List.zipWith (fun a b => decide (b < a)) r.1.1 src.shape).any (fun b => b)
    if r.1.2 then .next (s.ctxFault c 0x06)
    else if above then .next ((s.flag (bLe n + 0x10) 3).ctxFault c 0x01)
    else if sizes.any (· = 0) then .next ((s.count (bLe n + 0x100) 1).tackleAdd (lCnt ws) 1)
    else if !layoutSizeOk ws sizes then .next ((s.flag (bLe n + 0x10) 3).ctxFault c 0x01)
    else if !(s.viewAllowed c src && s.viewAllowed c dst) then .next (s.ctxFault c 0x0A)
    else if !s.fenceRoom n 1 then .next ((s.fenceWait n).modCore n (fun k => { k with leWaits := true }))
    else
      let q := ((s.core n).leSeq + 1) % 2 ^ 32
      let op : LayoutOp := { seq := q, ctx := c, plan := s.plan, words := ws, sizes := sizes, edge := src.opEdge r.1.1 }
      .next ((s.modCore n (fun k => { k with leSeq := q, leWaits := false, layouts := k.layouts ++ [op] })).fenceAdd n c ownLayout q
        [src.footprint])
  else .next s

/-- TRANSPOSE (R295, R296). -/
def execTranspose (d : Desc) (s : State) : Res := s.issueLayout d
/-- BITREV (R295, R296). -/
def execBitrev (d : Desc) (s : State) : Res := s.issueLayout d
/-- STRIDE (R295, R296). -/
def execStride (d : Desc) (s : State) : Res := s.issueLayout d
/-- LAYOUT_COPY (R295, R296). -/
def execLayoutCopy (d : Desc) (s : State) : Res := s.issueLayout d

/-- Destination index vectors of tile `t`. -/
def tileIndices (f : Fmt) (sizes : List Nat) (t : Nat) : List (List Nat) :=
  let k := tileElems f
  ((List.range k).filter (fun i => t * k + i < volume sizes)).map (fun i => indexOf sizes (t * k + i))

/-- R300: one tile check failure: counted, flagged, recorded. -/
def State.tileMismatch (s : State) (n : Nat) (op : LayoutOp) (inj : Bool) : State :=
  ((s.flag (bLe n + 0x10) 0).count (bLe n + 0x120) 1).record
    { kind := 0x44, cls := 0, unitType := 2, unit := n * 8 + 7, d0 := BitVec.ofNat 64 op.seq, injected := inj }

/-- R300, R479: what the tile's checks saw: may it be written, and the state after retry and fence. -/
def State.checkTile (s : State) (n : Nat) (op : LayoutOp) (k : Chk) (inj : Bool) : Bool × State :=
  if k.fails = 0 then (true, s)
  else
    let s := s.tileMismatch n op inj
    if 2 ≤ k.fails then (false, ((s.tileMismatch n op inj).flag (bLe n + 0x10) 2).engineFailed n 7 inj)
    else (true, s.flag (bLe n + 0x10) 1)

/-- R299: does the tile in progress of an operation wait for the retire fence. -/
def State.tileWaits (s : State) (n : Nat) (op : LayoutOp) : Bool :=
  let idx := tileIndices (lFmt op.words) (layoutDst op.words op.sizes) op.tile
  let w := (s.view op.plan (wfld op.words 1 47 32)).writes (idx.map (fun i => (i, { code := 0 })))
  (runsOf w).any (fun r => s.fenceHitBy n r.1 r.2 (fun x => x.kind != ownLayout))

/-- LAYOUT_TILE_DONE (R298–R301, R305, R506): the tile in progress passes its checks and is written, or waits for
the retire fence; the last tile retires the operation. -/
def execLayoutTileDone (core : Fin 128) (chk : Chk) (s : State) : Res :=
  let n := core.val
  match (s.core n).layouts with
  | [] => .next s
  | op :: rest =>
    let ws := op.words
    let f := lFmt ws
    let dst := s.view op.plan (wfld ws 1 47 32)
    let sizes := layoutDst ws op.sizes
    let idx := tileIndices f sizes op.tile
    if s.tileWaits n op then
      .next (s.count (bLe n + 0x118) 1)
    else
      let a := s.takeCheck (fun r => fld r 63 60 == 8 && fld r 59 50 == n)
      let c := match a.1 with
        | some r => a.2.checkTile n op (forcedCheck 8 r) true
        | none => a.2.checkTile n op chk false
      if c.1 then
        let r := c.2.csElems n ((s.view op.plan (wfld ws 1 63 48)).edged op.edge) (idx.map (layoutSource ws op.sizes))
        let s := r.2.csPutElems n dst (List.zipWith (fun i e => (i, e)) idx r.1)
        let s := s.count (bLe n + 0x108) (idx.length * f.width / 8)
        if (op.tile + 1) * tileElems f < volume sizes then
          .next (s.modCore n (fun k => { k with layouts := { op with tile := op.tile + 1 } :: rest }))
        else
          .next ((((s.modCore n (fun k => { k with layouts := rest })).fenceRetire n ownLayout op.seq).count
            (bLe n + 0x100) 1).tackleAdd (lCnt ws) 1)
      else .next c.2

end Sys2Proof.Machine
end

