-- ==== Sys2Proof/Machine/Matrix.lean ====
section
/-! DEFINITION. Matrix engines: passes, their cells, checks, replay and retire (R62–R75, R88–R120, R561). -/
namespace Sys2Proof.Machine

/-- R353, R421: the microbatch in which a sequencer stands: the iteration of its outermost loop over the accumulation count. -/
def microOf (q : Seq) : Nat := q.loops.foldl (fun m l => if l.micro then l.iter else m) 0

/-! ## Split operations (R107, R111) -/

/-- A matrix pass of a program with the registers (SRC1, DST) of the SMCVTs that stand between it and the next pass. -/
abbrev PassItem := List Word × List (Nat × Nat)

/-- The matrix passes among a program's items (R142, R352), with the SMCVTs that drain each. -/
def passItems : List (List Word) → List PassItem
  | [] => []
  | i :: r =>
    if wfld i 0 63 56 = 0x40 then
      (i, ((r.takeWhile (fun x => wfld x 0 63 56 != 0x40)).filter (fun x => wfld x 0 63 56 == 0xBF)).map (fun x =>
        (wfld x 0 43 38, wfld x 0 49 44))) :: passItems r
    else passItems r

/-- An index vector of a tile view: dimensions 0 and 1, zero above (R561). -/
def tileIdx (v : View) (i0 i1 : Nat) : List Nat := i0 :: i1 :: List.replicate (v.ndim - 2) 0

/-- R111, R561: the core-store bits at which the corners of the tile of a pass lie in a view, and the view's element
width: what tells one region from another, whichever descriptor or window names it. -/
def tileRegion (v : View) (ws : List Word) : List (Option Int) × Nat :=
  let n := wfld ws 1 54 48 - 1
  let m := wfld ws 1 63 55 - 1
  ([(0, 0), (n, 0), (0, m), (n, m)].map (fun x =>
    (v.coords (tileIdx v (wfld ws 5 31 0 + x.1) (wfld ws 5 63 32 + x.2))).map v.bitAddr), v.fmt.width)

/-- R111: under the views `v` of its plan, does pass `q` continue pass `p`: the same operands, origins and size, K on from p's,
and either a preload of exactly the tile p writes, or in split-mantissa mode a drain added into the register pairs of p's. -/
def passContinues (v : Nat → View) (q p : PassItem) : Bool :=
  let a := q.1
  let b := p.1
  wfld a 2 63 32 == wfld b 2 63 32 && wfld a 3 63 32 == wfld b 3 63 32 && wfld a 4 31 0 == wfld b 4 31 0 &&
  wfld a 1 63 48 == wfld b 1 63 48 && wfld a 3 31 0 == wfld b 3 31 0 + pK b &&
  wfld a 4 63 32 == wfld b 4 63 32 + pK b &&
  (if pSplit a then q.2 != [] && q.2.map (fun x => x.2) == p.2.map (fun x => x.2) && q.2.all (fun x => x.1 == x.2)
   else pPreload a && !pRowScale a && tileRegion (v (wfld a 2 15 0)) a == tileRegion (v (wfld b 2 31 16)) b && wd a 5 == wd b 5)

def State.continues (s : State) (pl : Nat) (q p : PassItem) : Bool := passContinues (s.view pl) q p

/-- The matrix passes of a core's program. -/
def State.programPasses (s : State) (pl n : Nat) : List PassItem :=
  let pr := s.program pl n
  passItems (progItems pr.length pr)

/-- A pass in its program, with those before it, nearest first, and those after it. -/
def State.passContext (s : State) (n : Nat) (ws : List Word) : PassItem × List PassItem × List PassItem :=
  let ms := s.programPasses s.plan n
  match ms.findIdx? (fun i => i.1 == ws) with
  | none => ((ws, []), [], [])
  | some j => (ms.getD j (ws, []), (ms.take j).reverse, ms.drop (j + 1))

/-- R111: K of the passes that `q` continues, back to the first. -/
def State.chainBack (s : State) (pl : Nat) (q : PassItem) : List PassItem → Nat
  | [] => 0
  | p :: r => if s.continues pl q p then pK p.1 + s.chainBack pl p r else s.chainBack pl q r

/-- R111: K of the passes that continue `p`, on to the last. -/
def State.chainOn (s : State) (pl : Nat) (p : PassItem) : List PassItem → Nat
  | [] => 0
  | q :: r => if s.continues pl q p then pK q.1 + s.chainOn pl q r else s.chainOn pl p r

/-- R106, R107: the run-time K of a pass of a split operation, from the operation's run-time K; `none` where that
exceeds the planned K. -/
def State.passK (s : State) (n : Nat) (raw : List Word) (k : Nat) : Option Nat :=
  let c := s.passContext n raw
  let before := s.chainBack s.plan c.1 c.2.1
  if before + pK raw + s.chainOn s.plan c.1 c.2.2 < k then none else some (min (pK raw) (k - before))

/-! ## Tile geometry (R103, R104, R561) -/

/-- R103: the masks of a pass, row mask then column mask; all ones where not enabled; and their poison. -/
def State.passMasks (s : State) (n : Nat) (ws : List Word) : (Nat × Nat × Bool) × State :=
  let one := fun (on : Bool) (s : State) (at_ len : Nat) =>
    if on then
      let r := s.csRead n at_ len
      ((ofLeBytes (r.1.map (fun b => b.1)), r.1.any (fun b => b.2)), r.2)
    else ((2 ^ (8 * len) - 1, false), s)
  let r := one (bitAt (wd ws 0) 36) s (pMask ws) 32
  let c := one (bitAt (wd ws 0) 35) r.2 (pMask ws + 32) 8
  ((r.1.1, c.1.1, r.1.2 || c.1.2), c.2)

/-- R103: the valid rows and columns. -/
def validIdx (mask count : Nat) : List Nat := (List.range count).filter (fun i => mask.testBit i)

/-- R561, R70: index of digit plane `p` of a split-mantissa operand. -/
def planeIdx (i0 i1 p : Nat) : List Nat := [i0, i1, p]

/-- Reads `k` elements of dimension 0 from `k0` at index `i1` of dimension 1. -/
def State.readRow (s : State) (n : Nat) (v : View) (i1 k0 k : Nat) : List Elem × State :=
  s.csElems n v ((List.range k).map (fun j => tileIdx v (k0 + j) i1))

/-- R105: a row with its pads up to `len` elements; a pad has its block's scale. -/
def padRow (f : Fmt) (pad len : Nat) (es : List Elem) : List Elem :=
  let sc := match es.getLast? with
    | some e => e.scale
    | none => 0x7F
  es ++ List.replicate (len - es.length) { code := pad % 2 ^ f.width, scale := sc }

/-! ## Feeder entries (R89–R92) -/

/-- R89: a feeder entry of 80 bits: elements packed at their width, the lowest K position in the lowest bits; LAST, BLOCK_START,
POISON and the block's SCALE. -/
def feedEntry (f : Fmt) (start last : Bool) (es : List Elem) : Nat :=
  let data := es.zipIdx.foldl (fun a e => a + (e.1.code % 2 ^ f.width) <<< (f.width * e.2)) 0
  let scale := if f.isMx then (es.head?.map (fun e => e.scale)).getD 0x7F else 0x7F
  data + (if last then 2 ^ 69 else 0) + (if start then 2 ^ 70 else 0) +
    (if es.any (fun e => e.poison) then 2 ^ 71 else 0) + scale <<< 72

/-- R89, R90: the entries of a row or column from its `n`-th on; a K block of 32 positions starts with BLOCK_START. `per` is
how many elements an entry takes and `k` how many K positions. -/
def feedEntries (f : Fmt) (per k : Nat) : Nat → Nat → List Elem → List Nat
  | _, 0, _ => []
  | j, n + 1, es =>
    if es.isEmpty then []
    else feedEntry f (j * k % 32 == 0) (es.drop per).isEmpty (es.take per) :: feedEntries f per k (j + 1) n (es.drop per)

/-- The fields of an entry. -/
def entryPoison (x : Nat) : Bool := x.testBit 71
def entryStart (x : Nat) : Bool := x.testBit 70
def entryScale (x : Nat) : Nat := x / 2 ^ 72 % 256

/-- R90, R92: the elements that a queue hands the cells as its entries pop; the scale is latched at each BLOCK_START. -/
def poppedElems (f : Fmt) : Nat → List Nat → List Elem
  | _, [] => []
  | sc, x :: r =>
    let sc := if entryStart x then entryScale x else sc
    (List.range (entryK f)).map (fun i =>
      { code := x / 2 ^ (f.width * i) % 2 ^ f.width, scale := sc, poison := entryPoison x }) ++ poppedElems f sc r

/-- R70, R90: the seven digits of a split-mantissa entry. -/
def poppedDigits (x : Nat) : List Int := (List.range 7).map (fun i => signed 8 (x / 2 ^ (8 * i) % 256))

/-! ## Cells (R62–R68, R71) -/

/-- R63: BF16 and FP32: one rounding per product, in ascending K. -/
def macFold (fa fb : Fmt) (acc : Nat) (ab : List (Elem × Elem)) : Nat :=
  ab.foldl (fun acc p =>
    layout32.rne ((layout32.decode acc).add ((fa.decode p.1.code).mul (fb.decode p.2.code)))) acc

/-- R65, R92: the exponent of a block's scale. -/
def scaleExp (f : Fmt) (sc : Nat) : Int := if f.isMx then (sc : Int) - 127 else 0

/-- R64–R68: one K block: the exact sum and its one fold, special values aside. -/
def blockStep (fa fb : Fmt) (acc : Nat) (ab : List (Elem × Elem)) : Nat :=
  let ps := ab.map (fun p =>
    if (fa.isMx && p.1.scale == 0xFF) || (fb.isMx && p.2.scale == 0xFF) then Num.nan
    else (fa.decode p.1.code).mul (fb.decode p.2.code))
  let pinf := ps.any (fun v => v.isInf && !v.sign)
  let ninf := ps.any (fun v => v.isInf && v.sign)
  if ps.any Num.isNan || (pinf && ninf) then layout32.defaultNaN
  else if pinf || ninf then layout32.rne ((layout32.decode acc).add (.inf ninf))
  else
    let sum := ps.foldl (fun a v => a + (v.scale 48).toInt) (0 : Int)
    let e := match ab.head? with
      | some p => scaleExp fa p.1.scale + scaleExp fb p.2.scale
      | none => 0
    layout32.rne ((layout32.decode acc).add ((Num.ofInt sum).scale (e - 48)))

/-- R65: the K blocks of a pass, at most `n`. -/
def blockFold (fa fb : Fmt) : Nat → Nat → List (Elem × Elem) → Nat
  | 0, acc, _ => acc
  | n + 1, acc, ab =>
    if ab.isEmpty then acc else blockFold fa fb n (blockStep fa fb acc (ab.take 32)) (ab.drop 32)

/-- The accumulator values of a cell after each fold, latest first (R63, R65). -/
def macAccs (fa fb : Fmt) (acc : Nat) (ab : List (Elem × Elem)) : List Nat :=
  ab.foldl (fun l p => macFold fa fb (l.headD acc) [p] :: l) []
def blockAccs (fa fb : Fmt) : Nat → Nat → List (Elem × Elem) → List Nat
  | 0, _, _ => []
  | n + 1, acc, ab =>
    if ab.isEmpty then []
    else
      let a := blockStep fa fb acc (ab.take 32)
      a :: blockAccs fa fb n a (ab.drop 32)

/-- R63, R65: does a mode fold each product by itself. -/
def foldsEach (fa : Fmt) : Bool := fa == .bf16 || fa == .fp32

/-- R114: E of a cell: the largest exponent its accumulator held, from its start value on; none when it was never a nonzero
finite value. -/
def cellExpo (fa fb : Fmt) (start : Nat) (ab : List (Elem × Elem)) : Option Int :=
  let accs := if foldsEach fa then macAccs fa fb start ab else blockAccs fa fb (ab.length / 32 + 1) start ab
  emaxOf ((start :: accs).map layout32.decode)

/-- R62: the FP32 value of a cell from its start value and its operand pairs. -/
def cellFold (fa fb : Fmt) (acc : Nat) (ab : List (Elem × Elem)) : Nat :=
  if fa = .bf16 ∨ fa = .fp32 then macFold fa fb acc ab else blockFold fa fb (ab.length / 32 + 1) acc ab

/-- R71: the integer of a cell in split-mantissa mode from the digits of its K positions. -/
def splitFold (start : Int) (a b : List (List Int)) : Int :=
  (List.zipWith slicePair a b).foldl (· + ·) start

/-! ## Streaming -/

/-- R89, R104, R105: the entries of the fed rows or columns of an operand, pads included. -/
def State.feedRows (s : State) (n : Nat) (v : View) (f : Fmt) (i0 k0 k len pad : Nat) :
    List Nat → List (Nat × List Nat) × State
  | [] => ([], s)
  | r :: rs =>
    let e := s.readRow n v (i0 + r) k0 k
    let t := e.2.feedRows n v f i0 k0 k len pad rs
    ((r, feedEntries f (entryK f) (entryK f) 0 len (padRow f pad len e.1)) :: t.1, t.2)

/-- R70, R89, R561: the entries of the fed rows or columns of a split-mantissa operand, one K position each. -/
def State.feedDigits (s : State) (n : Nat) (v : View) (i0 k0 k : Nat) :
    List Nat → List (Nat × List Nat) × State
  | [] => ([], s)
  | r :: rs =>
    let e := s.csElems n v ((List.range k).flatMap (fun j =>
      (List.range 7).map (fun p => planeIdx (k0 + j) (i0 + r) p)))
    let t := e.2.feedDigits n v i0 k0 k rs
    ((r, feedEntries .slice 7 1 0 k e.1) :: t.1, t.2)

/-- R69, R74: exponent and mark of the sliced element at index (k, i1) of a view. Digits that no LOAD sliced have a free
exponent (log entry 27). -/
def State.sliceAt (s : State) (n : Nat) (v : View) (k i1 : Nat) : Int × Bool :=
  match v.coords (planeIdx k i1 0) with
  | none => (0, false)
  | some c =>
    let a := (v.bitAddr c).toNat / 8
    kget (Config.digitExp n a, false) (s.core n).slices a

/-- R69, R74: the exponent of row or column `i1` over the `k` positions of a pass from `k0`, and whether one of them is a
NaN or infinity. -/
def State.sliceLine (s : State) (n : Nat) (v : View) (k0 k i1 : Nat) : Int × Bool :=
  ((s.sliceAt n v k0 i1).1, (List.range k).any (fun j => (s.sliceAt n v (k0 + j) i1).2))

/-- R109: the FP32 value a preload enters its bank with: multiplied by its row's factor, with one rounding, under a row
scale. -/
def scaledPre (f : Option (List Nat)) (row x : Nat) : Nat :=
  match f with
  | none => x
  | some fs => layout32.rne ((layout32.decode x).mul (layout32.decode (fs.getD row 0)))

/-- The value a cell starts with (R68, R108, R109, R120): +0, what was preloaded, row-scaled, or what was saved. -/
def Pass.start (p : Pass) (cell : Nat) : Int :=
  if pSplit p.words || p.rowScale.isNone then kget 0 p.pre cell
  else (scaledPre p.rowScale (cell / 64) (kget 0 p.pre cell).toNat : Nat)

/-! ### The column checksum (R114) -/

/-- One FP64 operation of the checksum path. -/
def r64 (v : Num) : Num := layout64.decode (layout64.rne v)

/-- What the checksum path takes of one cell of a column: its row operand, its preload times its row-scale factor (none
without preload), its accumulator before output conversion, and E. -/
structure CheckRow where
  a   : List Num
  pre : Option Num
  acc : Num
  expo : Option Int

/-- R114: s_k of an engine. -/
def checkSums (rows : List CheckRow) (fed : Nat) : List Num :=
  (List.range fed).map (fun k => rows.foldl (fun s r => r64 (s.add (r.a.getD k Num.zero))) Num.zero)

/-- R114: the comparison of one column of an engine: 0 it passes, 1 it is skipped, 2 it fails. `k` is the pass's K and `nf`
the number of FP32 folds. -/
def columnCheck (rows : List CheckRow) (b : List Num) (k nf : Nat) : Nat :=
  let s := checkSums rows b.length
  let pres := rows.filterMap (fun r => r.pre)
  let c0 := pres.foldl (fun c x => r64 (c.add x)) Num.zero
  let ck := (List.zip s b).foldl (fun c x => r64 (c.add (x.1.mul x.2))) c0
  let p0 := (List.zip s b).foldl (fun c x => r64 (c.add (x.1.abs.mul x.2.abs))) Num.zero
  let p := pres.foldl (fun c x => r64 (c.add x.abs)) p0
  let d := rows.foldl (fun c r => r64 (c.add r.acc)) Num.zero
  if !(d.isFin && ck.isFin && p.isFin && rows.all (fun r => r.acc.isFin)) then 1
  else
    let folds := rows.foldl (fun c r => match r.expo with
      | some e => c.add ((Num.ofInt nf).scale (e - 23))
      | none => c) Num.zero
    let bound := folds.add ((p.mul (Num.ofInt (k + 130))).scale (-50))
    if bound.lt ((d.sub ck).abs) then 2 else 0

/-- R114: n_f: K positions fed or K blocks, and one more with row-scale. -/
def foldCount (fa : Fmt) (fed : Nat) (rowScale : Bool) : Nat :=
  (if foldsEach fa then fed else ceilDiv fed 32) + (if rowScale then 1 else 0)

/-- R114: the columns of the four engines whose comparison does not pass, by engine × 64 + column. `a` and `b` hold the
elements fed by tile row and column, `cells` the results. -/
def Pass.columnChecks (p : Pass) (a b : List (Nat × List Elem)) (cells : KMap Int) (k : Nat) : KMap Nat :=
  let fa := pFmtA p.words
  let fb := pFmtB p.words
  let fed := ((a.head?.map (fun x => x.2)).getD []).length
  let nf := foldCount fa fed p.rowScale.isSome
  let nums := fun (f : Fmt) (es : List Elem) => es.map (fun e => f.decodeScaled e.scale e.code)
  (List.range 4).flatMap (fun e =>
    let rows := a.filter (fun x => x.1 / 64 = e)
    if rows.isEmpty then []
    else b.filterMap (fun y =>
      let rs := rows.map (fun x =>
        let cell := x.1 * 64 + y.1
        ({ a := nums fa x.2
           pre := if pPreload p.words || p.resumed then
               some (r64 ((layout32.decode (kget 0 p.pre cell).toNat).mul
                 (match p.rowScale with
                  | some fs => layout32.decode (fs.getD x.1 0)
                  | none => Num.one)))
             else none
           acc := layout32.decode (kget 0 cells cell).toNat
           expo := cellExpo fa fb (p.start cell).toNat (List.zip x.2 y.2) } : CheckRow))
      let v := columnCheck rs (nums fb y.2) k nf
      if v = 0 then none else some (e * 64 + y.1, v)))

/-! ### The stream -/

/-- R62–R74, R100–R105: streams K positions from `kFrom` to `stop` of a pass: its cells, its NaN cells, what its column
comparisons come to, and whether a valid cell met a poisoned entry. Pads follow at the K edge only. -/
def State.streamTo (s : State) (n : Nat) (p : Pass) (stop : Nat) : Pass × State :=
  let ws := p.words
  let m := s.passMasks n ws
  let rows := validIdx m.1.1 p.m
  let cols := validIdx m.1.2.1 p.n
  let av := m.2.view p.plan (wfld ws 2 63 48)
  let bv := m.2.view p.plan (wfld ws 2 47 32)
  let ka := wfld ws 3 31 0 + p.kFrom
  let kb := wfld ws 4 63 32 + p.kFrom
  let len := stop - p.kFrom
  let bad := fun (l : List (Nat × List Nat)) => l.any (fun x => x.2.any entryPoison)
  let meets := fun (b : Bool) => b && !rows.isEmpty && !cols.isEmpty
  if pSplit ws then
    let a := m.2.feedDigits n av (wfld ws 3 63 32) ka len rows
    let b := a.2.feedDigits n bv (wfld ws 4 31 0) kb len cols
    let cells := a.1.flatMap (fun x => b.1.map (fun y =>
      (x.1 * 64 + y.1, splitFold (p.start (x.1 * 64 + y.1)) (x.2.map poppedDigits) (y.2.map poppedDigits))))
    let nan := rows.flatMap (fun r => (cols.filter (fun c =>
      (b.2.sliceLine n av (wfld ws 3 31 0) p.k (wfld ws 3 63 32 + r)).2 ||
      (b.2.sliceLine n bv (wfld ws 4 63 32) p.k (wfld ws 4 31 0 + c)).2)).map (fun c => r * 64 + c))
    ({ p with cells := cells.filter (fun c => c.2 ≠ 0), nanCells := nan, rows := rows, cols := cols
              poison := p.poison || m.1.2.2 || meets (bad a.1 || bad b.1) }, b.2)
  else
    let fa := pFmtA ws
    let fb := pFmtB ws
    let fed := if stop = p.k then fedK ws p.k - p.kFrom else len
    let a := m.2.feedRows n av fa (wfld ws 3 63 32) ka len fed (wfld ws 6 31 0) rows
    let b := a.2.feedRows n bv fb (wfld ws 4 31 0) kb len fed (wfld ws 6 63 32) cols
    let ae := a.1.map (fun x => (x.1, poppedElems fa 0x7F x.2))
    let be := b.1.map (fun x => (x.1, poppedElems fb 0x7F x.2))
    let cells := (ae.flatMap (fun x => be.map (fun y =>
      (x.1 * 64 + y.1,
        ((cellFold fa fb (p.start (x.1 * 64 + y.1)).toNat (List.zip x.2 y.2) : Nat) : Int))))).filter (fun c => c.2 ≠ 0)
    ({ p with cells := cells, rows := rows, cols := cols, checks := p.columnChecks ae be cells len
              poison := p.poison || m.1.2.2 || meets (bad a.1 || bad b.1) }, b.2)

/-! ## Issue (R93, R106, R254) -/

/-- R254: the core-store ranges of a pass: operands, preload source, masks. -/
def State.passRanges (s : State) (ws : List Word) : List (Nat × Nat) :=
  let v := fun d => s.view s.plan d
  let a := ((v (wfld ws 2 63 48)).cut 0 (wfld ws 3 31 0) (pK ws)).cut 1 (wfld ws 3 63 32) (wfld ws 1 63 55)
  let b := ((v (wfld ws 2 47 32)).cut 0 (wfld ws 4 63 32) (pK ws)).cut 1 (wfld ws 4 31 0) (wfld ws 1 54 48)
  let pre := ((v (wfld ws 2 15 0)).cut 0 (wfld ws 5 31 0) (wfld ws 1 54 48)).cut 1 (wfld ws 5 63 32) (wfld ws 1 63 55)
  let scales := fun (x : View) => if x.fmt.isMx then [x.scaleRange] else []
  [a.footprint, b.footprint] ++ scales (v (wfld ws 2 63 48)) ++ scales (v (wfld ws 2 47 32)) ++ (if pPreload ws then [pre.footprint] else []) ++
      (if bitAt (wd ws 0) 36 || bitAt (wd ws 0) 35 then [(pMask ws, pMask ws + 40)] else [])

/-- R230: do the views of a pass and its masks lie in its context's partition. -/
def State.passAllowed (s : State) (c : Nat) (ws : List Word) : Bool :=
  let ok := fun d => s.viewAllowed c (s.view s.plan d)
  ok (wfld ws 2 63 48) && ok (wfld ws 2 47 32) && (pSplit ws || ok (wfld ws 2 31 16)) &&
  (!pPreload ws || ok (wfld ws 2 15 0)) &&
  (!(bitAt (wd ws 0) 36 || bitAt (wd ws 0) 35) || s.inPartition c (pMask ws) (pMask ws + 40))

/-- R123: the next pass number of a core, and of its sequencer for context `c`. -/
def State.nextPass (s : State) (n c : Nat) : State :=
  s.modCore n (fun k => { k with
    passSeq := (k.passSeq + 1) % 2 ^ 32, seqs := kmod {} k.seqs c (fun q => { q with passes := q.passes + 1 }) })

/-- MATRIX_PASS (R93, R106, R107, R123, R230, R255, R355): a no-op, a refusal, or a pass queued for its bank. -/
def execMatrixPass (d : Desc) (s : State) : Res :=
  let n := d.core.val
  let c := d.ctx.val
  if s.mayIssue n c then
    let ws := s.issueWords d [(2, 48), (2, 32), (2, 16), (2, 0)]
    let planned := [wfld ws 1 63 55, wfld ws 1 54 48, pK ws]
    let r := s.shapeOf c s.plan (wfld ws 1 47 40) planned
    let s := r.2
    let m := r.1.1.getD 0 0
    let nn := r.1.1.getD 1 0
    let k := if wfld ws 1 47 40 = 0 then some (pK ws) else s.passK n d.words (r.1.1.getD 2 0)
    let refuse := fun (t : State) =>
      (eachMe (fun u e => u.flag (bMe n e + 0x18) 5) t).ctxFault c 0x01
    if r.1.2 then .next ((eachMe (fun u e => u.flag (bMe n e + 0x18) 4) s).ctxFault c 0x06)
    else if wfld ws 1 63 55 < m ∨ wfld ws 1 54 48 < nn then .next (refuse s)
    else
      match k with
      | none => .next (refuse s)
      | some k =>
        if m = 0 ∨ nn = 0 ∨ k = 0 then
          .next ((eachMe (fun u e => u.count (bMe n e + 0x120) 1) (s.nextPass n c)).tackleAdd (pCnt ws) 1)
        else if !s.passAllowed c ws then .next (s.ctxFault c 0x0A)
        else if !s.fenceRoom n (s.passRanges ws).length then .next (s.fenceWait n)
        else
          let s := s.nextPass n c
          let p : Pass := { seq := (s.core n).passSeq, ctx := c, plan := s.plan, words := ws, m := m, n := nn, k := k
                            micro := microOf (kget {} (s.core n).seqs c)
                            ord := (s.step.phase, (kget {} (s.core n).seqs c).passes) }
          .next ((s.modCore n (fun x => { x with passes := x.passes ++ [p] })).fenceAdd n c ownPass p.seq
            (s.passRanges ws))
  else .next s

/-! ## Preload, start, drain, replay, retire -/

/-- R96: may a pass use its bank: every earlier pass on that bank has drained. -/
def bankFree (before : List Pass) (p : Pass) : Bool :=
  before.all (fun q => pBank q.words != pBank p.words || q.phase == .drained)

/-- Changes the pass with number `seq` of a core. -/
def State.modPass (s : State) (n seq : Nat) (f : Pass → Pass) : State :=
  s.modCore n (fun c => { c with passes := c.passes.map (fun p => if p.seq = seq then f p else p) })

/-- Splits a core's passes at the first that `q` selects. -/
def firstPass (q : Pass → Bool) : List Pass → List Pass → Option (List Pass × Pass × List Pass)
  | _, [] => none
  | pre, p :: r => if q p then some (pre, p, r) else firstPass q (pre ++ [p]) r

/-- R96, R97: an interlock holds a descriptor or a drain for a CCLK. -/
def State.interlock (s : State) (n : Nat) : State := eachMe (fun u e => u.count (bMe n e + 0x118) 1) s

/-- R108: the preload buffer: the values of the valid region. -/
def State.preloadOf (s : State) (n : Nat) (p : Pass) : (KMap Int × Bool) × State :=
  let ws := p.words
  let m := s.passMasks n ws
  let v := m.2.view p.plan (wfld ws 2 15 0)
  let cells := (validIdx m.1.1 p.m).flatMap (fun r => (validIdx m.1.2.1 p.n).map (fun c => (r, c)))
  let e := m.2.csElems n v (cells.map (fun x => tileIdx v (wfld ws 5 31 0 + x.2) (wfld ws 5 63 32 + x.1)))
  let vals := List.zipWith (fun (x : Nat × Nat) (el : Elem) => (x.1 * 64 + x.2, (el.code : Int))) cells e.1
  ((vals.filter (fun x => x.2 ≠ 0), m.1.2.2 || e.1.any (fun el => el.poison)), e.2)

/-- PRELOAD_SHIFT (R96, R108, R109, R119): the first queued pass that preloads takes its row-scale vector and its
preload shifts in, once its bank has drained. -/
def execPreloadShift (core : Fin 128) (s : State) : Res :=
  let n := core.val
  match firstPass (fun p => p.phase == .queued && pPreload p.words && !p.resumed) [] (s.core n).passes with
  | none => .next s
  | some x =>
    let p := x.2.1
    let need := pRowScale p.words
    if s.fenced n || !bankFree x.1 p then .next (s.interlock n)
    else
      match need, (s.core n).rsFifo with
      | true, [] => .next s
      | true, f :: r =>
        let t := s.modCore n (fun c => { c with rsFifo := r })
        let v := t.preloadOf n p
        .next (v.2.modPass n p.seq (fun q =>
          { q with phase := .shifted, rowScale := some f.1, pre := v.1.1, poison := q.poison || v.1.2 || f.2 }))
      | false, _ =>
        let v := s.preloadOf n p
        .next (v.2.modPass n p.seq (fun q =>
          { q with phase := .shifted, pre := v.1.1, poison := q.poison || v.1.2 }))

/-- Is a pass ready to stream: nothing to preload, or its preload has shifted in. -/
def streamReady (p : Pass) : Bool :=
  p.phase == .shifted || (p.phase == .queued && (p.resumed || !pPreload p.words))

/-- R123: the pass a core now streams. -/
def State.showPass (s : State) (n : Nat) (p : Pass) : State :=
  eachMe (fun u e => u.setReg (bMe n e + 0x10) (packWord [(32, p.seq % 2 ^ 32), (0, p.kFrom % 2 ^ 32)])) s

/-- R118, R127: a replay starts. -/
def State.countReplay (s : State) (n : Nat) (p : Pass) : State :=
  if p.replay = [] then s else eachMe (fun u e => u.count (bMe n e + 0x128) 1) s

/-- PASS_STREAM_START (R95, R96): the next pass in program order streams once its bank has drained and every
earlier pass has started; its tile then stands in its bank. A pass whose replay a save abandoned is replayed (R119). An altered feeder word is met as its data (R219). -/
def execPassStreamStart (core : Fin 128) (s : State) : Res :=
  let n := core.val
  match firstPass (fun p => p.phase != .streamed && p.phase != .drained) [] (s.core n).passes with
  | none => .next s
  | some x =>
    let p := x.2.1
    if s.fenced n || !streamReady p then .next s
    else if !bankFree x.1 p then .next (s.interlock n)
    else
      let h := (s.countReplay n p).hurtWords 4 n
      let r := h.2.streamTo n p p.k
      let q : Pass := r.1
      .next ((r.2.modPass n p.seq (fun _ => { q with phase := .streamed, poison := q.poison || h.1 })).showPass n p)

/-- R126: the log word of a failed check. -/
def passLog (p : Pass) (k : Chk) : Word :=
  packWord [(32, p.seq % 2 ^ 32), (26, if k.kind = 3 then 0 else k.unit / 64 % 64), (20, k.unit % 64),
    (16, k.kind % 16), (15, pBank p.words), (0, if k.kind ≤ 2 then k.block % 2048 else 0)]

/-- R115, R126, R127: one failed check of a pass: log, flag, counter, E_CHECK_ME. -/
def State.passMismatch (s : State) (n : Nat) (p : Pass) (k : Chk) (inj : Bool) : State :=
  let e := k.unit / 4096 % 4
  let b := bMe n e
  let log := passLog p k
  let s := (s.setReg (b + 0x28) log).setReg (b + 0x30) (BitVec.ofNat 64 s.time.now)
  let s := if k.kind ≤ 2 then (s.flag (b + 0x18) 0).count (b + 0x130) 1 else (s.flag (b + 0x18) 1).count (b + 0x138) 1
  s.record { kind := 0x07, cls := 0, unitType := 2, unit := n * 8 + e, d0 := log, injected := inj }

/-- R113: does a pass have a check of a kind: 1 product residue, 2 block residue, 3 column checksum, 4 drain converter. -/
def hasCheck (ws : List Word) (kind : Nat) : Bool :=
  if pSplit ws then kind == 1 || kind == 2
  else if foldsEach (pFmtA ws) then kind == 1 || kind == 3 || kind == 4
  else 1 ≤ kind && kind ≤ 4

/-- R113: what the checks of a pass saw: by kind, cell (engine × 4,096 + row × 64 + column) and K block, of the kinds its
mode has; a column whose comparison fails (R114) is seen each time. -/
def passFails (p : Pass) (k : Chk) : List (Nat × Nat × Nat) :=
  (if k.fails = 0 then [] else ((k.kind, k.unit, k.block) :: k.also).filter (fun x => hasCheck p.words x.1)) ++
  (p.checks.filter (fun c => c.2 = 2)).map (fun c => (3, c.1 / 64 * 4096 + c.1 % 64, 0))

/-- R506: a forced failure of a check that the pass has, on the engine it names, or what the checks saw; and whether it is
forced. -/
def State.passCheck (s : State) (n : Nat) (p : Pass) (k : Chk) : (Chk × Bool) × State :=
  let a := s.takeCheck (fun r => fld r 59 50 == n && fld r 63 60 ≤ 4 && hasCheck p.words (fld r 63 60))
  match a.1 with
  | some r => (({ forcedCheck (fld r 63 60) r with unit := fld r 49 47 % 4 * 4096 }, true), a.2)
  | none => ((k, false), a.2)

/-- R115, R117: every failure of a pass is logged, and the engines that saw one. -/
def State.logFails (s : State) (n : Nat) (p : Pass) (inj : Bool) (fs : List (Nat × Nat × Nat)) : State :=
  fs.foldl (fun t f => t.passMismatch n p { fails := 1, kind := f.1, unit := f.2.1, block := f.2.2 } inj) s
def failEngines (fs : List (Nat × Nat × Nat)) : List Nat := (fs.map (fun f => f.2.1 / 4096 % 4)).eraseDups

/-- R117: a replay failed on some engines: nothing of the pass leaves, and the core is fenced. -/
def State.replayFailed (s : State) (n seq : Nat) (inj : Bool) : List Nat → State
  | [] => s
  | e :: r =>
    let s := s.modPass n seq (fun q => { q with phase := .failed })
    let s := (e :: r).foldl (fun t i => t.flag (bMe n i + 0x18) 3) s
    (if inj then s else r.foldl (fun t i => t.classify 2 (n * 8 + i)) s).engineFailed n e inj

/-- A pass that has not started, with the inputs it holds (R115, R119). -/
def Pass.unstarted (p : Pass) : Pass :=
  { p with phase := if pPreload p.words && !p.resumed then .shifted else .queued, cells := [], checks := [] }

/-- R115 step 2: a pass abandoned after an earlier one's failure keeps its held inputs and waits to restart. -/
def abandon (p : Pass) : Pass := if p.phase = .streamed then p.unstarted else p

/-- R114, R127: columns of an engine whose comparison is skipped. -/
def skippedColumns (p : Pass) (e : Nat) : Nat := (p.checks.filter (fun c => c.1 / 64 = e ∧ c.2 = 1)).length

/-- R115 step 2: the passes after the failed one that have started are abandoned; how far each had streamed is free. -/
def State.countAbandoned (s : State) (n seq : Nat) : State := s.countStopped n (fun q => q.seq != seq)

/-- R114, R127: what the checks of a drain count. -/
def State.countSkips (s : State) (n : Nat) (p : Pass) : State :=
  eachMe (fun u e => u.count (bMe n e + 0x140) (skippedColumns p e)) s

/-- PASS_DRAIN (R97, R99, R112–R115, R117): a streamed pass drains once the drain buffer is empty. When its
checks pass it goes on to write-back; a first failure abandons every later pass in progress and calls for a
replay; a replay that fails again fences the core. -/
def execPassDrain (core : Fin 128) (chk : Chk) (s : State) : Res :=
  let n := core.val
  match firstPass (fun p => p.phase == .streamed) [] (s.core n).passes with
  | none => .next s
  | some x =>
    let p := x.2.1
    if s.fenced n then .next s
    else if (s.core n).drainBusy then .next (s.interlock n)
    else
      let k := s.passCheck n p chk
      let fs := passFails p k.1.1
      let s := (k.2.countStream n p p.k).countSkips n p
      if fs = [] then
        .next ((s.modPass n p.seq (fun q => { q with phase := .drained })).modCore n (fun c =>
          { c with drainBusy := true }))
      else
        let s := s.logFails n p k.1.2 fs
        if p.replay ≠ [] then .next (s.replayFailed n p.seq k.1.2 (failEngines fs))
        else if 2 ≤ k.1.1.fails then
          let q := { p with replay := failEngines fs }
          .next (((((s.countReplay n q).countStream n p p.k).countSkips n p).logFails n p k.1.2 fs).replayFailed n p.seq
            k.1.2 (failEngines fs))
        else
          let s := s.countAbandoned n p.seq
          .next (s.modCore n (fun c => { c with
            passes := c.passes.map (fun q => if q.seq = p.seq then { q with phase := .failed, replay := failEngines fs }
              else abandon q) }))

/-- PASS_REPLAY (R115, R118): the failed pass streams again on the same bank from its held inputs. -/
def execPassReplay (core : Fin 128) (s : State) : Res :=
  let n := core.val
  match firstPass (fun p => p.phase == .failed) [] (s.core n).passes with
  | none => .next s
  | some x =>
    if s.fenced n then .next s
    else
      let s := eachMe (fun u e => u.count (bMe n e + 0x128) 1) s
      let r := s.streamTo n x.2.1 x.2.1.k
      .next ((r.2.modPass n x.2.1.seq (fun _ => { r.1 with phase := .streamed })).showPass n x.2.1)

/-- R99, R50: a drained FP32 value as FMT_OUT, every NaN the default one. -/
def drainConvert (f : Fmt) (sat : Bool) (acc : Nat) : Nat × Tally :=
  (layoutOf f).convert sat (layout32.decode acc)

/-- R118, R127: what every engine counts when a pass retires. -/
def State.countPass (s : State) (n : Nat) (p : Pass) (rows cols : List Nat) : State :=
  eachMe (fun u e =>
    (u.count (bMe n e + 0x120) 1).count (bMe n e + 0x148)
      ((rows.filter (fun r => r / 64 = e)).length * cols.length * p.k)) s

/-- R95, R99, R104: the columns a split-mantissa pass hands to the vector engine, ascending (log entry 205). -/
def splitColumns (s : State) (n : Nat) (p : Pass) (rows cols : List Nat) : List SmColumn :=
  let ws := p.words
  let av := s.view p.plan (wfld ws 2 63 48)
  let bv := s.view p.plan (wfld ws 2 47 32)
  cols.map (fun c =>
    let eb := s.sliceLine n bv (wfld ws 4 63 32) p.k (wfld ws 4 31 0 + c)
    { ctx := p.ctx
      vals := (List.range 256).map (fun r =>
        if rows.contains r then
          (kget 0 p.cells (r * 64 + c),
            (s.sliceLine n av (wfld ws 3 31 0) p.k (wfld ws 3 63 32 + r)).1 + eb.1,
            p.nanCells.contains (r * 64 + c))
        else (0, 0, false)) })

/-- R421, R441: a tile that a pass drains as FP32 joins the squares of the parameter group whose gradient it drains, if any (log
entry 192). -/
def State.noteTile (s : State) (n : Nat) (p : Pass) (xs : List Nat) : State :=
  match Config.gradGroup p.ord.1 n p.ord.2 with
  | 0 => s
  | g + 1 => if pFmtOut p.words = .fp32 then s.noteGradient (g % 256) p.micro xs else s

/-- R104, R86: writes back the valid region, converted to FMT_OUT, at the element width of the view (log entry 207), and
counts site 1. -/
def State.writeTile (s : State) (n : Nat) (p : Pass) (rows cols : List Nat) : State :=
  let ws := p.words
  let v := s.view p.plan (wfld ws 2 31 16)
  let f := pFmtOut ws
  let cells := rows.flatMap (fun r => cols.map (fun c => (r, c)))
  let outs := cells.map (fun x => (x, drainConvert f (bitAt (wd ws 0) 40) (kget 0 p.cells (x.1 * 64 + x.2)).toNat))
  let s := s.csPutElems n v (outs.map (fun o =>
    (tileIdx v (wfld ws 5 31 0 + o.1.2) (wfld ws 5 63 32 + o.1.1), { code := o.2.1 })))
  (s.addTally 1 f (outs.foldl (fun t o => t.add o.2.2) {})).noteTile n p (outs.map (fun o => o.2.1))

/-- R73, R86: counts of the FP64 conversions of the columns a split-mantissa pass hands over: one for each valid cell. -/
def splitTally (rows : List Nat) (cs : List SmColumn) : Tally :=
  cs.foldl (fun t c => rows.foldl (fun t r => t.add (smValue (c.vals.getD r (0, 0, false))).2) t) {}

/-- R95, R112, R118, R119: the write-back of a drained pass completes and the pass retires, or with poison nothing is
written and its context faults; the drain buffer's words are read (R219). -/
def State.retirePass (s : State) (n : Nat) (p : Pass) : State :=
  let s := s.modCore n (fun c =>
    let ps := c.passes.filter (fun q => q.seq ≠ p.seq)
    { c with passes := ps, drainBusy := ps.any (fun q => q.phase == .drained) })
  let h := s.hurtWords 5 n
  let s := h.2
  if p.poison || h.1 then
    (eachMe (fun u e => u.flag (bMe n e + 0x18) 4) (s.fenceDrop n ownPass p.seq)).ctxFault p.ctx 0x06
  else
    let s := s.fenceRetire n ownPass p.seq
    let m := s.passMasks n p.words
    let rows := validIdx m.1.1 p.m
    let cols := validIdx m.1.2.1 p.n
    let s := if pSplit p.words then
        let cs := splitColumns m.2 n p rows cols
        (m.2.modCore n (fun c => { c with smFifo := c.smFifo ++ cs })).addTally 6 .fp64 (splitTally rows cs)
      else m.2.writeTile n p rows cols
    let s := p.replay.foldl (fun t e => t.flag (bMe n e + 0x18) 2) (s.countPass n p rows cols)
    s.tackleAdd (pCnt p.words) 1

/-- PASS_RETIRE (R95, R112, R118, R119): the drained pass retires. -/
def execPassRetire (core : Fin 128) (s : State) : Res :=
  let n := core.val
  match firstPass (fun p => p.phase == .drained) [] (s.core n).passes with
  | none => .next s
  | some x => .next (if s.fenced n then s else s.retirePass n x.2.1)

/-! ## Stopping passes for a save (R119–R121) -/

/-- R120: the stop of a streaming pass: a K position that is a multiple of 32 from its origin, or the end of its stream;
which one depends on timing and is a free value. -/
def stopAt (p : Pass) (f : Nat) : Nat := p.kFrom + 32 * (f % ((p.k - 1 - p.kFrom) / 32 + 1) + 1)

/-- R115, R117, R119, R120: a pass drains for a save, and its checks see `chk`: did they all pass, and the state, in which a
pass whose check failed, and every later one, stands unstarted and is replayed on resume; a replay that fails again fences the
core. -/
def State.saveDrain (s : State) (n : Nat) (p : Pass) (stop : Nat) (chk : Chk) : Bool × State :=
  let k := s.passCheck n p chk
  let fs := passFails p k.1.1
  let s := (k.2.countStream n p stop).countSkips n p
  if fs = [] then (true, s)
  else
    let s := s.logFails n p k.1.2 fs
    (false,
      if p.replay ≠ [] then s.replayFailed n p.seq k.1.2 (failEngines fs)
      else (s.countAbandoned n p.seq).modCore n (fun c => { c with passes := c.passes.map (fun q =>
        if q.seq = p.seq then { q.unstarted with replay := failEngines fs } else abandon q) }))

/-- R119, R120: a pass whose stream has ended drains and is checked before a save. In a mid-pass stop its tile goes to the
save path and is written back on resume; else it retires at once. -/
def State.finishPass (s : State) (n : Nat) (p : Pass) (mid : Bool) (chk : Chk) : State :=
  let d := s.saveDrain n p p.k chk
  if !d.1 then d.2
  else if mid then d.2.modPass n p.seq (fun q => { q with phase := .drained })
  else d.2.retirePass n p

/-- R120: a streaming pass stops at `stop`: its bank's exact partial tile goes to the save path, through the checks, and it
continues from there on resume. -/
def State.stopPass (s : State) (n : Nat) (p : Pass) (stop : Nat) (chk : Chk) : State :=
  let r := s.streamTo n p stop
  let d := r.2.saveDrain n r.1 stop chk
  if d.1 then
    d.2.modPass n p.seq (fun _ => { r.1 with
      kFrom := stop, pre := r.1.cells, cells := [], checks := [], rowScale := none, resumed := true, phase := .queued })
  else d.2

/-- R119, R127: a replay in progress is abandoned; how far it had streamed is free. -/
def State.abandonReplay (s : State) (n seq : Nat) : State :=
  (s.countStopped n (fun q => q.seq == seq)).modPass n seq Pass.unstarted

/-- R115, R119, R120: the passes of a core, by number in program order, stop for a save of context `c`. Write-back in progress
completes, a pass whose stream has ended drains, and a replay is abandoned. `last` is the youngest pass that streams, and `stop`
where it stops; one of another context goes on. -/
def State.stopEach (s : State) (n c last stop : Nat) : List Chk → List Nat → State
  | _, [] => s
  | chks, q :: r =>
    match (s.core n).passes.find? (fun p => p.seq = q) with
    | none => s.stopEach n c last stop chks r
    | some p =>
      let chk := chks.headD {}
      let mid := decide (stop < ((s.core n).passes.find? (fun p => p.seq = last)).elim 0 (fun y => y.k))
      match p.phase with
      | .drained => (s.retirePass n p).stopEach n c last stop chks r
      | .failed => (if p.ctx = c then s.modPass n q Pass.unstarted else s).stopEach n c last stop chks r
      | .streamed =>
        if q = last ∧ p.ctx ≠ c then s
        else if q = last ∧ p.replay ≠ [] then (s.abandonReplay n q).stopEach n c last stop chks r
        else if q = last ∧ mid then s.stopPass n p stop chk
        else (s.finishPass n p (mid && p.ctx == c) chk).stopEach n c last stop chks.tail r
      | _ => s.stopEach n c last stop chks r

/-- R119, R120: every pass of a core stops for a save of context `c`; where the youngest one that streams stops is free. -/
def State.stopPasses (s : State) (n c : Nat) (chks : List Chk) : State :=
  let ps := (s.core n).passes
  let f := s.takeFree
  let at_ := match (ps.filter (fun p => p.phase = .streamed)).getLast? with
    | some y => (y.seq, if y.ctx = c ∧ y.replay = [] then stopAt y f.1 else y.k)
    | none => (2 ^ 32, 0)
  f.2.stopEach n c at_.1 at_.2 chks (ps.map (fun p => p.seq))

end Sys2Proof.Machine
end

