-- ==== Sys2Proof/Machine/Pages.lean ====
section
/-! DEFINITION. Page operations, copy-on-write, walk completion and invalidation (R196–R202, R308–R317). -/
namespace Sys2Proof.Machine

/-! ## The page ledger (R200, R208) -/

/-- R200, R208: the stack and pool frame that a physical address lies in, if a pool has it. -/
def State.poolFrame (s : State) (pa : Nat) : Option (Nat × Nat) :=
  let k := paStack pa
  let idx := pa % 2 ^ 36 / 65536
  let base := s.rfld (bLedger k) 51 32
  if base ≤ idx ∧ idx < base + s.poolFrames k then some (k, idx - base) else none

/-- Physical address of a frame of a pool. -/
def State.framePa (s : State) (k f : Nat) : Nat := k * 2 ^ 36 + (s.rfld (bLedger k) 51 32 + f) * 65536

/-- R200: the lowest free frame of a pool. -/
def State.freeFrame (s : State) (k : Nat) : Option Nat :=
  (List.range ((s.stack k).ledger.length + 1)).find? (fun f => f < s.poolFrames k && s.ledgerOf k f % 65536 == 0)

/-- R200: is a frame's copy-on-write in progress; its count. -/
def ledgerBusy (e : Nat) : Bool := e.testBit 31
def ledgerCount (e : Nat) : Nat := e % 65536

/-! ## Table entries (R196, R306, R307) -/

/-- What finding the 64 KiB entry of an address comes to. -/
inductive EntryAt where
  | fault (kind level : Nat)
  | at (addr : Nat) (pte : Word)

/-- R306–R308: the L3 entry of an address; levels above it must be valid tables, and a valid entry a well-formed leaf. -/
def State.entryFrom (s : State) (c va : Nat) : Nat → Nat → Nat → EntryAt × State
  | 0, level, _ => (.fault 3 level, s)
  | n + 1, level, table =>
    let at_ := table + 8 * vaIndex va level
    let r := s.readWordPa c at_
    let e := r.1.1
    if level = 3 then
      if bitAt e 0 && (!bitAt e 1 || entryMalformed e) then (.fault 3 3, r.2) else (.at at_ e, r.2)
    else if !bitAt e 0 then (.fault 1 level, r.2)
    else if bitAt e 1 || entryMalformed e then (.fault 3 level, r.2)
    else if 2 ^ 39 ≤ fld e 47 8 * 256 then (.fault 4 level, r.2)
    else r.2.entryFrom c va n (level + 1) (fld e 47 8 * 256)

/-- R306: the 64 KiB entry of an address. -/
def State.entryOfVa (s : State) (c va : Nat) : EntryAt × State :=
  if vaOk va then s.entryFrom c (va % 2 ^ 57) 4 0 (fld (s.reg (bXl + 0x180 + 8 * c)) 47 21 * 2 ^ 21)
  else (.fault 3 0, s)

/-- R310, R311, R334: what a page operation of core `n` finds at an address: the leaf that the core's TLB holds, or a walk's, a
valid leaf of which enters the TLB. The walk ends within the command (log entry 224). -/
def State.pageEntry (s : State) (n c va : Nat) : EntryAt × State :=
  if !vaOk va then (.fault 3 0, s)
  else
    match s.tlbFind n (s.ctx c).asid (va % 2 ^ 57) with
    | some e =>
      let r := s.entryOfVa c va
      (match r.1 with
       | .at a _ => .at a e.pte
       | x => x, r.2)
    | none =>
      let r := (s.count (bXl + 0x800) 1).entryOfVa c va
      let t := r.2.count (bXl + 0x808) 1
      match r.1 with
      | .at a pte =>
        let base := va % 2 ^ 57 / 65536 * 65536
        (.at a pte, if bitAt pte 0 && leafInRange pte 3 (t.ctx c).regions then t.tlbInsert n ⟨(t.ctx c).asid, base, 65536, pte, 3⟩ else t)
      | x => (x, t)

/-- R196: virtual address of page `n` of window `w` of context `c`. -/
def State.windowVa (s : State) (c w n : Nat) : Nat :=
  match s.bufferList.find? (fun b => wfld b 0 47 44 = 3 ∧ wfld b 0 43 40 = c) with
  | some b => (wd b 1).toNat + w * 2 ^ 36 + n * 65536
  | none => w * 2 ^ 36 + n * 65536

/-- R196, R348: cache policy and run-ahead bits of window pages. -/
def State.windowBits (s : State) (c : Nat) : Nat :=
  match s.bufferList.find? (fun b => wfld b 0 47 44 = 3 ∧ wfld b 0 43 40 = c) with
  | some b => wfld b 0 33 32 * 256 + (if bitAt (wd b 0) 25 then 16 else 0)
  | none => 0

/-- R307: a leaf for a frame with V, LEAF, R and W. -/
def framePte (pa bits : Nat) : Word := BitVec.ofNat 64 (pa / 65536 * 65536 + bits + 15)

/-! ## Page operations (R197, R198) -/

def pOp (ws : List Word) : Nat := wfld ws 0 55 54
def pStack (ws : List Word) : Nat := wfld ws 3 43 40 % 8
def pCntId (ws : List Word) : Nat := wfld ws 3 39 24

/-- What one page of an operation comes to. -/
inductive PageEnd where
  | done (frees : List (Nat × Nat))
  | busy
  | refused (stack va : Nat)
  | fault (va kind level : Nat)

/-- R198: one page of an ALLOC. -/
def State.allocPage (s : State) (n : Nat) (o : PageOp) (va : Nat) : PageEnd × State :=
  let k := pStack o.words
  let e := s.pageEntry n o.ctx va
  match e.1 with
  | .fault kind l => (.fault va kind l, e.2)
  | .at a pte =>
    if bitAt pte 0 then (.refused k va, e.2)
    else
      match e.2.freeFrame k with
      | none => (.refused k va, e.2)
      | some f =>
        let pa := e.2.framePa k f
        let s := ((e.2.fillZero pa 1).setLedger k f 1).writeWordPa o.ctx a (framePte pa (e.2.windowBits o.ctx))
        (.done [], s)

/-- R198, R202: one page of a SHARE. -/
def State.sharePage (s : State) (n : Nat) (o : PageOp) (va src : Nat) : PageEnd × State :=
  let e := s.pageEntry n o.ctx src
  match e.1 with
  | .fault kind l => (.fault src kind l, e.2)
  | .at a pte =>
    let d := e.2.pageEntry n o.ctx va
    match d.1 with
    | .fault kind l => (.fault va kind l, d.2)
    | .at b old =>
      match d.2.poolFrame (fld pte 47 16 * 65536) with
      | none => (.refused (pStack o.words) src, d.2)
      | some (k, f) =>
        let x := d.2.ledgerOf k f
        if !bitAt pte 0 || 65535 ≤ ledgerCount x then (.refused k src, d.2)
        else if bitAt old 0 then (.refused k va, d.2)
        else if ledgerBusy x then (.busy, d.2)
        else
          let p := setBit pte 5
          let s := (d.2.setLedger k f (BitVec.ofNat 32 (x + 1))).writeWordPa o.ctx a p
          (.done [], (s.writeWordPa o.ctx b p).count (bLedger k + 0x118) 1)

/-- R198, R202, R312: one page of a RELEASE. A frame whose last page goes keeps its count until the invalidation is
complete. -/
def State.releasePage (s : State) (n : Nat) (o : PageOp) (va : Nat) : PageEnd × State :=
  let e := s.pageEntry n o.ctx va
  match e.1 with
  | .fault kind l => (.fault va kind l, e.2)
  | .at a pte =>
    if !bitAt pte 0 then (.refused (pStack o.words) va, e.2)
    else
      match e.2.poolFrame (fld pte 47 16 * 65536) with
      | none => (.done [], e.2.writeWordPa o.ctx a 0)
      | some (k, f) =>
        let x := e.2.ledgerOf k f
        if ledgerBusy x then (.busy, e.2)
        else
          let s := (e.2.writeWordPa o.ctx a 0).count (bLedger k + 0x120) 1
          if ledgerCount x ≤ 1 then (.done [(k, f)], s)
          else (.done [], s.setLedger k f (BitVec.ofNat 32 (x - 1)))

/-- R198: the operation's addresses of page `p`: destination and source. -/
def State.pageVas (s : State) (o : PageOp) (p : Nat) : Nat × Nat :=
  (s.windowVa o.ctx (wfld o.words 1 63 48) (wfld o.words 2 63 44 + p),
   s.windowVa o.ctx (wfld o.words 1 47 32) (wfld o.words 2 43 24 + p))

def State.onePage (s : State) (n : Nat) (o : PageOp) (p : Nat) : PageEnd × State :=
  let v := s.pageVas o p
  match pOp o.words with
  | 0 => s.allocPage n o v.1
  | 1 => s.sharePage n o v.1 v.2
  | _ => s.releasePage n o v.1

/-- R312: asks for the invalidation of pages `from_` to `to_ − 1` of an operation. -/
def State.pageInvals (s : State) (n : Nat) (o : PageOp) (from_ to_ : Nat) (frees : List (Nat × Nat)) : State :=
  if from_ < to_ then
    let asid := (s.ctx o.ctx).asid
    let one : Nat → List (Nat × Nat) → Inval := fun va fr =>
      { asid := asid
        lo := va % 2 ^ 57
        hi := va % 2 ^ 57 + (to_ - from_) * 65536
        frees := fr
        op := some (n, o.num) }
    let v := s.pageVas o from_
    { s with invals := s.invals ++ [one v.1 frees] ++ (if pOp o.words = 1 then [one v.2 []] else []) }
  else s

/-- R198, R314: a page operation of core `n` parks at its page. -/
def State.parkPages (s : State) (n : Nat) (o : PageOp) (va code kind level : Nat) (noWalk : Bool) : PageOp × State :=
  ({ o with phase := .parked },
    s.park { core := n, ctx := o.ctx, engine := 1, queue := 0, granule := o.page, va := va, write := true,
             code := code, since := s.time.now, item := o.num } kind level noWalk)

/-- R198, R314, R331: runs an operation page by page from where it stands: it finishes, waits for a busy frame, or parks, on a
translation fault or with E_PERM on a requirement that fails. -/
def State.runPages (s : State) (n from_ : Nat) : Nat → PageOp → List (Nat × Nat) → PageOp × State
  | 0, o, fr => ({ o with phase := .finished }, s.pageInvals n o from_ o.page fr)
  | k + 1, o, fr =>
    let r := s.onePage n o o.page
    match r.1 with
    | .done f => r.2.runPages n from_ k { o with page := o.page + 1 } (fr ++ f)
    | .busy => ({ o with phase := .waiting }, r.2.pageInvals n o from_ o.page fr)
    | .refused st va => ((r.2.pageInvals n o from_ o.page fr).flag (bLedger st + 0x10) 3).parkPages n o va 0x0A 2 3 (s.tlbHit n o.ctx va)
    | .fault va kind level => (r.2.pageInvals n o from_ o.page fr).parkPages n o va 0x09 kind level (!vaOk va)

/-- Puts a page operation back. -/
def State.putPageOp (s : State) (n : Nat) (o : PageOp) : State :=
  s.modCore n (fun c => { c with pageOps := c.pageOps.map (fun x => if x.num = o.num then o else x) })

/-- Runs a page operation that may go on. -/
def State.runPageOp (s : State) (n : Nat) (o : PageOp) : State :=
  let r := s.runPages n o.page (o.count - o.page) o []
  r.2.putPageOp n r.1

/-- R312: an operation whose pages are done retires once its invalidations are complete. -/
def State.retirePageOp (s : State) (n num : Nat) : State :=
  match (s.core n).pageOps.find? (fun o => o.num = num) with
  | none => s
  | some o =>
    if o.phase = .finished ∧ !s.invals.any (fun i => i.op == some (n, num)) then
      (s.modCore n (fun c => { c with pageOps := c.pageOps.filter (fun x => x.num ≠ num) })).tackleAdd (pCntId o.words) 1
    else s

/-- Runs every page operation that waited for a busy frame. -/
def State.runPageOps (s : State) : State :=
  let l := s.cores.flatMap (fun c => (c.2.pageOps.filter (fun o => o.phase == .waiting)).map (fun o => (c.1, o)))
  l.foldl (fun t x => if (t.ctx x.2.ctx).state = 2 then t.runPageOp x.1 { x.2 with phase := .ready } else t) s

/-- R197, R198, R106: issues a page operation. -/
def State.issuePages (s : State) (d : Desc) : Res :=
  let n := d.core.val
  let c := d.ctx.val
  if s.mayIssue n c then
    let ws := d.words
    let planned := wfld ws 3 63 44
    let r := s.shapeOf c s.plan (wfld ws 1 31 24) [planned]
    let s := r.2
    let count := r.1.1.getD 0 0
    if r.1.2 then .next (s.ctxFault c 0x06)
    else if planned < count then .next (s.ctxFault c 0x01)
    else if count = 0 then .next (s.tackleAdd (pCntId ws) 1)
    else
      let num := (s.core n).aeNum
      let o : PageOp := { ctx := c, words := ws, count := count, num := num }
      let s := s.modCore n (fun k => { k with aeNum := num + 1, pageOps := k.pageOps ++ [o] })
      .next (s.runPageOp n o)
  else .next s

/-- ALLOC (R198). -/
def execAlloc (d : Desc) (s : State) : Res := s.issuePages d
/-- SHARE (R198). -/
def execShare (d : Desc) (s : State) : Res := s.issuePages d
/-- RELEASE (R198). -/
def execRelease (d : Desc) (s : State) : Res := s.issuePages d

/-! ## Copy-on-write (R201, R202) -/

/-- Changes every access-engine descriptor that `p` selects, of every core. -/
def State.modItems (s : State) (p : AeItem → Bool) (f : AeItem → AeItem) : State :=
  { s with cores := s.cores.map (fun (c : Nat × Core) => (c.1, { c.2 with
      queues := c.2.queues.map (fun (q : Nat × List AeItem) => (q.1, q.2.map (fun i => if p i then f i else i))) })) }

/-- Does a descriptor wait for a copy-on-write of the page of a context. -/
def waitsCow (c page : Nat) (i : AeItem) : Bool :=
  i.ctx == c && match i.phase with | .cow va => va / 65536 == page | _ => false

/-- R201, R202: parks the writers of a page whose pool is empty. -/
def State.parkPool (s : State) (c page k : Nat) : State :=
  let l := s.cores.flatMap (fun x => x.2.queues.flatMap (fun q =>
    (q.2.filter (waitsCow c page)).map (fun i => (x.1, q.1, i))))
  let s := (s.flag (bLedger k + 0x10) 1).count (bLedger k + 0x110) 1
  l.foldl (fun t x =>
    let u := t.putItem x.1 x.2.1 { x.2.2 with phase := .parked, resumed := true }
    u.park { core := x.1, ctx := c, engine := if x.2.1 = collQueue then 2 else 0, queue := x.2.1, granule := t.granuleOf x.2.2 (page * 65536), va := page * 65536,
             write := true, code := 0x09, since := u.time.now, item := x.2.2.num, pool := some k } 1 3 false) s

/-- R201: the service of a page starts where none is in progress: it waits for BUSY, or parks on an empty pool. -/
def State.startCow (s : State) (c page : Nat) (pte : Word) (level : Nat) : State :=
  if s.cows.any (fun w => w.ctx = c ∧ w.va = page) then s
  else
    let add := fun (t : State) (w : Cow) => { t with cows := t.cows ++ [w] }
    match (if level = 3 then s.poolFrame (fld pte 47 16 * 65536) else none) with
    | none => add s ⟨c, page, 0, none, .keep⟩
    | some (k, f) =>
      let e := s.ledgerOf k f
      if ledgerBusy e then add s ⟨c, page, k, some f, .busy⟩
      else if ledgerCount e ≤ 1 then add s ⟨c, page, k, some f, .keep⟩
      else
        match s.freeFrame k with
        | none => s.parkPool c page k
        | some g =>
          let s := (s.setLedger k f (BitVec.ofNat 32 (e + 2 ^ 31))).setLedger k g 1
          add s ⟨c, page, k, some f, .copy g⟩

/-- R201: writes the page's entry with `f` applied, and every core drops the page. -/
def State.cowEntry (s : State) (c page : Nat) (f : Word → Word) : State :=
  let w := s.walk c (page * 65536)
  match w.1 with
  | .leaf pte _ base size at_ => (w.2.writeWordPa c at_ (f pte)).invalidate (w.2.ctx c).asid base (base + size)
  | _ => w.2

/-- R316: contexts of an address space whose entry change is complete: their parked descriptors re-walk. -/
def State.entryChanged (s : State) (asid : Nat) : State :=
  ((List.range 16).filter (fun c => (s.ctx c).asid = asid ∧ (s.ctx c).state = 2)).foldl (fun t c => t.retryParks c) s

/-- R201: the service of a page ends: its writers resume at their granules. -/
def State.endCow (s : State) (w : Cow) : State :=
  let s := { s with cows := s.cows.filter (fun x => !(x.ctx = w.ctx ∧ x.va = w.va)) }
  let s := (s.modItems (waitsCow w.ctx w.va) (fun i => { i with phase := .ready, cowed := false })).flag (bXl + 0x10) 2
  (s.entryChanged (s.ctx w.ctx).asid).runPageOps.runEngines

/-- COW_SERVICE_DONE (R201, R202): the n-th service ends: with the frame kept, or with a copy; one that waited for
BUSY walks again once it is clear. -/
def execCowServiceDone (n : Nat) (s : State) : Res :=
  match s.cows[n]? with
  | none => .next s
  | some w =>
    let k := w.stack
    match w.stage, w.frame with
    | .busy, some f =>
      if ledgerBusy (s.ledgerOf k f) then .next s
      else
        let s := { s with cows := s.cows.eraseIdx n }
        let s := s.modItems (waitsCow w.ctx w.va) (fun i => { i with phase := .walking (w.va * 65536) true })
        .next (s.askWalk w.ctx (w.va * 65536))
    | .copy g, some f =>
      let src := s.framePa k f
      let dst := s.framePa k g
      let s := s.stackCopy src dst 1
      let s := s.setLedger k f (BitVec.ofNat 32 (s.ledgerOf k f % 2 ^ 31 - 1))
      let s := s.cowEntry w.ctx w.va (fun p => setFld (clearBit p 5) 47 16 (dst / 65536))
      .next (((s.count (bLedger k + 0x100) 1).flag (bLedger k + 0x10) 0).endCow w)
    | _, fr =>
      let s := s.cowEntry w.ctx w.va (fun p => clearBit p 5)
      .next ((if fr.isSome then s.count (bLedger k + 0x108) 1 else s).endCow w)

/-! ## Walk completion (R308, R311, R314, R316) -/

/-- Does a descriptor wait for a walk of the page of a context. -/
def waitsWalk (c page : Nat) (i : AeItem) : Bool :=
  i.ctx == c && match i.phase with | .walking va _ => va / 65536 == page | _ => false

/-- The address and kind of the access a descriptor walks for. -/
def walkOf (i : AeItem) : Nat × Bool := match i.phase with | .walking va w => (va, w) | _ => (0, false)

/-- R314: a descriptor whose walk failed parks. -/
def State.parkItem (s : State) (n q : Nat) (i : AeItem) (kind code level : Nat) : State :=
  let w := walkOf i
  let s := s.putItem n q { i with phase := .parked, resumed := true }
  s.park { core := n, ctx := i.ctx, engine := if q = collQueue then 2 else 0, queue := q, granule := s.granuleOf i w.1, va := w.1, write := w.2, code := code,
           since := s.time.now, item := i.num } kind level false

/-- Every descriptor that waits for a walk of a page. -/
def State.walkers (s : State) (c page : Nat) : List (Nat × Nat × AeItem) :=
  s.cores.flatMap (fun x => x.2.queues.flatMap (fun q => (q.2.filter (waitsWalk c page)).map (fun i => (x.1, q.1, i))))

/-- R201, R202: a writing descriptor has found COW = 1: E_COW is recorded once for its fault, and it waits for the service of
the page. -/
def State.cowItem (s : State) (n q : Nat) (i : AeItem) (va : Nat) (pte : Word) (level : Nat) : State :=
  let s := if i.cowed then s
    else s.record { kind := 0x0B, cls := 0, unitType := 8, unit := i.ctx, d0 := BitVec.ofNat 64 (va / 65536 * 65536) }
  (s.putItem n q { i with phase := .cow va, cowed := true }).startCow i.ctx (va / 65536) pte level

/-- R313: does an access go beyond the length of its host region. -/
def State.beyond (s : State) (n c va : Nat) (write : Bool) : Bool :=
  match s.translate n c va write with
  | .fault k _ _ => k == 4
  | _ => false

/-- R308 checks 5 and 6, R313: one descriptor takes a walk's leaf: it parks, starts a copy-on-write, or goes on. -/
def State.takeLeaf (s : State) (n q : Nat) (i : AeItem) (pte : Word) (level : Nat) : State :=
  let w := walkOf i
  if leafDenies pte w.2 then s.parkItem n q i 2 0x0A level
  else if s.beyond n i.ctx w.1 w.2 then s.parkItem n q i 4 0x09 level
  else if leafCow pte w.2 then
    s.cowItem n q i w.1 pte level
  else s.putItem n q { i with phase := .ready, cowed := false }

/-- R316: a parked engine takes the leaf of its re-walk: it stays parked where the leaf still denies it. -/
def State.unpark (s : State) (p : Park) (pte : Word) (level : Nat) : State :=
  let stays := leafDenies pte p.write ||
    (match s.translate p.core p.ctx p.va p.write with | .fault _ _ _ => true | _ => false)
  if stays then s
  else
    let s := { s with parks := s.parks.filter (fun x => x ≠ p) }
    if p.engine = 1 then s
    else
      match (s.queue p.core p.queue).find? (fun i => i.num == p.item && i.phase == .parked) with
      | none => s
      | some i =>
        if leafCow pte p.write then s.cowItem p.core p.queue i p.va pte level
        else s.putItem p.core p.queue { i with phase := .ready, cowed := false }

/-- R198, R316: page operations that stand parked try again; one whose page still cannot be done stays parked, with no new
event. -/
def State.retryPages (s : State) (c : Nat) : State :=
  let l := s.cores.flatMap (fun x => (x.2.pageOps.filter (fun o => o.ctx == c && o.phase == .parked)).map (fun o => (x.1, o)))
  l.foldl (fun t x =>
    let r := t.onePage x.1 x.2 x.2.page
    match r.1 with
    | .fault _ _ _ => r.2
    | .refused _ _ => r.2
    | _ =>
      let u := { t with parks := t.parks.filter (fun p => !(p.engine = 1 ∧ p.core = x.1 ∧ p.item = x.2.num)) }
      u.runPageOp x.1 { x.2 with phase := .ready }) s

/-- R310: enters a leaf for a core. -/
def State.enterLeaf (s : State) (c n : Nat) (pte : Word) (level base size : Nat) : State :=
  s.tlbInsert n ⟨(s.ctx c).asid, base, size, pte, level⟩

/-- WALK_COMPLETE (R308, R311): the n-th walk ends, when it runs: everything that waits for its page takes its
result. -/
def execWalkComplete (n : Nat) (s : State) : Res :=
  match s.walks[n]? with
  | none => .next s
  | some w =>
    if !w.running then .next s
    else
      let c := w.ctx
      let s := { s with walks := runWalks (s.walks.eraseIdx n) }.count (bXl + 0x808) 1
      let r := s.walk c (w.va * 65536)
      let s := r.2
      let ws := s.walkers c w.va
      match r.1 with
      | .poison => .next (s.ctxFault c 0x06)
      | .fault kind code level =>
        .next ((ws.foldl (fun t x => t.parkItem x.1 x.2.1 x.2.2 kind code level) s).retryPages c)
      | .leaf pte level base size _ =>
        let ps := s.parks.filter (fun p => p.ctx = c ∧ p.va / 65536 = w.va)
        let ns := (ws.map (fun x => x.1) ++ ps.map (fun p => p.core)).eraseDups
        let s := ns.foldl (fun t k => t.enterLeaf c k pte level base size) s
        let s := ws.foldl (fun t x => t.takeLeaf x.1 x.2.1 x.2.2 pte level) s
        let s := ps.foldl (fun t p => t.unpark p pte level) s
        .next (s.retryPages c).runEngines

/-- PARK_LIMIT_EXPIRY (R317, R328): the n-th park outlasts its context's limit: the context faults with the code of
the park. -/
def execParkLimitExpiry (n : Nat) (s : State) : Res :=
  match s.parks[n]? with
  | none => .next s
  | some p =>
    let limit := s.rfld (bXl + 0x300 + 8 * p.ctx) 31 0
    if limit ≠ 0 ∧ (s.ctx p.ctx).state = 2 ∧ p.since + 1000 * limit < s.time.now then
      .next ((s.flag (bXl + 0x10) 3).ctxFault p.ctx p.code)
    else .next s

/-! ## Invalidation (R312) -/

/-- R200, R202, R312: frames return to their pools; writes parked on an empty pool walk again. -/
def State.returnFrames (s : State) (fs : List (Nat × Nat)) : State :=
  let s := fs.foldl (fun t x => t.setLedger x.1 x.2 0) s
  (s.parks.filter (fun p => fs.any (fun x => p.pool == some x.1))).foldl (fun t p => t.askWalk p.ctx p.va) s

/-- INVALIDATION_COMPLETE (R312, R316): the n-th broadcast is acknowledged by every core: frames return, parked
descriptors of the address space re-walk, and what waited for it completes. -/
def execInvalidationComplete (n : Nat) (s : State) : Res :=
  match s.invals[n]? with
  | none => .next s
  | some i =>
    let s := { s with invals := s.invals.eraseIdx n }
    let s := (s.invalidate i.asid i.lo i.hi).returnFrames i.frees
    let s := s.entryChanged i.asid
    let s := ((List.range 16).filter (fun c => (s.ctx c).asid = i.asid ∧ (s.ctx c).state = 2)).foldl
      (fun t c => t.retryPages c) s
    let s := match i.op with
      | some (k, num) => s.retirePageOp k num
      | none => s
    .next (match i.reply with
      | some (e, code) => s.respond e code 0 []
      | none => s)

end Sys2Proof.Machine
end

