-- ==== Sys2Proof/Machine/Contexts.lean ====
section
/-! DEFINITION. Contexts: saving and restoring, requests, bubble windows, filler credit (R316, R318–R328, R333). -/
namespace Sys2Proof.Machine

/-! ## The save area (R320) -/

/-- Is context `c` one that may be pre-empted: every used one except CTX0 (R318). -/
def State.preemptible (s : State) (c : Nat) : Bool := (s.ctx c).cls == 2 || (s.ctx c).cls == 3

/-- R320: offset of a core's part in the save area of its context. -/
def saveBase (x : Ctx) (n : Nat) : Nat := ((x.coreList.takeWhile (fun m => m ≠ n)).length) * 262144

/-- R348: cache policy of a buffer. -/
def State.bufPolicy (s : State) (b : Nat) : Nat :=
  match s.buffer b with
  | some ws => wfld ws 0 33 32
  | none => 0

/-- Writes bytes into a save area at an offset, at most `k` pieces of 4 KiB. -/
def State.savePut (s : State) (b : Nat) : Nat → Nat → List PByte → State
  | 0, _, _ => s
  | k + 1, off, bs =>
    match s.bufPa b off, bs with
    | some pa, _ :: _ =>
      let m := 4096 - off % 4096
      (s.writePa 0 (s.bufPolicy b) pa (bs.take m)).savePut b k (off + m) (bs.drop m)
    | _, _ => s

/-- Reads bytes of a save area, at most `k` pieces of 4 KiB. -/
def State.saveGet (s : State) (b : Nat) : Nat → Nat → Nat → List PByte × State
  | 0, _, _ => ([], s)
  | k + 1, off, n =>
    match s.bufPa b off, n with
    | some pa, _ + 1 =>
      let m := min n (4096 - off % 4096)
      let r := s.readPa 0 (s.bufPolicy b) pa m
      let t := r.2.saveGet b k (off + m) (n - m)
      (r.1 ++ t.1, t.2)
    | _, _ => ([], s)

/-- One part of a save area: its offset and size (R320). -/
structure SavePart where
  off  : Nat
  size : Nat

def partBank (b : Nat) : SavePart := ⟨b * 0x10000, 0x10000⟩
def partRegs : SavePart := ⟨0x20000, 0x10000⟩
def partPoison : SavePart := ⟨0x30000, 0x800⟩
def partScale : SavePart := ⟨0x30800, 0x1000⟩
def partStream : SavePart := ⟨0x31800, 0x4000⟩
def partSeq : SavePart := ⟨0x35800, 0x2000⟩
def partTables : SavePart := ⟨0x38000, 0x8000⟩

/-- R120: the cells of a pass that its bank held when it was saved: a finished tile that has drained into the save path,
or a partial one. -/
def Pass.held (p : Pass) : KMap Int := if p.phase = .drained then p.cells else p.pre

/-- R120: does a pass hold a tile in bank `b`. -/
def holdsBank (b : Nat) (p : Pass) : Bool := pBank p.words == b && (p.phase == .drained || p.resumed)

/-- R320: FP32 bytes of a bank, ME0 first. -/
def bankBytes (p : Pass) : List PByte :=
  (List.range 16384).flatMap (fun i => plain (leBytes 4 (kget 0 p.held i).toNat))

/-- R320: bytes of V0 to V63, and their lane poison bits. -/
def regBytes (m : KMap VReg) : List PByte :=
  (List.range 64).flatMap (fun k => (kget VReg.zero m k).lanes.flatMap (fun x => plain (leBytes 4 x)))

def poisonBytes (m : KMap VReg) : List PByte :=
  (List.range 64).flatMap (fun k =>
    let v := (kget VReg.zero m k).poison
    plain (leBytes 32 ((List.range 256).foldl (fun a i => if v.getD i false then a + 2 ^ i else a) 0)))

/-- R320: bytes of the row-scale FIFO, oldest vector first. -/
def scaleBytes (l : List (List Nat × Bool)) : List PByte :=
  l.flatMap (fun v => v.1.flatMap (fun x => (leBytes 4 x).map (fun b => (b, v.2))))

/-- A part whose inner layout the spec does not give: free bytes. -/
def State.freePart (s : State) (p : SavePart) : (SavePart × List PByte) × State :=
  let f := s.takeFree
  ((p, plain (leBytes p.size f.1)), f.2)

/-- R320: the parts of a save area that a context uses on a core, with their bytes. `k` is what is saved: its registers
where the context has run a vector instruction, the others where they hold something; `work` tells whether the sequencer or the access engine has something to record. -/
def State.saveParts (s : State) (k : Core) (work : Bool) : List (SavePart × List PByte) × State :=
  let bank := fun (t : List (SavePart × List PByte) × State) (b : Nat) =>
    match k.passes.find? (holdsBank b) with
    | none => t
    | some p =>
      if pSplit p.words then
        let f := t.2.freePart (partBank b)
        (t.1 ++ [f.1], f.2)
      else (t.1 ++ [(partBank b, bankBytes p)], t.2)
  let free := fun (t : List (SavePart × List PByte) × State) (on : Bool) (p : SavePart) =>
    if on then
      let f := t.2.freePart p
      (t.1 ++ [f.1], f.2)
    else t
  let t := bank (bank ([], s) 0) 1
  let t := if k.veCtx = 0 then t
    else (t.1 ++ [(partRegs, regBytes k.vregs), (partPoison, poisonBytes k.vregs)], t.2)
  let t := if k.rsFifo = [] then t else (t.1 ++ [(partScale, scaleBytes k.rsFifo)], t.2)
  free (free (free t (!k.stream.isEmpty) partStream) work partSeq) (!k.slots.isEmpty) partTables

/-- What is saved of a core for context `c`: of the vector engines only what is the context's. -/
def Core.savedPart (k : Core) (x : Ctx) (c : Nat) : Core :=
  let mine := k.veCtx == c
  { vregs := if mine then k.vregs else []
    veCtx := if mine then c else 0
    passes := k.passes.filter (fun p => p.ctx = c)
    drainBusy := k.passes.any (fun p => p.ctx = c ∧ p.phase = .drained)
    rsFifo := if mine then k.rsFifo else []
    smFifo := k.smFifo.filter (fun m => m.ctx = c)
    stream := if mine then k.stream else []
    fillDue := if mine then k.fillDue.filter (fun d => d.1 = 16) else []
    routine := k.routine.filter (fun r => r.ctx = c)
    layouts := k.layouts.filter (fun l => l.ctx = c)
    slots := k.slots.filter (fun t => x.slots.testBit t.1) }

/-- What stays in a core when context `c` has been saved. -/
def Core.afterSave (k : Core) (c : Nat) : Core :=
  let ps := k.passes.filter (fun p => p.ctx ≠ c)
  { k with
    passes := ps
    drainBusy := ps.any (fun p => p.phase == .drained)
    rsFifo := if k.veCtx = c then [] else k.rsFifo
    smFifo := k.smFifo.filter (fun m => m.ctx ≠ c)
    stream := if k.veCtx = c then [] else k.stream
    fillDue := if k.veCtx = c then kdel k.fillDue 16 else k.fillDue
    veCtx := if k.veCtx = c then 0 else k.veCtx
    routine := k.routine.filter (fun r => r.ctx ≠ c)
    layouts := k.layouts.filter (fun l => l.ctx ≠ c) }

/-! ## Restore (R323) -/

/-- A word of bytes read back, with its poison. -/
def wordAt (bs : List PByte) (i : Nat) : Nat × Bool :=
  let b := (bs.drop (4 * i)).take 4
  (ofLeBytes (b.map (fun x => x.1)), b.any (fun x => x.2))

/-- R131, R320: V0 to V63 from the bytes of their part and of the poison bits. -/
def regsBack (bs ps : List PByte) : KMap VReg :=
  ((List.range 64).map (fun k =>
    let ws := (List.range 256).map (fun i => wordAt bs (256 * k + i))
    let v : VReg := ⟨ws.map (fun w => w.1), (ws.zipIdx).map (fun w =>
      let b := ps.getD (32 * k + w.2 / 8) (0, false)
      w.1.2 || b.2 || b.1.toNat.testBit (w.2 % 8))⟩
    (k, v))).filter (fun x => x.2 ≠ VReg.zero)

/-- R120: a pass with its tile read back from its bank; poison faults only the pass. -/
def passBack (bs : List PByte) (p : Pass) : Pass :=
  let ws := (List.range 16384).map (fun i => wordAt bs i)
  let bad := ws.any (fun w => w.2)
  if pSplit p.words then { p with poison := p.poison || bad }
  else
    let cells : KMap Int := ((ws.zipIdx).map (fun w => (w.2, (w.1.1 : Int)))).filter (fun c => c.2 ≠ 0)
    if p.phase = .drained then { p with cells := cells, poison := p.poison || bad }
    else { p with pre := cells, poison := p.poison || bad }

/-- R323: the tiles of saved passes read back. -/
def State.banksBack (s : State) (b base : Nat) : List Pass → List Pass × State
  | [] => ([], s)
  | p :: r =>
    if holdsBank (pBank p.words) p then
      let x := s.saveGet b 32 (base + (partBank (pBank p.words)).off) 0x10000
      let t := x.2.banksBack b base r
      (passBack x.1 p :: t.1, t.2)
    else
      let t := s.banksBack b base r
      (p :: t.1, t.2)

/-- R323: one core of a context reads its save area back into its engines. -/
def State.restoreCore (s : State) (c n : Nat) : State :=
  let x := s.ctx c
  match x.saved.find? (fun k => k.1 = n) with
  | none => s
  | some (_, k) =>
    let base := saveBase x n
    let get := fun (t : State) (p : SavePart) => t.saveGet x.saveBuf 32 (base + p.off) p.size
    let ps := s.banksBack x.saveBuf base k.passes
    let v := if k.veCtx = 0 then ([], ps.2)
      else
        let r := get ps.2 partRegs
        let q := get r.2 partPoison
        (regsBack r.1 q.1, q.2)
    let f := if k.rsFifo = [] then ([], v.2)
      else
        let r := get v.2 partScale
        ((List.range k.rsFifo.length).map (fun i =>
          let ws := (List.range 256).map (fun j => wordAt r.1 (256 * i + j))
          (ws.map (fun w => w.1), ws.any (fun w => w.2))), r.2)
    (f.2.modCore n (fun y => { y with
      vregs := if k.veCtx = 0 then y.vregs else v.1
      veCtx := if k.veCtx = 0 then y.veCtx else c
      passes := y.passes ++ ps.1
      drainBusy := y.drainBusy || k.drainBusy
      rsFifo := y.rsFifo ++ f.1
      smFifo := y.smFifo ++ k.smFifo
      stream := if k.stream = [] then y.stream else k.stream
      fillDue := k.fillDue.foldl (fun m d => kset [] m d.1 d.2) y.fillDue
      routine := match k.routine with
        | some r => some r
        | none => y.routine
      layouts := y.layouts ++ k.layouts
      slots := k.slots.foldl (fun m t => kset {} m t.1 t.2) y.slots })).modCtx c (fun z =>
        { z with saved := kdel z.saved n })

/-! ## Save (R321) -/

/-- R272, R321: unconfirmed hoists of a context on a core are released. -/
def State.releaseHoists (s : State) (c n : Nat) : State :=
  s.endHoists (fun h => h.ctx == c && h.core == n)

/-- R321, R334: one core of a context stops and its state goes to the save area. -/
def State.saveCore (s : State) (c n : Nat) (chks : List Chk) : State :=
  -- R328: a restore still to come completes before the save
  let s := s.restoreCore c n
  let s := (s.stopPasses n c chks).releaseHoists c n
  -- R161: a table load in progress and its swap complete first
  let s := ((List.range 4).filter (s.ctx c).slots.testBit).foldl (fun t k => t.swapTable n k) s
  if (s.ctx c).state = 6 then s
  else
  let x := s.ctx c
  let core := s.core n
  let k := core.savedPart x c
  let work := (kget {} core.seqs c != {}) || core.queues.any (fun q => q.2.any (fun i => i.ctx = c)) ||
    core.pageOps.any (fun o => o.ctx = c) || k.passes.any (fun p => p.resumed)
  let ps := s.saveParts k work
  let s := ps.1.foldl (fun t p => t.savePut x.saveBuf 32 (saveBase x n + p.1.off) p.2) ps.2
  let s := s.count (bXl + 0x830) ((ps.1.map (fun p => p.1.size)).foldl (· + ·) 0)
  let s := s.modCore n (fun y => y.afterSave c)
  s.modCtx c (fun z => { z with pending := z.pending.filter (fun m => m ≠ n), saved := kput z.saved n k })

/-- PREEMPT_SAVE (R321): a core of a saving context stops and saves. -/
def execPreemptSave (core : Fin 128) (save : SaveOp) (s : State) : Res :=
  let x := s.ctx save.ctx
  .next (if x.state = 3 ∧ x.pending.contains core.val then s.saveCore save.ctx core save.chks else s)

/-- R323, R330: a saved context leaves SAVED and begins to restore. -/
def State.beginRestore (s : State) (c : Nat) : State :=
  let x := s.ctx c
  if x.state = 4 then (s.setCtx c { x with state := 5 }).flag (bXl + 0x10) 5 else s

/-- Is a window of filler `c` open. -/
def State.windowOpenFor (s : State) (c : Nat) : Bool := s.windows.any (fun w => s.windowFiller w = c)

/-- R322–R324, R330, R334: a context whose every core has saved, with no copy-on-write in service, enters SAVED; a
filler whose window is open again begins to restore. -/
def State.ctxSaved (s : State) (c : Nat) : State :=
  let x := s.ctx c
  let s := ((s.setCtx c { x with state := 4 }).count (bXl + 0x828) 1).flag (bXl + 0x10) 4
  let s := s.setReg (bXl + 0x280 + 8 * c) (clearBit (s.reg (bXl + 0x280 + 8 * c)) 0)
  let s := if x.cls = 3 ∧ s.windowOpenFor c then s.beginRestore c else s
  s.haltDone

/-- CONTEXT_SAVED (R321). -/
def execContextSaved (ctx : Fin 16) (s : State) : Res :=
  let x := s.ctx ctx
  .next (if x.state = 3 ∧ x.pending = [] ∧ s.cows.all (fun w => w.ctx ≠ ctx.val) then s.ctxSaved ctx else s)

/-- R316, R323, R328: a restoring context runs again: its engines hold what was saved, its parked descriptors walk
again, and everything that can goes on. -/
def State.ctxRestored (s : State) (c : Nat) : State :=
  let s := (s.ctx c).coreList.foldl (fun t n => t.restoreCore c n) s
  let s := (s.modCtx c (fun x => { x with state := 2 })).turnParks c
  let s := s.setReg (bXl + 0x280 + 8 * c) (clearBit (s.reg (bXl + 0x280 + 8 * c)) 1)
  -- R272: the hoists were released: a LOAD that waited for one loads
  (((s.decideAll (fun i => i.ctx == c)).retryParks c).retryPages c).runPageOps.runEngines

/-- CONTEXT_RESTORED (R323). -/
def execContextRestored (ctx : Fin 16) (s : State) : Res :=
  .next (if (s.ctx ctx).state = 5 then s.ctxRestored ctx else s)

/-! ## Requests (R316, R328, R333) -/

/-- R324, R333: pre-empts a running context; a primary's windows close. -/
def State.preempt (s : State) (c : Nat) : State :=
  let s := s.beginSave c
  if (s.ctx c).cls = 2 then s.closeWindowsOf c else s

/-- CTX_PREEMPT (R333): from running; anything else clears without effect. -/
def State.ctxPreempt (s : State) (c : Nat) : State :=
  if s.preemptible c ∧ (s.ctx c).state = 2 then
    (s.setReg (bXl + 0x280 + 8 * c) (setBit (s.reg (bXl + 0x280 + 8 * c)) 0)).preempt c
  else s

def execCtxPreempt (ctx : Fin 16) (s : State) : Res := .next (s.ctxPreempt ctx)

/-- CTX_RESUME (R333): from saved, while the module runs; a filler only when its window is open. -/
def State.ctxResume (s : State) (c : Nat) : State :=
  let x := s.ctx c
  if s.preemptible c ∧ x.state = 4 ∧ s.mode = .running ∧ (x.cls = 2 ∨ s.windowOpenFor c) then
    (s.setReg (bXl + 0x280 + 8 * c) (setBit (s.reg (bXl + 0x280 + 8 * c)) 1)).beginRestore c
  else s

def execCtxResume (ctx : Fin 16) (s : State) : Res := .next (s.ctxResume ctx)

/-- CTX_RETRY (R316, R333): parked descriptors of a running context walk again. -/
def State.ctxRetry (s : State) (c : Nat) : State :=
  if (s.ctx c).state = 2 then (s.retryParks c).retryPages c else s

def execCtxRetry (ctx : Fin 16) (s : State) : Res := .next (s.ctxRetry ctx)

/-- R445: no job any more. -/
def State.endJob (s : State) : State :=
  { s with
    step := { s.step with job := false, phaseOn := false, tackOn := false, atBoundary := false, pendingStart := none }
    ops := [] }.setRfld (bTell + 8) 2 0 0

/-- R37: RUNNING becomes LOADED when the last primary context has ended; a HALT_REQ in progress then clears. -/
def State.lastEnded (s : State) : State :=
  if s.mode = .running ∧ s.ctxs.all (fun x => x.2.cls ≠ 2 ∨ x.2.state = 7) then
    (s.endJob.setReg 0x10 (clearBit (s.reg 0x10) 0)).enter .loaded
  else s.haltDone

/-- CTX_END (R37, R324, R328, R333): a used context stops, writes no save area and enters ENDED. -/
def State.ctxEnd (s : State) (c : Nat) : State :=
  let x := s.ctx c
  if x.state = 0 then s
  else
    let s := s.dropWork c
    let s := s.setCtx c { x with state := 7, pending := [], saved := [] }
    let s := s.setReg (bXl + 0x280 + 8 * c) 0
    if x.cls = 2 then (s.closeWindowsOf c).lastEnded else s.haltDone

def execCtxEnd (ctx : Fin 16) (s : State) : Res := .next (s.ctxEnd ctx)

/-! ## Bubble windows and filler credit (R324, R326, R327) -/

/-- R324, R359: may window `w` open: it is declared for the running plan, its opening counter has reached its
threshold, its closing counter has not, and its primary runs. -/
def State.mayOpen (s : State) (w : Nat) : Bool :=
  let b := s.bubble w
  let f := s.ctx (s.windowFiller w)
  b != [] && s.mode == .running && s.step.phaseOn && wfld b 0 63 60 == s.plan && !s.windows.contains w &&
    f.cls == 3 && (s.ctx f.primary).state == 2 &&
    decide ((wd b 1).toNat ≤ s.tackleOf (wfld b 0 55 40)) && !s.windowDue b

/-- BUBBLE_WINDOW_OPEN (R324, R328): a filler that is ready runs, one that is saved is restored, one that still
saves is restored when it has. -/
def execBubbleWindowOpen (window : Nat) (s : State) : Res :=
  if s.mayOpen window then
    let c := s.windowFiller window
    let s := { s with windows := s.windows ++ [window] }
    .next (match (s.ctx c).state with
      | 1 => s.modCtx c (fun x => { x with state := 2 })
      | 4 => s.beginRestore c
      | _ => s)
  else .next s

/-- BUBBLE_WINDOW_CLOSE (R324, R327): the closing counter has reached its threshold, and the filler is
pre-empted. -/
def execBubbleWindowClose (window : Nat) (s : State) : Res :=
  .next (if s.windows.contains window ∧ s.windowDue (s.bubble window) then s.closeWindow window else s)

/-- R326: one refill of a filler: BW_CAP × 64,000 B, of which at most four refills stand. -/
def State.refill (s : State) (c : Nat) : State :=
  let step := s.rfld (bXl + 0x100 + 8 * c) 39 32 * 64000
  s.modCtx c (fun x => { x with credit := min (x.credit + step) (4 * step) })

/-- FILLER_CREDIT_REFILL (R326): every filler's credit refills and waiting requests go on. -/
def execFillerCreditRefill (s : State) : Res :=
  .next (((List.range 16).filter (fun c => (s.ctx c).cls = 3)).foldl (fun t c => t.refill c) s).runEngines

/-! ## Halting (R33, R37, R328) -/

/-- HALT_REQ (R33, R328): every primary and filler context is pre-empted; the module is HALTED once all are saved. -/
def State.haltReq (s : State) : State :=
  if s.mode = .running then
    let s := s.setReg 0x10 (setBit (s.reg 0x10) 0)
    let s := s.windows.foldl (fun t w => t.closeWindow w) s
    ((s.ctxs.filter (fun x => x.2.cls = 2 ∨ x.2.cls = 3)).foldl (fun t x => t.beginSave x.1) s).haltDone
  else s

end Sys2Proof.Machine
end

