-- ==== Sys2Proof/Machine/Power.lean ====
section
/-! DEFINITION. Power, boot, self-test, thermal responses, limiter and reefing (R37, R477, R493–R495, R526,
R527, R535–R544, R547, R553, R554). -/
namespace Sys2Proof.Machine

/-! ## Boot records and the boot ROM (R553, R554) -/

/-- R553: the current boot record copy. -/
def Flash.bootRec (f : Flash) : BootRec :=
  if f.boot0.crcOk && (!f.boot1.crcOk || f.boot1.seq ≤ f.boot0.seq) then f.boot0 else f.boot1

/-- R553: a write goes to the other copy with SEQ + 1. -/
def Flash.writeBoot (f : Flash) (r : BootRec) : Flash :=
  let r := { r with seq := f.bootRec.seq + 1, crcOk := true }
  if f.boot0.crcOk && (!f.boot1.crcOk || f.boot1.seq ≤ f.boot0.seq) then { f with boot1 := r }
  else { f with boot0 := r }

/-- Firmware slot 0 A or 1 B. -/
def Flash.slot (f : Flash) (n : Nat) : FwSlot := if n = 0 then f.slotA else f.slotB

/-- R553: a slot is valid when it verifies and its SVN is not below FUSE_SVN. -/
def Flash.slotOk (f : Flash) (n : Nat) : Bool := (f.slot n).valid && f.fuseSvn ≤ (f.slot n).svn

/-- R554 steps 1 and 2: a trial attempted before is reverted, a first attempt is marked. -/
def Flash.trialStep (f : Flash) : Flash :=
  let r := f.bootRec
  if r.trial && r.attempted then
    { f.writeBoot { r with preferred := 1 - r.preferred, trial := false } with reverted := true }
  else if r.trial then f.writeBoot { r with attempted := true }
  else f

/-- R554: the boot ROM in POWERING: steps 1 to 4. -/
def State.bootRom (s : State) : State :=
  if s.mode = .powering ∧ s.power.railsUp ∧ s.pins.modResetN then
    let f := s.flash.trialStep
    let p := f.bootRec.preferred
    if f.slotOk p then { s with flash := { f with runSlot := p } }
    else if f.slotOk (1 - p) then { s with flash := { f with runSlot := 1 - p, fallback := true } }
    else
      let s := { s with flash := { f with runSlot := 0xFF, recovery := true } }
      { s.enter .faulted with cause := 6 }
  else s

/-- R543, R542: coolant at any point of POWERING makes the module FAULTED. -/
def State.leakCheck (s : State) : State := if s.pins.leakN then s else s.moduleEvent 5 0x4C

/-! ## Power-up and power-down (R538, R543, R544) -/

/-- R12, R37, R488, R543: what stands when power comes: POWERING, everything at its power-on reset, flash as
it was kept, one more power-on counted. -/
def State.powerUp (s : State) : State :=
  { State.reset with
    pending := s.pending
    pins := { s.pins with pwrEn := true, pwrGood := false, faultN := true, thermAlertN := true,
                          ppsOut := false, ref10m := false }
    flash := { s.flash.checkCal with
      boots := s.flash.boots + 1, staged := none, runSlot := 0xFF, reverted := false
      fallback := false, recovery := false }
    nextSession := s.nextSession
    sent := s.sent
    free := s.free }

/-- R37, R544: what stands in OFF: flash and pins; nothing else is powered. -/
def State.powerDown (s : State) : State :=
  { State.reset with
    pending := s.pending
    mode := .off
    pins := { s.pins with pwrGood := false, faultN := true, thermAlertN := true, ppsOut := false, ref10m := false }
    power := { inRange := s.power.inRange }
    flash := s.flash.cutCal s.time.now
    nextSession := s.nextSession
    sent := s.sent
    free := s.free }

/-- POWER_ON (R20, R37, R543): PWR_EN rises; from OFF with the input in range the module enters POWERING. -/
def execPowerOn (inRange : Bool) (s : State) : Res :=
  let s := { s with pins := { s.pins with pwrEn := true }, power := { s.power with inRange := inRange } }
  .next (if s.mode = .off ∧ inRange then s.powerUp.leakCheck else s)

/-- RAILS_GOOD (R543, R554): in POWERING every rail is in regulation, PWR_GOOD rises, the boot ROM reads fuses,
straps and slots, and boots unless MOD_RESET_N is low. -/
def execRailsGood (f : Fuses) (s : State) : Res :=
  if s.mode = .powering ∧ !s.power.railsUp then
    let s := { s with
      pins := { s.pins with pwrGood := true, slotId := f.slotId % 64 }
      power := { s.power with railsUp := true }
      flash := { s.flash with
        slotA := ⟨f.validA, f.versionA, f.svnA, f.digestA⟩
        slotB := ⟨f.validB, f.versionB, f.svnB, f.digestB⟩ } }
    .next s.bootRom.leakCheck
  else .next s

/-- FIRMWARE_VERIFIED (R37): with rails good, clocks locked and a slot running, POWERING becomes SELFTEST. -/
def execFirmwareVerified (s : State) : Res :=
  .next (if s.mode = .powering ∧ s.power.railsUp ∧ s.pins.modResetN ∧ s.flash.runSlot ≠ 0xFF then
    s.enter .selftest else s)

/-- R554: firmware first reaches READY: TRIAL is cleared and FUSE_SVN raised to the running SVN. -/
def State.firstReady (s : State) : State :=
  let f := s.flash
  let f := if f.bootRec.trial then f.writeBoot { f.bootRec with trial := false } else f
  { s with flash := { f with fuseSvn := max f.fuseSvn (f.slot f.runSlot).svn } }

/-- R492: cores classified permanent: of core or engine units. -/
def State.permanentCores (s : State) : List Nat :=
  (s.permanent.filterMap (fun p =>
    if p.1 = 1 then some p.2 else if p.1 = 2 then some (p.2 / 8) else none)).eraseDups

/-- R487, R495: one self-test entry of a failing slice or lane. -/
def State.selftestEntry (s : State) (ut u : Nat) : State :=
  s.record { kind := 0x4A, cls := 3, unitType := ut, unit := u }

/-- SELFTEST_DONE (R35, R484, R493–R495, R554): records every failing slice and lane; a chip block or a stack
makes the module FAULTED with cause 1, otherwise failing and permanent cores are fenced, lanes stay out, the
stays train (R380), and the module enters READY. -/
def execSelftestDone (r : SelfTest) (s : State) : Res :=
  if s.mode = .selftest then
    let s := r.cores.foldl (fun t n => ((t.selftestEntry 1 n.val).fenceCore n.val 2).classify 1 n.val) s
    let s := r.stackUnits.foldl (fun t k => t.selftestEntry 3 (k.val * 32)) s
    let s := if r.chipBlock then s.selftestEntry 0 0 else s
    let s := r.stayLanes.foldl (fun t l =>
      ((t.selftestEntry 4 l.val).modStay (l.val / 8) (fun x =>
        { x with excluded := x.excluded ||| 1 <<< (l.val % 8) })).classify 4 l.val) s
    let s := r.hostLanes.foldl (fun t l =>
      ((t.selftestEntry 5 l.val).modPort (l.val / 4) (fun x =>
        { x with badLanes := x.badLanes ||| 1 <<< (l.val % 4) })).classify 5 l.val) s
    if r.chipBlock ∨ r.stackUnits ≠ [] then .next { s.enter .faulted with cause := 1 }
    else
      let s := s.permanentCores.foldl (fun t n => t.fenceCore n 3) s
      .next (s.firstReady.retrainAll.enter .ready)
  else .next s

/-- POWER_OFF (R37, R544): PWR_EN falls; engines stop, pending ledger entries reach flash if the input holds,
and the module is OFF. -/
def execPowerOff (inputHolds : Bool) (s : State) : Res :=
  let s := { s with pins := { s.pins with pwrEn := false } }
  .next (if s.mode.powered then (if inputHolds then s.flushLedger else s).powerDown else s)

/-- INPUT_OUT_OF_RANGE (R20, R37, R488, R538, R544): the module goes OFF; entries still buffered are lost. -/
def execInputOutOfRange (_high : Bool) (s : State) : Res :=
  let s := { s with power := { s.power with inRange := false } }
  .next (if s.mode.powered then s.powerDown else s)

/-- INPUT_IN_RANGE (R20, R37): with PWR_EN asserted the module leaves OFF for POWERING. -/
def execInputInRange (s : State) : Res :=
  let s := { s with power := { s.power with inRange := true } }
  .next (if s.mode = .off ∧ s.pins.pwrEn then s.powerUp.leakCheck else s)

/-- MOD_RESET (R12, R37, R535): MOD_RESET_N goes low; a powered module returns to POWERING and is held there. -/
def execModReset (s : State) : Res :=
  let s := { s with pins := { s.pins with modResetN := false } }
  .next (if s.mode.powered then s.moduleReset else s)

/-- MOD_RESET_RELEASE (R535, R543): MOD_RESET_N returns high and a held module goes on through the boot ROM. -/
def execModResetRelease (s : State) : Res :=
  let s := { s with pins := { s.pins with modResetN := true } }
  .next s.bootRom

/-- RESET_REQ (R33, R37): resets the module exactly as MOD_RESET_N does; nothing holds it in POWERING. -/
def State.resetReq (s : State) : State := if s.mode.powered then s.moduleReset.bootRom else s

def execResetReq (s : State) : Res := .next s.resetReq

/-- R475: FAULT_CAUSE and ledger kind of a module-class cause (R32, R473, R474). -/
def causeCode : ModuleCause → Nat × Nat
  | .meshHeader => (2, 0x4C)
  | .walkerTables => (2, 0x4C)
  | .collectiveControl => (2, 0x4C)
  | .watchdog => (6, 0x4C)
  | .junction => (4, 0x15)
  | .regulator => (3, 0x4C)
  | .leak => (5, 0x4C)

/-- MODULE_CLASS_EVENT (R475). -/
def execModuleClassEvent (cause : ModuleCause) (s : State) : Res :=
  .next (s.moduleEvent (causeCode cause).1 (causeCode cause).2)

/-- FW_WATCHDOG_EXPIRY (R475, R554): during a trial boot before READY the management controller resets and the
boot ROM reverts; otherwise a module-class event. -/
def execFwWatchdogExpiry (s : State) : Res :=
  if s.flash.bootRec.trial ∧ (s.mode = .powering ∨ s.mode = .selftest) then .next s.moduleReset.bootRom
  else .next (s.moduleEvent 6 0x4C)

/-- LEAK_DETECTED (R475, R542, R557): LEAK_N low makes a powered module FAULTED with cause 5. -/
def execLeakDetected (s : State) : Res :=
  .next ({ s with pins := { s.pins with leakN := false } }.moduleEvent 5 0x4C)

/-! ## Temperature (R221, R541, R542, R547) -/

/-- R547: how far every threshold is lowered. -/
def State.thermDrop (s : State) : Int := if s.flash.calDefaults then 3 else 0

/-- R542: a threshold's bit stays set from its crossing until it has cleared by 3 °C. -/
def crossBit (old bit : Nat) (x thr : Int) : Nat :=
  if thr < x then 2 ^ bit else if thr - 3 < x then (if old.testBit bit then 2 ^ bit else 0) else 0

/-- The hottest of some temperatures, or `d`. -/
def hottest (d : Int) (l : List Int) : Int := l.foldl max d

/-- R542: the thermal ceiling after one 100 µs sample: lowered a level per 1 ms above a lowering threshold, at
most 8 with the inlet above 45 °C, raised a level per 10 ms once everything crossed has cleared. -/
def Power.thermStep (p : Power) (hot inletHot : Bool) (crossed : Nat) : Power :=
  let p := { p with crossed := crossed }
  let p :=
    if hot then
      if p.hotTicks + 1 = 10 then { p with hotTicks := 0, coolTicks := 0, thermCeil := p.thermCeil - 1 }
      else { p with hotTicks := p.hotTicks + 1, coolTicks := 0 }
    else if crossed = 0 ∧ p.thermCeil < 16 then
      if p.coolTicks + 1 = 100 then { p with hotTicks := 0, coolTicks := 0, thermCeil := p.thermCeil + 1 }
      else { p with hotTicks := 0, coolTicks := p.coolTicks + 1 }
    else { p with hotTicks := 0, coolTicks := 0 }
  if inletHot then { p with thermCeil := min p.thermCeil 8 } else p

/-- R221, R238: temperature and refresh window of stack `k`. -/
def State.stackTemp (s : State) (k : Nat) (t thr : Int) : State :=
  let b := bStack k
  let s := s.setRfld (b + 0x08) 63 56 (unsigned 8 t)
  let old := s.rfld (b + 0x08) 17 16
  let s := s.setRfld (b + 0x08) 17 16 (if thr < t then 1 else 0)
  if thr < t ∧ old = 0 then s.flag (b + 0x20) 5 else s

/-- R535, R560: THERM_ALERT_N, its event and its millisecond counter. -/
def State.thermAlert (s : State) (alert : Bool) : State :=
  let s := if alert ∧ s.pins.thermAlertN then s.flag (bMod + 0x28) 0 else s
  let s := { s with pins := { s.pins with thermAlertN := !alert } }
  if alert then
    if s.power.alertTicks + 1 = 10 then { s with power := { s.power with alertTicks := 0 } }.count (bMod + 0x108) 1
    else { s with power := { s.power with alertTicks := s.power.alertTicks + 1 } }
  else s

/-- THERMAL_SAMPLE (R221, R475, R541, R542, R558). -/
def execThermalSample (t : Temps) (s : State) : Res :=
  if s.mode.powered then
    let d := s.thermDrop
    let k := hottest (-128) t.stackUnits
    let s := s.setReg (bMod + 0x10) (packWord [(56, unsigned 8 t.junction), (48, unsigned 8 k),
      (40, unsigned 8 t.inlet), (32, unsigned 8 t.outlet)])
    let s := s.setRfld bPower 21 14 (unsigned 8 t.junction)
    let s := (t.stackUnits.zipIdx.take 8).foldl (fun u x => u.stackTemp x.2 x.1 (85 - d)) s
    let o := s.power.crossed
    let c := crossBit o 0 t.junction (95 - d) + crossBit o 1 t.junction (100 - d) + crossBit o 2 k (85 - d) +
      crossBit o 3 k (90 - d) + crossBit o 4 t.inlet (40 - d) + crossBit o 5 t.inlet (45 - d)
    let hot := 95 - d < t.junction || 90 - d < k
    let s := { s with power := s.power.thermStep hot (45 - d < t.inlet) c }
    let s := s.thermAlert (100 - d < t.junction || 90 - d < k || 40 - d < t.inlet)
    .next (if 105 - d ≤ t.junction ∨ 95 - d ≤ k then s.moduleEvent 4 0x15 else s)
  else .next s

/-! ## Regulator phases (R477, R539) -/

/-- R539: phases a rail needs at full load, and phases fitted. -/
def railPhases (rail : Nat) : Nat × Nat :=
  if rail < 4 then (5, 6) else if rail < 6 then (2, 3) else if rail = 6 then (3, 4) else (1, 2)

/-- R477, R526: the highest level whose clock `r` of `n` phases of a core rail carry, current in proportion to
CCLK; none when not even 0.9 GHz. -/
def carriedLevel (r n : Nat) : Option Nat :=
  let mhz := 1300 * r / n
  if mhz < 900 then none else some (min 16 ((mhz - 900) / 25))

/-- REGULATOR_PHASE_FAULT (R477): the phase is switched off and recorded; a rail short of phases reefs a core
rail to what it carries, or is a module-class event. -/
def execRegulatorPhaseFault (rail : Fin 16) (phase : Fin 6) (s : State) : Res :=
  let need := (railPhases rail).1
  let fit := (railPhases rail).2
  if s.mode.powered ∧ phase.val < fit ∧ !s.power.shed.contains (rail.val, phase.val) then
    let s := { s with power := { s.power with shed := s.power.shed ++ [(rail.val, phase.val)] } }
    let s := s.record { kind := 0x48, cls := 0, unitType := 7, unit := rail.val * 64 + phase.val }
    let left := fit - (s.power.shed.filter (fun x => x.1 = rail.val)).length
    if need ≤ left then .next s
    else
      match (if rail.val < 4 then carriedLevel left need else none) with
      | some l =>
        let s := { s with power := { s.power with regCeil := min s.power.regCeil l } }
        .next (s.record { kind := 0x16, cls := 0, unitType := 7, unit := rail.val * 64 + phase.val })
      | none => .next (s.moduleEvent 3 0x4C)
  else .next s

/-! ## The power limiter and reefing (R21, R526, R527, R532) -/

/-- R526: the ceilings in the order of REEF_STATUS.SOURCE. -/
def State.ceilings (s : State) : List Nat :=
  [s.rfld (bPower + 0x08) 4 0, s.power.limiterCeil, s.power.thermCeil, s.power.regCeil, 16]

/-- R526: the reef level in force. -/
def State.reefTarget (s : State) : Nat := s.ceilings.foldl min 16

/-- R532: the ceiling that governs, the first of the lowest. Where none lies below 16 the register's own field stands: 0 from
reset, 4 once a core has taken a level. -/
def State.reefSource (s : State) : Nat :=
  if s.reefTarget = 16 then s.rfld (bPower + 0x10) 12 10 else s.ceilings.findIdx (fun c => c = s.reefTarget)

/-- R527: the limiter's holds start: HOLD is set and, for the first two rows, the ceiling drops two levels. -/
def State.startHolds (s : State) (levels : Nat) : State :=
  if s.power.holding then s
  else
    let p := { s.power with holding := true, limiterCeil := s.power.limiterCeil - levels }
    { s with power := p }.flag (bPower + 0x18) 2

/-- R527: the average of the last 10 ms, once 10,000 samples stand. -/
def Power.average (p : Power) : Option Nat :=
  if p.samples.length = 10000 then some (p.samples.foldl (· + ·) 0 / 10000) else none

/-- R527: the two rows of the 10 ms average. -/
def Power.averageRows (p : Power) : Power :=
  match p.average with
  | none => p
  | some a =>
    let p := { p with lowering := 1600000 < a || (p.lowering && 1560000 < a) }
    if p.lowering then
      if p.ticks % 100 = 0 then { p with limiterCeil := p.limiterCeil - 1 } else p
    else if a ≤ 1520000 ∧ p.ticks % 10000 = 0 then { p with limiterCeil := min 16 (p.limiterCeil + 1) }
    else p

/-- R532: energy in mJ from the samples of 1 µs. -/
def State.addEnergy (s : State) (mw : Nat) : State :=
  let e := s.power.energyNj + mw
  { s with power := { s.power with energyNj := e % 1000000 } }.count (bPower + 0x100) (e / 1000000)

/-- POWER_LIMITER_SAMPLE (R21, R527, R532). -/
def execPowerLimiterSample (ma mv : Nat) (s : State) : Res :=
  if s.mode.powered then
    let mw := ma * mv / 1000
    let p : Power := { s.power with
      samples := (mw :: s.power.samples).take 10000
      ticks := s.power.ticks + 1
      overRun := if 1600000 < mw then s.power.overRun + 1 else 0 }
    let s : State := { s with power := p }.addEnergy mw
    let s : State := if s.power.ticks % 100 = 0 then
        let w := (s.power.samples.take 100).foldl (· + ·) 0 / 100
        let r := setFld (s.reg bPower) 63 48 (w / 1000)
        s.setReg bPower (setFld (setFld r 47 32 (mv / 10)) 31 22 (ma / 100))
      else s
    let s : State := if s.power.holding ∧ ma < 36000 ∧ mw ≤ 1600000 then { s with power := { s.power with holding := false } }
      else s
    let s : State := if 38000 ≤ ma ∨ min 1900000 (40 * mv) < mw then s.startHolds 2
      else if 4000 ≤ s.power.overRun then s.startHolds 0 else s
    let s := { s with power := s.power.averageRows }
    .next (if s.power.holding then s.count (bPower + 0x110) 1 else s)
  else .next s

/-- REEF_LEVEL_CHANGE (R25, R119, R526, R532): a core takes the level in force at a pass boundary; a change is recorded and
flagged. -/
def execReefLevelChange (core : Fin 128) (s : State) : Res :=
  let old := (s.core core).level
  let new := s.reefTarget
  if s.mode.powered ∧ !s.fenced core ∧ (s.core core).streaming = none ∧ old ≠ new then
    let s := (s.modCore core (fun c => { c with level := new })).setRfld (bPower + 0x10) 12 10 4
    let s := s.record { kind := 0x16, cls := 0, unitType := 1, unit := core.val }
    .next ((s.count (bPower + 0x108) 1).flag (bPower + 0x18) (if new < old then 0 else 1))
  else .next s

/-- R526, R532: software writes the REEF_CTL ceiling; 17 to 31 read back as 16. -/
def State.writeReefCtl (s : State) (v : Word) : State :=
  if s.mode.writable then s.setRfld (bPower + 0x08) 4 0 (min 16 (fld v 4 0)) else s

/-- REEF_CTL_WRITE (R526). -/
def execReefCtlWrite (value : Word) (s : State) : Res := .next (s.writeReefCtl value)

end Sys2Proof.Machine
end

