-- ==== Sys2Proof/Machine/Sequencer.lean ====
section
/-! DEFINITION. The sequencer: waits, signals, loops, the end of a phase, tacks and phases (R347, R352–R357). -/
namespace Sys2Proof.Machine

/-- The sequencer of core `n` for context `c`. -/
def State.seq (s : State) (n c : Nat) : Seq := kget {} (s.core n).seqs c
def State.setSeq (s : State) (n c : Nat) (q : Seq) : State := s.modCore n (fun k => { k with seqs := kset {} k.seqs c q })
def State.modSeq (s : State) (n c : Nat) (f : Seq → Seq) : State := s.setSeq n c (f (s.seq n c))

/-! ## WAIT (R227, R347, R353, R354) -/

/-- R354: what a context's loops add to a WAIT threshold. -/
def thrOffset (q : Seq) : Nat := (q.loops.map (fun l => l.iter * l.thrStep)).foldl (· + ·) 0

/-- R207: a descriptor waits on a counter: on a direction's page counter TRK_CNT_WAIT_PAGE counts. -/
def State.countWait (s : State) (cnt : Nat) : State :=
  if [false, true].any (fun d => s.dirUsed d && (Config.pageCounter d).val == cnt) then s.count (bTrack + 0x128) 1 else s

/-- WAIT (R185, R353): with its counter at the effective threshold the next item may issue, after an ACQUIRE; a wait for pages
of a direction that is down faults. -/
def execWait (d : Desc) (s : State) : Res :=
  let n := d.core.val
  let c := d.ctx.val
  if s.mayIssue n c then
    let cnt := wfld d.words 0 55 40
    let acq := bitAt (wd d.words 0) 39
    let thr := ((wd d.words 1).toNat + thrOffset (s.seq n c)) % 2 ^ 64
    if thr ≤ s.tackleOf cnt then .next (if acq then s.acquire n else s)
    else if s.waitsDown cnt then .next (s.ctxFault c 0x11)
    else .next ((s.modSeq n c (fun q => { q with waitCnt := some (cnt, thr, acq) })).countWait cnt)
  else .next s

/-- WAIT_SATISFIED (R353): the counter has reached the threshold. -/
def execWaitSatisfied (core : Fin 128) (ctx : Fin 16) (s : State) : Res :=
  match (s.seq core ctx).waitCnt with
  | none => .next s
  | some (cnt, thr, acq) =>
    if thr ≤ s.tackleOf cnt ∧ (s.ctx ctx).state = 2 then
      let s := s.modSeq core ctx (fun q => { q with waitCnt := none })
      .next (if acq then s.acquire core else s)
    else if thr ≤ s.tackleOf cnt then .next s
    else .next (s.countWait cnt)

/-! ## SIGNAL (R353) -/

/-- Items of a context on a core that have not retired, by kind and number: matrix passes, routines, table loads,
access-engine descriptors, layout operations, page operations, a stream reduction. -/
def itemsOf (k : Core) (x : Ctx) (c : Nat) : List (Nat × Nat) :=
  (k.passes.filter (fun p => p.ctx = c)).map (fun p => (0, p.seq)) ++
  ((k.routine.filter (fun r => r.ctx = c)).map (fun r => (1, r.num))).toList ++
  (k.slots.filter (fun t => x.slots.testBit t.1 && t.2.waiting != 0)).map (fun t => (2, t.1 * 65536 + t.2.epoch)) ++
  (k.queues.filter (fun q => q.1 < 8)).flatMap (fun q => (q.2.filter (fun i => i.ctx = c)).map (fun i => (3, i.num))) ++
  (k.layouts.filter (fun l => l.ctx = c)).map (fun l => (4, l.seq)) ++
  (k.pageOps.filter (fun o => o.ctx = c)).map (fun o => (5, o.num)) ++
  (if k.stream = [] ∨ k.veCtx ≠ c then [] else [(6, k.veSeq)])

/-- Items that have not retired, those that stand saved among them. -/
def State.itemsOut (s : State) (n c : Nat) : List (Nat × Nat) :=
  let x := s.ctx c
  itemsOf (s.core n) x c ++ itemsOf (kget {} x.saved n) x c

/-- SIGNAL (R353): its increment waits for every earlier item; the sequencer goes on. -/
def execSignal (d : Desc) (s : State) : Res :=
  let n := d.core.val
  let c := d.ctx.val
  if s.mayIssue n c then
    let g : Signal := { cnt := wfld d.words 0 55 40, inc := (wd d.words 1).toNat, before := s.itemsOut n c }
    .next (s.modSeq n c (fun q => { q with signals := q.signals ++ [g] }))
  else .next s

/-- SIGNAL_INCREMENT (R353): the oldest SIGNAL whose earlier items have all retired counts. -/
def execSignalIncrement (core : Fin 128) (ctx : Fin 16) (s : State) : Res :=
  let out := s.itemsOut core ctx
  let l := (s.seq core ctx).signals
  let due := fun (g : Signal) => g.before.all (fun i => !(out.contains i))
  match l.findIdx? due, l.find? due with
  | some i, some g =>
    .next ((s.modSeq core ctx (fun q => { q with signals := q.signals.eraseIdx i })).tackleAdd g.cnt g.inc)
  | _, _ => .next s

/-! ## Loops (R353, R354) -/

/-- May a context's sequencer take a loop word: as for any item, a skipped body aside. -/
def State.mayLoop (s : State) (n c : Nat) : Bool :=
  let q := s.seq n c
  (s.ctx c).state == 2 && !s.fenced n && q.waitCnt.isNone && !q.ended && !s.fillerHolds n c &&
    !s.plumbHolds n

/-- R353, R437: the accumulation count of the current step. -/
def State.accumNow (s : State) : Nat := s.rfld (bTell + 8) 63 48

/-- LOOP (R106, R353–R355): the count is read when the loop is entered; 0 skips the body, one above the planned
maximum is refused. -/
def execLoop (d : Desc) (s : State) : Res :=
  let n := d.core.val
  let c := d.ctx.val
  let q := s.seq n c
  if !s.mayLoop n c then .next s
  else if q.skip ≠ 0 then .next (s.setSeq n c { q with skip := q.skip + 1 })
  else
    let planned := wfld d.words 1 63 32
    let source := wfld d.words 0 55 54
    let r : (Nat × Bool) × State :=
      if source = 0 then ((planned, false), s)
      else if source = 1 then ((s.accumNow, false), s)
      else
        let x := s.rtsSlot c s.plan (wfld d.words 0 53 46)
        ((x.1.1.getD 0 0, x.1.2), x.2)
    if r.1.2 then .next (r.2.ctxFault c 0x06)
    else if planned < r.1.1 then .next (r.2.ctxFault c 0x01)
    else if r.1.1 = 0 then .next (r.2.setSeq n c { q with skip := 1 })
    else
      let f : LoopFrame :=
        { count := r.1.1, descStep := wfld d.words 1 31 16, thrStep := wfld d.words 1 15 0, micro := source == 1 }
      .next (r.2.setSeq n c { q with loops := f :: q.loops })

/-- ENDLOOP (R353): ends the innermost body: the next iteration begins, or the loop is left. -/
def execEndloop (d : Desc) (s : State) : Res :=
  let n := d.core.val
  let c := d.ctx.val
  let q := s.seq n c
  if !s.mayLoop n c then .next s
  else if q.skip ≠ 0 then .next (s.setSeq n c { q with skip := q.skip - 1 })
  else
    match q.loops with
    | [] => .next s
    | f :: r =>
      if f.iter + 1 < f.count then .next (s.setSeq n c { q with loops := { f with iter := f.iter + 1 } :: r })
      else .next (s.setSeq n c { q with loops := r })

/-- PHASE_END (R353): the core's part of the phase ends. -/
def execPhaseEnd (d : Desc) (s : State) : Res :=
  if s.mayIssue d.core d.ctx then .next (s.modSeq d.core d.ctx (fun q => { q with ended := true })) else .next s

/-- NOP (R353): no effect. -/
def execNop (_ : Desc) (s : State) : Res := .next s

/-! ## Phases and tacks (R356, R357, R387) -/

/-- R357: the tackle list of tack `t`. -/
def State.tackList (s : State) (t : Nat) : Nat := wfld ((s.section 0x0011 0).drop (4 + 4 * t)) 0 55 40

/-- R357: tackle lists that tacks use. -/
def State.tackLists (s : State) : List Nat := (List.range (wfld (s.section 0x0011 0) 0 63 56)).map s.tackList

/-- R357: the plans FROM and TO of tack `t`: those of its sources and of its destinations. -/
def State.tackPlans (s : State) (t : Nat) : Nat × Nat :=
  let w := (s.section 0x0011 0).drop (4 + 4 * t)
  (wfld w 0 63 60, wfld w 0 59 56)

/-- R387, R388: arms one list for phase `p` with the plans of its sources and destinations; an operation of a context that is
over has failed. -/
def State.armList (s : State) (p i : Nat) (plans : Nat × Nat) : State :=
  let l := s.tackleList i
  let c := wfld l 0 11 8
  let first := wfld l 0 47 32
  { s with ops := s.ops ++ (List.range (wfld l 0 31 16)).map (fun k =>
      { op := first + k, list := i, ctx := c, src := plans.1, plan := plans.2, pidx := p
        phase := if s.ctxOver c then .failed else .armed }) }

/-- R387: arms the lists of the plan of phase `p`; a list that performs a tack waits for its tack. -/
def State.armLists (s : State) (p : Nat) : State :=
  ((List.range (wfld s.tackleSec 0 63 48)).filter (fun i =>
    wfld (s.tackleList i) 0 15 12 = s.phasePlan p ∧ !(s.tackLists.contains i))).foldl (fun t i =>
      t.armList p i (s.phasePlan p, s.phasePlan p)) s

/-- Cores of the primary contexts, with the context. -/
def State.primaryCores (s : State) : List (Nat × Nat) :=
  ([1, 2].filter (fun c => (s.ctx c).cls = 2)).flatMap (fun c => (s.ctx c).coreList.map (fun n => (n, c)))

/-- R356, R367: phase `p` starts: its plan's programs on every core that has one, and its tackle lists; RIG_STATUS shows it.
A SIGNAL that still waits for earlier items makes its increment later (R353). -/
def State.startPhase (s : State) (p : Nat) : State :=
  let s := { s with step := { s.step with phase := p, phaseOn := true, tackOn := false } }
  let s := s.setReg bRig (packWord [(32, p % 256), (28, s.phasePlan p)])
  (s.primaryCores.foldl (fun t x => t.modSeq x.1 x.2 (fun q => { signals := q.signals })) s).armLists p

/-- R356, R357: the phase entry `p` begins, with its tack where it names one. -/
def State.enterPhase (s : State) (p : Nat) : State :=
  let t := s.phaseTack p
  if t = 0xFF then s.startPhase p
  else
    let s := { s with step := { s.step with phase := p, phaseOn := false, tackOn := true } }
    s.armList p (s.tackList t) (s.tackPlans t)

/-- R356, R432: every core with a program has ended its part, or its context is over. -/
def State.coresEnded (s : State) : Bool :=
  s.primaryCores.all (fun x => s.progLen s.plan x.1 == 0 || s.ctxOver x.2 || (s.seq x.1 x.2).ended)

/-- R387: every operation armed for the current phase entry has completed, or failed with its context. -/
def State.listsDone (s : State) : Bool :=
  (s.ops.filter (fun o => o.pidx = s.step.phase)).all (fun o => o.phase == .done || o.phase == .failed)

/-- PHASE_COMPLETE (R356): the tack or the phase ends; what follows is the phase's plan, the next entry or the step
boundary. -/
def execPhaseComplete (s : State) : Res :=
  if s.mode = .running ∧ s.step.tackOn ∧ s.listsDone then .next (s.startPhase s.step.phase)
  else if s.mode = .running ∧ s.step.phaseOn ∧ s.coresEnded ∧ s.listsDone then
    if s.step.phase + 1 < s.phases then .next (s.enterPhase (s.step.phase + 1))
    else .next { s with step := { s.step with phaseOn := false, atBoundary := true } }
  else .next s

end Sys2Proof.Machine
end

