-- ==== Sys2Proof/Machine/Track.lean ====
section
/-! DEFINITION. The track: traveller pages sent, received, acknowledged and sent again (R171–R194, R203–R207). -/
namespace Sys2Proof.Machine

/-! ## Sending (R175, R177, R179, R194) -/

/-- R175, R185: the stay that a direction's next page takes: the two in turn, from the lower one, or the one that is
up. -/
def State.trackStay (s : State) (down : Bool) : Option Nat :=
  let l := s.trackStays down
  let l := if l.getD 0 0 ≤ l.getD 1 0 then l else l.reverse
  let a := l.getD ((s.dir down).pagesOut % 2) 0
  let b := l.getD (1 - (s.dir down).pagesOut % 2) 0
  if (s.stay a).up then some a else if (s.stay b).up then some b else none

/-- Sends a message on one stay to the module at its far end. -/
def State.sendOn (s : State) (t vc : Nat) (bs : List PByte) : State :=
  let fs := flitsOf s.moduleNo (s.stayPeer t) vc bs
  (s.modStay t (fun x => { x with waiting := x.waiting ++ fs.map (fun f => (f, 12)) })).pump t

/-- R180, R181, R184: a page leaves: a header flit and its payload, with the poison of its flits. -/
def State.emitPage (s : State) (down : Bool) (h : List Word) (bs : List PByte) : State :=
  match s.trackStay down with
  | none => s
  | some t =>
    let pad := h ++ List.replicate (32 - h.length) 0
    (s.send { kind := .page, dest := t, code := if down then 1 else 0, words := h, bytes := bs.map (fun b => b.1) }).sendOn
      t 2 (plain (wordsBytes pad) ++ bs)

/-- R187: the length of the sequence: a run-time value of the current plan, or the planned 2PS. -/
def State.seqLength (s : State) : Nat × State :=
  let q := s.seqPlan
  if q.slot = 0 then (2 * s.seqSize * q.seg, s)
  else
    let r := s.rtsSlot s.trackCtx s.plan q.slot
    (r.1.1.getD q.value 0, r.2)

/-- R172, R177, R181, R187, R193: a page of the module's own traveller, of kind `k` and head `h`. -/
def State.ownPage (s : State) (down : Bool) (layer length : Nat) (l : Nat × Nat) (page : Nat) : Page :=
  let pos := seqPosition s.seqPlan s.seqSize s.seqRank page
  { header := [packWord [(60, l.1), (55, if 3 ≤ l.1 then 0 else 2), (54, if down then 1 else 0), (44, s.seqRank), (33, 0),
      (21, l.2 % 4096)], s.reg bTell, BitVec.ofNat 64 (pos % 2 ^ 50),
      packWord [(48, layer % 65536), (32, page % 65536), (0, min 256 (length - pos))],
      packWord [(0, (s.dir down).travel % 2 ^ 32)]]
    payload := [], crcOk := true }

/-- The pages of the module's own traveller, page by page in ascending PAGE. -/
def State.ownPages (s : State) (down : Bool) (t : Travel) (length : Nat) : List Page :=
  (List.range (seqPages s.seqPlan)).flatMap (fun n => (seqLanes s.seqPlan down t.back).map (fun l => s.ownPage down t.layer length l n))

/-- R177–R179: the next traveller of the schedule is in circulation, at ring step 0: the pair of the module's low segment's
queries and its high segment's keys is masked, and the next module's buffer of its own pages will be granted when free. -/
def State.beginTravel (s : State) (down : Bool) : State :=
  let n := s.nextTravel down
  let d := s.dir down
  if (s.travelAt down n).isNone then s
  else
    (s.setDir down { d with
      active := true, own := false, travel := n, step := 0, seen := [], owed := d.owed + s.bufSlots down }).count (bTrack + 0x110) 1

/-- R177, R183: the module's own pages of the traveller in circulation take a buffer, and go before those of other origins. -/
def State.placeOwn (s : State) (down : Bool) : State :=
  match s.travelAt down (s.dir down).travel with
  | none => s
  | some t =>
    let r := s.seqLength
    let u := (r.2.ownPages down t r.1).foldl (fun u p => ((u.holdPage down p).map (fun x => x.2)).getD u) r.2
    let d := u.dir down
    let own := fun (x : HeldPage) => gTravel x.page == d.travel && gHop x.page == 0
    let later := fun (x : HeldPage) => gTravel x.page == d.travel && gHop x.page != 0
    u.setDir down { d with
      own := true
      held := d.held.filter (fun x => gTravel x.page != d.travel) ++ d.held.filter own ++ d.held.filter later }

/-- R179, R181, R207: sends a held page one hop on and keeps it. -/
def State.sendPage (s : State) (down : Bool) (x : HeldPage) : State :=
  let cost := s.sendCost down x.page
  let r := s.saveGet (s.trackBuf down) 33 x.place (pageBytes x.page)
  let h := setFld (wd x.page.header 0) 43 33 (gHop x.page + 1) :: x.page.header.drop 1
  let h := sealPage h (r.1.map (fun b => b.1))
  let s := (r.2.emitPage down h r.1).count (bTrack + 0x108) 1
  let d := s.dir down
  let k : Page := { header := h, payload := r.1.map (fun b => b.1), poison := r.1.map (fun b => b.2), crcOk := true }
  s.setDir down { d with
    credits := d.credits - cost
    kept := d.kept ++ [k]
    pagesOut := d.pagesOut + 1 }

/-- What TRAVELLER_PAGE_SEND sends from: the pages held, with the next traveller begun where none of them is ready and the
ring is over, the module's own pages placed, and the credits that have come back. -/
def State.trackReady (s : State) (down : Bool) : State :=
  let s := s.creditBack down
  if (s.nextHeld down).isSome then s
  else
    let s := if s.rfld (bTell + 8) 2 0 = 2 ∧ s.mayBegin down then s.beginTravel down else s
    if s.mayPlace down then s.placeOwn down else s

/-- TRAVELLER_PAGE_SEND (R177, R179, R185, R193, R194, R203): while its context runs, the next page that is ready goes on
against its credits, or waits for them; with both stays down a context whose page has to go on faults. -/
def execTravellerPageSend (down : Bool) (s : State) : Res :=
  if s.mode = .running ∧ s.dirUsed down ∧ 2 ≤ s.seqSize ∧ (s.ctx s.trackCtx).state = 2 then
    if (s.trackStay down).isNone then
      .next (if (s.nextHeld down).isSome then s.ctxFault s.trackCtx 0x11 else s)
    else
      let u := s.trackReady down
      match u.nextHeld down with
      | none => .next u
      | some x =>
        if (u.dir down).credits < u.sendCost down x.page then .next (u.count (bTrack + 0x120) 1) else .next (u.sendPage down x)
  else .next s

/-! ## Receiving (R178, R182–R185) -/

/-- R183: does a page belong to the next traveller rather than to the one in circulation. -/
def State.isNext (s : State) (down : Bool) (p : Page) : Bool :=
  gTravel p == s.nextTravel down && s.mayBegin down && gHop p == 1 && !(isReturn p)

/-- R183: the PAGE that is due of a page's kind, hop and head. -/
def State.dueNumber (s : State) (down : Bool) (p : Page) : Nat :=
  if s.isNext down p then 0
  else match (s.dir down).seen.find? (fun x => x.kind = gKind p ∧ x.hop = gHop p ∧ x.head = gHead p) with
    | some x => x.page + 1
    | none => 0

/-- R183, R193: HOP is the ring step that is due; a return page follows its traveller, and comes home with HOP = P at the
last ring step. -/
def State.hopFits (s : State) (down : Bool) (p : Page) : Bool :=
  let n := s.seqSize
  let t := (s.dir down).step
  1 ≤ gHop p && gHop p == s.dueHop down (isReturn p) && (!(isReturn p) || gHop p ≤ t || (gHop p == n && t + 1 == n))

/-- R183: the fields in which a page differs from what the receiver expects: those of word 0, STEP, LAYER, PAGE, TRAVEL_SEQ and
the reserved ones. -/
structure PageDiff where
  word0    : Bool
  step     : Bool
  layer    : Bool
  page     : Bool
  travel   : Bool
  reserved : Bool
  deriving DecidableEq, Repr

def State.pageDiff (s : State) (down : Bool) (p : Page) : PageDiff :=
  let d := s.dir down
  let next := s.isNext down p
  let t := s.travelAt down (if next then gTravel p else d.travel)
  { word0 := !(((t.map (fun x => seqLanes s.seqPlan down x.back)).getD []).contains (gKind p, gHead p) &&
      gFmt p == (if isReturn p then 0 else 2) && gDown p == down && (next || s.hopFits down p) &&
      gOrigin p == s.originAt down (gHop p))
    step := wd p.header 1 != s.reg bTell
    layer := t.map (fun x => x.layer) != some (gLayer p)
    page := gPage p != s.dueNumber down p || seqPages s.seqPlan ≤ gPage p
    travel := !next && !(d.active && gTravel p == d.travel)
    reserved := wfld p.header 0 20 0 != 0 || wfld p.header 2 63 50 != 0 || wfld p.header 3 31 9 != 0 || 256 < gValid p ||
      (p.header.drop 5).any (fun w => w != 0) }

/-- R183: does a page fit what the receiver expects. -/
def State.pageFits (s : State) (down : Bool) (p : Page) : Bool :=
  s.pageDiff down p == ⟨false, false, false, false, false, false⟩

/-- R183: the differing fields as the ledger logs them: word 0 as it came, its reserved low bits telling which fields differ,
and STEP where it differs, else LAYER, PAGE and TRAVEL_SEQ. -/
def PageDiff.log (x : PageDiff) (p : Page) : Word × Word :=
  let f := fun (b : Bool) (n : Nat) => if b then 2 ^ n else 0
  (setFld (wd p.header 0) 20 0 (f x.word0 0 + f x.step 1 + f x.layer 2 + f x.page 3 + f x.travel 4 + f x.reserved 5),
   if x.step then wd p.header 1 else packWord [(48, gLayer p), (32, gPage p), (0, gTravel p)])

/-- R178, R182, R184, R207: a verified page that has found its place is stored with its poison, counted and acknowledged; the
first of a ring step counts the two pairs that R173 masks there. -/
def State.takePage (s : State) (down : Bool) (p : Page) (place : Nat) (bs : List PByte) : State :=
  let d := s.dir down
  let hop := gHop p
  let new := hop < s.seqSize && d.step < hop
  let s := if new then s.count (bTrack + 0x110) 2 else s
  let s := s.savePut (s.trackBuf down) 33 place bs
  let id := pageId p
  let s := s.setDir down { d with
    step := if new then hop else d.step
    seen := d.seen.filter (fun x => !(x.kind == id.kind && x.hop == id.hop && x.head == id.head)) ++ [id]
    verified := d.verified + 1 }
  let s := (s.count (bTrack + 0x100) 1).tackleAdd (Config.pageCounter down).val 1
  (s.send { kind := .pageAck, dest := (s.trackStays (!down)).headD 0, code := if down then 1 else 0
            words := p.header }).freeBufs down

/-- R177, R179: what a page that fits comes to: with it the next traveller may begin; without a free place it waits at its
sender. -/
def State.acceptPage (s : State) (down : Bool) (p : Page) (bs : List PByte) : State :=
  let u := if s.isNext down p then s.beginTravel down else s
  match u.holdPage down p with
  | none => s
  | some x => x.2.takePage down p x.1 bs

/-- R182, R207, R382: a page is asked for again; with a lane dropped the link is recorded as degraded. -/
def State.askPage (s : State) (down : Bool) (p : Page) (injected : Bool) : State :=
  let s := (s.count (bTrack + 0x118) 1).flag (bTrack + 0x10) 0
  let s := match (s.trackStays (!down)).find? (fun t => (s.stay t).up && (s.stay t).lanes != 255) with
    | some t =>
      let l := ((List.range 8).find? (fun l => !((s.stay t).lanes.testBit l))).getD 0
      s.record { kind := 0x10, cls := 0, unitType := 4, unit := t * 8 + l, injected := injected }
    | none => if injected then (s.count (bFault + 0x130) 1).flag (bFault + 0x08) 5 else s
  let t := (s.trackStays (!down)).headD 0
  (s.freeMsg (s.stayPeer t) 0).send { kind := .pageResend, dest := t, code := if down then 1 else 0, words := p.header }

/-- TRAVELLER_PAGE_RECEIVED (R182–R184, R203): verified, asked for again, poisoned where no sender holds a copy, or
a mismatch that faults the context. -/
def execTravellerPageReceived (down : Bool) (p : Page) (s : State) : Res :=
  let c := s.trackCtx
  if s.dirUsed down ∧ 2 ≤ s.seqSize ∧ (s.ctx c).cls = 2 ∧ !s.ctxOver c then
    let a := s.takeLinkReq 4 (fun r => (s.trackStays (!down)).contains (fld r 59 56))
    let s := a.2
    let bad := !p.crcOk || a.1.isSome
    let bs := (p.payload.take (pageBytes p)).zipIdx.map (fun b => (b.1, bad || p.poison.getD (b.2 / 64) false))
    if bad && p.senderHolds then .next (s.askPage down p a.1.isSome)
    else
      let mark := fun (t : State) => if bs.any (fun b => b.2) || bad then t.flag (bTrack + 0x10) 1 else t
      if s.pageFits down p then .next (mark (s.acceptPage down p bs))
      else if bad then .next (mark s)
      else
        let l := (s.pageDiff down p).log p
        .next ((s.flag (bTrack + 0x10) 2).ctxFault c 0x05 l.1 l.2)
  else .next s

/-- TRAVELLER_PAGE_ACK (R179, R182): a page was verified downstream: the copy kept goes, buffers that are over are freed, and
credits come back. -/
def execTravellerPageAck (down : Bool) (page : PageId) (s : State) : Res :=
  let d := s.dir down
  match d.kept.find? (fun k => pageId k = page) with
  | none => .next s
  | some k =>
    let s := s.setDir down { d with
      kept := d.kept.filter (fun k => pageId k ≠ page)
      held := d.held.map (fun x =>
        if { pageId x.page with hop := gHop x.page + 1 } = page ∧ gTravel x.page = gTravel k then { x with acked := true } else x)
      owed := d.owed + s.ackCredit down k }
    .next ((s.freeBufs down).creditBack down)

/-- PAGE_RESEND_REQUEST (R182, R184): the kept page is sent again; a sender whose context is over has none. -/
def execPageResendRequest (down : Bool) (page : PageId) (s : State) : Res :=
  match (s.dir down).kept.find? (fun k => pageId k = page) with
  | none => .next s
  | some k =>
    if s.ctxOver s.trackCtx then
      .next (s.send { kind := .pageResend, dest := (s.trackStays down).headD 0, code := 2, words := k.header })
    else .next (s.emitPage down k.header (k.payload.zipIdx.map (fun b => (b.1, k.poison.getD b.2 false))))

end Sys2Proof.Machine
end

