-- ==== Sys2Proof/Machine/Training.lean ====
section
/-! DEFINITION. The training step (R417–R447, R479, R562): opening, closing and rolling back a step, the step boundary,
the step record, release and close notices, and what a masthead decides (R433–R437, R507, R528). -/
namespace Sys2Proof.Machine

/-! ## Registers and the masthead's members -/

/-- STEP_CURRENT (R444). -/
def State.stepNow (s : State) : Word := s.reg bTell
/-- STEP_STATE.STATE (R445). -/
def State.stepState (s : State) : Nat := s.rfld (bTell + 8) 2 0
def State.setStepState (s : State) (n : Nat) : State := s.setRfld (bTell + 8) 2 0 n

/-- R445: ACCUM and LOSS_SCALE of STEP_STATE. -/
def State.showBlock (s : State) (b : JobBlock) : State :=
  (s.setRfld (bTell + 8) 63 48 b.accum).setRfld (bTell + 8) 47 16 b.lossScale

/-- R455: the modules of a masthead's member table. -/
def State.memberTable (s : State) : List Nat :=
  let ws := s.section 0x0005 0
  (List.range (wfld ws 0 50 41)).map (fun i => wfld (ws.drop ((wd ws 2).toNat / 8 + 8 * i)) 0 63 48)

/-- R344: MASTHEAD_ONLY. -/
def State.mastheadOnly (s : State) : Bool := bitAt (wd s.roleSec 0) 61

/-- R433: the modules whose notices a masthead waits for; it is one of them when it computes. -/
def State.reporters (s : State) : List Nat := s.memberTable ++ (if s.mastheadOnly then [] else [s.moduleNo])

/-- R514: the modules of the masthead's own group, itself included. -/
def State.groupModules (s : State) : List Nat := (s.memberTable.filter (fun m => m / 512 = s.group)) ++ [s.moduleNo]

/-- R516, R517, R533: the bit of a member: its index, or for another group its number. -/
def State.memberBit (s : State) (m : Nat) : Nat := if m / 512 = s.group then m % 512 else m / 512

/-- R533: is a member marked missing. -/
def State.isMissing (s : State) (m : Nat) : Bool :=
  bitAt (kget 0 s.masthead.missing (s.memberBit m / 64)) (s.memberBit m % 64)

/-- R466: one message to every member. -/
def State.toMembers (s : State) (code : Nat) (ws : List Word) : State :=
  s.memberTable.foldl (fun t m => t.mhRequest m code ws) s

/-- R465: host sessions that a top masthead notifies of the step. -/
def hostSubscriber (x : Session) : Bool := x.level != 3 && x.classes != 0

/-- A scalar-channel message of whole words (R382). -/
def State.scalarMsg (s : State) (kind : SentKind) (dest : Nat) (ws : List Word) : State :=
  (s.send { kind := kind, dest := dest, words := ws }).sendMsg dest 0 (plain (wordsBytes ws))

/-! ## Ceilings of a group (R526, R528) -/

/-- R528: REEF_CTL of members of the group, the masthead's own among them. -/
def State.setCeilings (s : State) (ms : List Nat) (level : Nat) : State :=
  ms.foldl (fun t m =>
    if m = t.moduleNo then t.setRfld (bPower + 0x08) 4 0 level
    else t.mhRequest m 0x21 [BitVec.ofNat 64 (0x020000000000 + bPower + 0x08), BitVec.ofNat 64 level]) s

/-- R528: the load step is staggered: every ceiling goes to 0, and the waves begin. -/
def State.startStagger (s : State) : State :=
  if s.isMasthead then
    { s with masthead := { s.masthead with stagger := some (s.time.now, 0) } }.setCeilings s.groupModules 0
  else s

/-- LOAD_STAGGER_WAVE (R528): wave w, w ms after the stagger began: members whose MEMBER mod 8 is w take the group's
ceiling. -/
def execLoadStaggerWave (wave : Fin 8) (s : State) : Res :=
  match s.masthead.stagger with
  | none => .next s
  | some (t0, w) =>
    if w = wave.val ∧ t0 + w * 1000000 ≤ s.time.now then
      let s := s.setCeilings (s.groupModules.filter (fun m => m % 8 = w)) s.masthead.ceiling
      .next { s with masthead := { s.masthead with stagger := if w = 7 then none else some (t0, w + 1) } }
    else .next s

/-! ## Opening a step (R420, R438, R562) -/

/-- What a step begins with. -/
def StepState.fresh (x : StepState) (b : JobBlock) : StepState :=
  { x with
    block := b, copy := some b, atBoundary := false, overflow := false, faulted := false, fillerFaulted := false
    released := false, drops := 0, telltales := [], gathered := [], shardsOut := [], recDue := [], recWait := 0
    recLost := false, noticeDue := false, exports := [], squares := [], members := [] }

/-- STEP_OPEN acted on (R155, R356, R420, R437, R438): the block takes the count and the scale and is copied, tables are
reset, ready primaries run and phase 0 begins. A primary that a fenced core keeps from its work has faulted (R36, R432). -/
def State.openStep (s : State) (accum lossScale : Nat) : State :=
  let b : JobBlock := { s.step.block with step := s.stepNow, accum := accum, lossScale := lossScale }
  let s : State := { s with step := s.step.fresh b }
  let s := s.resetTables
  let s : State := { s with
    cores := s.cores.map (fun (p : Nat × Core) => (p.1, { p.2 with veFails := [], logits := [] }))
    ctxs := s.ctxs.map (fun (x : Nat × Ctx) =>
      (x.1, if x.2.cls = 2 ∧ x.2.state = 1 then { x.2 with state := 2 } else x.2)) }
  let s := s.faultFenced
  let s : State := { s with step := { s.step with
    faulted := s.ctxs.any (fun x => x.2.cls = 2 ∧ x.2.state = 6)
    fillerFaulted := s.ctxs.any (fun x => x.2.cls = 3 ∧ x.2.state = 6) } }
  ((s.showBlock b).setStepState 2).enterPhase 0

/-! ## Closing a step (R422, R438) -/

/-- R438: the scale halved, not below 1.0, or doubled, not above 2^24. -/
def halfScale (x : Nat) : Nat :=
  let y := (layout32.decode x).scale (-1)
  if y.lt .one then fpOne else layout32.rne y
def twiceScale (x : Nat) : Nat :=
  let y := (layout32.decode x).scale 1
  if (Num.fin false (2 ^ 24) 0).lt y then layout32.rne (Num.fin false (2 ^ 24) 0) else layout32.rne y

/-- R422, R438: the job state block after a step has closed. -/
def closedBlock (b : JobBlock) (interval : Nat) (skipped : Bool) : JobBlock :=
  let b := { b with step := b.step + 1, cursor := b.cursor + BitVec.ofNat 64 b.accum }
  if interval = 0 then b
  else if skipped then { b with lossScale := halfScale b.lossScale, goodSteps := 0 }
  else if b.goodSteps + 1 = interval then { b with lossScale := twiceScale b.lossScale, goodSteps := 0 }
  else { b with goodSteps := b.goodSteps + 1 }

/-- CLOSED acted on (R422, R438, R444–R447). -/
def State.closeStep (s : State) (skipped : Bool) : State :=
  let now := s.stepNow
  let b := closedBlock s.step.block s.lsInterval skipped
  let s := s.closeTrack
  let s : State := { s with
    step := { s.step with block := b, atBoundary := false, noticeDue := false }
    masthead := { s.masthead with published := s.masthead.published.filter (fun v => now.toNat ≤ v.toNat) } }
  let s := ((s.setReg (bTell + 0x10) now).setReg bTell (now + 1)).showBlock b
  let s := (s.setStepState 1).setRfld (bTell + 8) 15 8 0
  let s := (s.count (bTell + 0x100) 1).flag (bTell + 0x20) 0
  if skipped then s.flag (bTell + 0x20) 5 else s

/-! ## Rolling a step back (R434, R436) -/

/-- R434: the engines of a core hold nothing any more. -/
def Core.cleared (k : Core) : Core := { k.stopped with fifos := [], fillDue := [], rsFifo := [], smFifo := [] }

/-- R434: messages already sent to host memory serve nobody any more. -/
def disown (q : Qp) : Qp :=
  let f := fun (u : Unacked) => { u with core := 255 }
  { q with unacked := q.unacked.map f, waiting := q.waiting.map f }

/-- R434 steps 1, 2 and 4: the contexts of the job end without saving, what is in flight goes, and they are ready. -/
def State.abandonStep (s : State) (closed : Bool) : State :=
  let s := s.countAllStopped
  let s : State := { s with
    ctxs := s.ctxs.map (fun (x : Nat × Ctx) =>
      (x.1, if (x.2.cls = 2 ∨ x.2.cls = 3) ∧ x.2.state ≠ 0 then
        { x.2 with state := 1, code := 0, pending := [], saved := [] } else x.2))
    cores := s.cores.map (fun (p : Nat × Core) => (p.1, p.2.cleared))
    qps := s.qps.map (fun (p : Nat × Qp) => (p.1, disown p.2))
    walks := [], parks := [], hoists := [], ops := [], windows := [], tackle := [], devWrites := []
    chipCache := dropTags (fun _ => true) s.chipCache }
  (s.rewindTrack closed).dropAllCtl

/-- ROLLBACK acted on (R434, R436, R444–R447): the block of STEP_OPEN stands again and the module waits for it; no
context is left that a HALT_REQ in progress waits for (R33). -/
def State.rollbackStep (s : State) (step : Word) : State :=
  let b := s.step.copy.getD s.step.block
  let closed := s.stepNow ≠ step
  let s := s.abandonStep closed
  let s : State := { s with
    step := { s.step with
      block := b, phaseOn := false, tackOn := false, atBoundary := false, noticeDue := false, recDue := [], recWait := 0 } }
  let s := if closed then s.setReg (bTell + 0x10) (step - 1) else s
  let n := s.rfld (bTell + 8) 15 8
  let s := ((s.setReg bTell step).showBlock b).setRfld (bTell + 8) 15 8 (min 255 (n + 1))
  (((s.setStepState 1).count (bTell + 0x108) 1).flag (bTell + 0x20) 1).haltDone

/-! ## Refusing a step message (R562) -/

/-- R562: a step message that the module does not expect: E_STEP_SKEW, counted and recorded; nothing else changes. -/
def State.stepSkew (s : State) : State :=
  ((s.count (bTell + 0x110) 1).flag (bTell + 0x20) 2).record { kind := 0x03, cls := 1, unitType := 8 }

/-- R562: does the module wait for STEP_OPEN of this step. -/
def State.expectsOpen (s : State) (step : Word) : Bool := s.step.job && s.stepState == 1 && step == s.stepNow
/-- R562: is this the step that is open or whose close the module awaits. -/
def State.isOpen (s : State) (step : Word) : Bool :=
  s.step.job && (s.stepState == 2 || s.stepState == 3) && step == s.stepNow
/-- R436, R562: is this the last closed step, with the next one not opened. -/
def State.lastClosed (s : State) (step : Word) : Bool :=
  s.step.job && s.stepState == 1 && step + 1 == s.stepNow && step == s.reg (bTell + 0x10) &&
    (s.step.copy.map (fun b => b.step)) == some step

/-! ## The top masthead opens, closes and rolls back (R418, R433–R437, R507) -/

/-- R418, R431, R433: what a masthead forgets when a step opens. -/
def Masthead.fresh (m : Masthead) (step : Word) : Masthead :=
  { m with notices := [], noticeAt := none, settled := false, releases := [], opened := some step, restagger := false }

/-- R528: the first STEP_OPEN after a rollback staggers the load. -/
def State.mastheadOpen (s : State) : State :=
  if s.isMasthead then
    let again := s.masthead.restagger
    let s : State := { s with masthead := s.masthead.fresh s.stepNow }
    if again then s.startStagger else s
  else s

/-- R437: the count of the step about to open: of the counts set, that of the latest first step that has come. -/
def State.nextAccum (s : State) : Nat :=
  ((s.masthead.accumAt.filter (fun p => p.1 ≤ s.stepNow.toNat)).getLast?.map (fun p => p.2)).getD s.masthead.accum

/-- R33: does the module halt, or stand halted. -/
def State.halting (s : State) : Bool := s.mode == .halted || bitAt (s.reg 0x10) 0

/-- R418: may the top masthead send STEP_OPEN. -/
def State.mayOpenStep (s : State) : Bool :=
  s.isTop && s.mode == .running && !s.halting && s.step.job && s.stepState == 1 &&
    s.masthead.published.contains s.stepNow && s.masthead.missing.all (fun p => p.2 == 0)

/-- R418, R437: the top masthead sends STEP_OPEN for the current step, when it may, and acts on it itself. -/
def State.tryOpen (s : State) : State :=
  if s.mayOpenStep then
    let n := s.nextAccum
    let ls := s.step.block.lossScale
    let s : State := { s with
      masthead := { s.masthead with accum := n, accumAt := s.masthead.accumAt.filter (fun p => s.stepNow.toNat < p.1) } }
    (s.mastheadOpen.toMembers 0x53 [s.stepNow, BitVec.ofNat 64 n, BitVec.ofNat 64 ls]).openStep n ls
  else s

/-- R435: the top masthead halts every module of the job. -/
def State.haltJob (s : State) : State := (s.toMembers 0x41 []).haltReq

/-- R433, R434, R436: ROLLBACK goes to every member, hosts hear of it with the modules missing, and the module rolls back. -/
def State.rollMembers (s : State) (step : Word) (gone : List Nat) : State :=
  let s := s.toMembers 0x55 [step]
  let s := s.notifyWhere hostSubscriber 0x55 (step :: gone.map (BitVec.ofNat 64))
  let s := s.rollbackStep step
  { s with masthead := { s.masthead with restagger := true } }

/-- R418, R436: then the step opens again as soon as it may. -/
def State.sendRollback (s : State) (step : Word) (gone : List Nat) : State := (s.rollMembers step gone).tryOpen

/-- Does a notice of the list have a bit set. -/
def anyBit (ns : List Notice) (b : Nat) : Bool := ns.any (fun n => bitAt n.word1 b)

/-- R435, R360: FILLER_HALT: does a filler fault of the step halt the job at its boundary. -/
def State.fillerHalts (s : State) : Bool := anyBit s.masthead.notices 2 && s.policy 59 59 == 1

/-- R433, R435: the open step fails its close: it is rolled back, or the job is halted after ROLLBACK_MAX rollbacks and
the step recorded, under a kind that the spec does not give. -/
def State.failStep (s : State) (gone : List Nat) : State :=
  let s : State := { s with masthead := { s.masthead with settled := true } }
  if s.policy 63 60 ≤ s.rfld (bTell + 8) 15 8 then
    let f := s.takeFree
    (f.2.record { kind := f.1 % 256, cls := 3, d0 := s.stepNow }).haltJob
  else
    let t := s.rollMembers s.stepNow gone
    (if s.fillerHalts then t.haltJob else t).tryOpen

/-! ### Notices -/

def noticeClean (n : Notice) : Bool := bitAt n.word1 0
def noticeAccum (n : Notice) : Nat := fld n.word1 47 32

/-- R433: modules that have not reported, or that an aggregate lists. -/
def State.gone (s : State) : List Nat :=
  let ns := s.masthead.notices
  (s.reporters.filter (fun m => ns.all (fun n => n.member ≠ m))) ++ ns.flatMap (fun n => n.missing)

/-- R433: equal ACCUM and DATA_CURSOR. -/
def sameStep (ns : List Notice) : Bool :=
  match ns with
  | [] => true
  | n :: r => r.all (fun x => noticeAccum x == noticeAccum n && x.cursor == n.cursor)

/-- R433: a group masthead's aggregate goes to the top masthead. -/
def State.sendAggregate (s : State) : State :=
  let ns := s.masthead.notices
  let b := fun (p : Bool) (k : Nat) => (k, if p then 1 else 0)
  let n := ns.headD ⟨0, 0, 0, 0, []⟩
  let w1 := packWord [(48, s.moduleNo), (32, noticeAccum n), b (anyBit ns 4) 4, b (anyBit ns 3) 3, b (anyBit ns 2) 2,
    b (anyBit ns 1) 1, b (ns.all noticeClean && sameStep ns) 0]
  let s := s.scalarMsg .aggregate s.topMasthead
    ([s.stepNow, w1, n.cursor, 0] ++ s.gone.map (BitVec.ofNat 64))
  { s with masthead := { s.masthead with settled := true } }

/-- R433, R435, R438: the top masthead decides the close. -/
def State.decideClose (s : State) : State :=
  let ns := s.masthead.notices
  if s.gone = [] ∧ ns.all noticeClean ∧ sameStep ns then
    let skipped := anyBit ns 4
    let ws := [s.stepNow, if skipped then 1 else 0]
    let s : State := { s with masthead := { s.masthead with settled := true } }
    let s := ((s.toMembers 0x54 ws).notifyWhere hostSubscriber 0x54 ws).closeStep skipped
    (if s.fillerHalts then s.haltJob else s).tryOpen
  else s.failStep s.gone

/-- R433: every member has reported, or the wait has passed. -/
def State.settleNotices (s : State) : State := if s.isTop then s.decideClose else s.sendAggregate

/-- R433: a masthead takes a close notice of the open step; the wait runs from the first. -/
def State.takeNotice (s : State) (n : Notice) : State :=
  let m := s.masthead
  if s.isMasthead ∧ s.isOpen n.step ∧ !m.settled ∧ s.reporters.contains n.member then
    let s : State := { s with masthead := { m with
      notices := m.notices.filter (fun x => x.member ≠ n.member) ++ [n]
      noticeAt := some (m.noticeAt.getD s.time.now) } }
    if s.reporters.all (fun r => s.masthead.notices.any (fun x => x.member = r)) then s.settleNotices else s
  else s

/-- CLOSE_NOTICE (R433). -/
def execCloseNotice (n : Notice) (s : State) : Res := .next (s.takeNotice n)

/-- CLOSE_WAIT_EXPIRY (R433, R443): CLOSE_WAIT_MS after the first notice. -/
def execCloseWaitExpiry (s : State) : Res :=
  match s.masthead.noticeAt with
  | some t0 =>
    .next (if s.isMasthead ∧ !s.masthead.settled ∧ t0 + s.policy 42 27 * 1000000 ≤ s.time.now then s.settleNotices else s)
  | none => .next s

/-- R431: the notice of a module that reads the step's version no more; with every one the top masthead tells the hosts
RELEASED, a group masthead its top masthead. -/
def State.takeRelease (s : State) (m : Nat) (step : Word) : State :=
  if s.isMasthead ∧ s.isOpen step ∧ s.reporters.contains m ∧ !s.masthead.releases.contains m then
    let s : State := { s with masthead := { s.masthead with releases := s.masthead.releases ++ [m] } }
    if s.reporters.all (fun r => s.masthead.releases.contains r) then
      if s.isTop then s.notifyWhere hostSubscriber 0x56 [step]
      else s.scalarMsg .releaseNotice s.topMasthead [step, BitVec.ofNat 64 s.moduleNo]
    else s
  else s

/-- R431, R443: has this module's RELEASE_PHASE ended in the open step. -/
def State.releaseDue (s : State) : Bool :=
  s.mode == .running && s.isOpen s.stepNow && !s.step.released &&
    (s.step.atBoundary || wfld s.tellSec 0 33 29 < s.step.phase)

/-- R431, R444: this module sends its RELEASE notice. -/
def State.sendRelease (s : State) : State :=
  let s : State := { s with step := { s.step with released := true } }
  let s := s.setReg (bTell + 0x18) s.stepNow
  if s.isMasthead then s.takeRelease s.moduleNo s.stepNow
  else s.scalarMsg .releaseNotice s.myMasthead [s.stepNow, BitVec.ofNat 64 s.moduleNo]

/-- RELEASE_NOTICE (R431). -/
def execReleaseNotice (sender : Option (Nat × Word)) (s : State) : Res :=
  match sender with
  | some x => .next (s.takeRelease x.1 x.2)
  | none => .next (if s.releaseDue then s.sendRelease else s)

/-! ### Missing members (R507) -/

/-- R507, R510, R533: a member is marked missing; the top masthead rolls back an open step that it has not reported. -/
def State.memberMissing (s : State) (m : Nat) : State :=
  if s.isMasthead ∧ !s.isMissing m then
    let b := s.memberBit m
    let s : State := { s with masthead := { s.masthead with
      missing := kmod 0 s.masthead.missing (b / 64) (fun w => setBit w (b % 64)) } }
    let s := s.flag (bMh + 0x50) 2
    if s.isTop ∧ s.isOpen s.stepNow ∧ !s.masthead.settled ∧ s.masthead.notices.all (fun n => n.member ≠ m) then
      s.failStep [m]
    else s
  else s

/-- R533: a member's JOB_START has succeeded. -/
def State.memberBack (s : State) (m : Nat) : State :=
  let b := s.memberBit m
  { s with masthead := { s.masthead with
    missing := kmod 0 s.masthead.missing (b / 64) (fun w => clearBit w (b % 64)) } }.tryOpen

/-! ## The step boundary (R270, R347, R432, R440, R479) -/

/-- R479: the 16 check instructions of one engine; which they are is free. -/
def State.checkEngine (s : State) (n : Nat) (sfe : Bool) (opc : Nat) (checks : List CheckFail) : State :=
  if s.fenced n then s
  else
    let k := ((checks.find? (fun c => c.core.val = n ∧ c.sfe = sfe)).map (fun c => c.chk)).getD {}
    (s.issueSteps n sfe false opc 16 k).2

/-- R479: every VE and SFE. -/
def State.checkEngines (s : State) (checks : List CheckFail) : State :=
  if s.mastheadOnly then s
  else
    let f := s.takeFree
    (List.range 128).foldl (fun t n =>
      (t.checkEngine n false (f.1 % 256) checks).checkEngine n true (f.1 % 256) checks) f.2

/-- R264, R270: hoists that no load confirmed are released; those that held their entry until now count. -/
def State.releaseUnconfirmed (s : State) : State :=
  ((s.hoists.filter (fun h => h.watched)).foldl (fun t h =>
    (t.count (bAe h.core + 0x140) 1).count (bHoist + 0x120) 1) s).endHoists (fun _ => true)

/-- R440: MAX_LOGIT of an attention entry, over every core. -/
def State.logitOf (s : State) (i : Nat) : Nat := maxLogit fpNegInf (s.cores.map (fun p => kget fpNegInf p.2.logits i))

/-- R440: the words of the step record. -/
def State.recordWordsOf (s : State) : List Word :=
  let t := s.tellSec
  let h := wfld t 0 51 45
  let a := wfld t 0 44 34
  let b := s.step.block
  let head := [s.stepNow, packWord [(48, s.moduleNo), (32, b.accum % 65536), (16, h), (0, a)],
    BitVec.ofNat 64 s.step.drops, packWord [(32, b.lossScale), (0, b.goodSteps % 2 ^ 32)], 0, 0, 0, 0]
  let health := (List.range h).flatMap (fun i =>
    let e := wd t ((wd t 4).toNat / 8 + i)
    let y := kget {} s.step.telltales (fld e 63 60 * 32 + fld e 59 55)
    e :: [y.total, y.sat, y.ovf, y.ftz, y.sub, y.inf, y.nan].map (BitVec.ofNat 64))
  head ++ health ++ (List.range a).map (fun i =>
    packWord [(32, s.logitOf i), (16, fld (wd t ((wd t 5).toNat / 8 + i)) 63 48)])

/-- Bytes at an address cut at 4 KiB granules, `n` pieces at most. -/
def cutBytes : Nat → Nat → List Byte → List (Nat × List Byte)
  | 0, _, _ => []
  | _, _, [] => []
  | n + 1, va, bs =>
    let k := 4096 - va % 4096
    (va, bs.take k) :: cutBytes n (va + k) (bs.drop k)

/-- The step record cannot reach the host. -/
def State.recordLost (s : State) : State := { s with step := { s.step with recDue := [], recLost := true } }

/-- R313, R440, R454: sends the step record as far as there is room, through the tables of its buffer's context. -/
def State.pumpRecord (s : State) (c : Nat) : List (Nat × List Byte) → State
  | [] => { s with step := { s.step with recDue := [] } }
  | p :: r =>
    let w := s.walk c p.1
    match w.1 with
    | .leaf pte _ _ _ _ =>
      let mr := fld pte 63 52
      let off := fld pte 47 16 * 65536 + p.1 % 65536
      if bitAt pte 6 && bitAt pte 3 && off < (kget {} w.2.regions (c * 4096 + mr)).length then
        let u : Unacked := { psn := 0, core := 128, queue := 0, num := 0, va := p.1, read := false,
                             msg := { kind := .rdmaWrite, bytes := p.2 } }
        let a := w.2.askHost c mr off u p.2.length
        match a.1 with
        | .down => w.2.recordLost
        | .room => { w.2 with step := { w.2.step with recDue := p :: r } }
        | .sent => { a.2 with step := { a.2.step with recWait := a.2.step.recWait + 1 } }.pumpRecord c r
      else w.2.recordLost
    | _ => w.2.recordLost

/-- R439: the buffer of step records and its context. -/
def State.recordBuffer (s : State) : Option (Nat × Nat) :=
  (s.buffer (wfld s.tellSec 1 63 48)).map (fun b => ((wd b 1).toNat, wfld b 0 43 40))

/-- R440: writes the step record of the step into its slot. -/
def State.writeRecord (s : State) : State :=
  let r := s.recordWordsOf
  let s : State := { s with
    step := { s.step with block := { s.step.block with record := r }, recWait := 0, recLost := false } }
  match s.recordBuffer with
  | none => s.recordLost
  | some (va, c) =>
    let bs := wordsBytes r
    s.pumpRecord c (cutBytes (bs.length / 4096 + 2) (va + s.stepNow.toNat % 4 * 65536) bs)

/-- R424: every gradient shard's header has been acknowledged. -/
def State.shardsDone (s : State) : Bool :=
  (s.shards.filter (fun e => isGradient e.2)).all (fun e => s.step.shardsOut.contains e.1)

/-- R424: does a primary's descriptor still move data. -/
def State.exporting (s : State) : Bool :=
  s.primaryCores.any (fun x => (List.range 8).any (fun q => (s.queue x.1 q).any (fun i => i.ctx = x.2)))

/-- R432: the words of the close notice. -/
def State.noticeWords (s : State) : List Word :=
  let x := s.step
  let done := s.shardsDone && !x.recLost
  let b := fun (p : Bool) (k : Nat) => (k, if p then 1 else 0)
  [s.stepNow, packWord [(48, s.moduleNo), (32, x.block.accum % 65536), b x.overflow 4, b done 3, b x.fillerFaulted 2,
    b x.faulted 1, b (!x.faulted && done) 0], x.block.cursor, 0]

/-- R424, R432: the close notice leaves once the step record, and the shards still moving, are acknowledged. -/
def State.tryNotice (s : State) : State :=
  if s.step.noticeDue ∧ s.step.recDue = [] ∧ s.step.recWait = 0 ∧ (s.shardsDone ∨ !s.exporting) then
    let ws := s.noticeWords
    let s : State := { s with step := { s.step with noticeDue := false } }
    if s.isMasthead then s.takeNotice ⟨s.moduleNo, wd ws 0, wd ws 1, wd ws 2, []⟩
    else s.scalarMsg .closeNotice s.myMasthead ws
  else s

/-- R270, R347, R416, R432, R440, R479: what the module does when it reaches its step boundary. -/
def State.boundary (s : State) (checks : List CheckFail) : State :=
  let s := (s.checkEngines checks).releaseUnconfirmed
  let s := s.windows.foldl (fun t w => t.closeWindow w) s
  let s : State := { s with tackle := [], ops := [] }
  let s := s.writeRecord
  { s with step := { s.step with noticeDue := true } }.setStepState 3

/-- STEP_BOUNDARY (R432): the boundary is reached, or a close notice that waited leaves. -/
def execStepBoundary (checks : List CheckFail) (s : State) : Res :=
  if s.step.noticeDue then .next s.tryNotice
  else if s.mode = .running ∧ s.step.atBoundary ∧ s.isOpen s.stepNow ∧ s.stepState = 2 then
    .next (s.boundary checks).tryNotice
  else .next s

/-! ## Step messages of a session (R420, R436, R437, R443, R562) -/

/-- What a request comes to: STATUS, the response's words, the state. -/
abbrev Reply := Nat × List Word × State

/-- STEP_OPEN of a masthead (R433, R562): a group masthead passes it on. -/
def State.stepOpenMsg (s : State) (step : Word) (accum ls : Nat) : Reply :=
  if s.expectsOpen step then
    (0, [], (s.mastheadOpen.toMembers 0x53 [step, BitVec.ofNat 64 accum, BitVec.ofNat 64 ls]).openStep accum ls)
  else (3, [], s.stepSkew)

/-- CLOSED of a masthead (R433, R438, R562). -/
def State.closedMsg (s : State) (step : Word) (skipped : Bool) : Reply :=
  if s.isOpen step then (0, [], (s.toMembers 0x54 [step, if skipped then 1 else 0]).closeStep skipped)
  else (3, [], s.stepSkew)

/-- ROLLBACK of a masthead (R433, R434, R436, R562). -/
def State.rollbackMsg (s : State) (step : Word) : Reply :=
  if s.isOpen step || s.lastClosed step then
    let t := (s.toMembers 0x55 [step]).rollbackStep step
    (0, [], { t with masthead := { t.masthead with restagger := true } })
  else (3, [], s.stepSkew)

/-- R443: a held STEP_OPEN or CLOSED is acted on and answered. -/
def State.actHeld (s : State) (i : Instr) : State :=
  match i with
  | .stepOpen e step accum ls =>
    let r := s.stepOpenMsg step accum ls
    r.2.2.respond e 0x53 r.1 r.2.1
  | .closed e step skipped =>
    let r := s.closedMsg step skipped
    r.2.2.respond e 0x54 r.1 r.2.1
  | _ => s

/-- RESUME_REQ (R33, R328, R443): the saved primaries are restored and the module runs; a filler waits for its window;
step messages that were held are acted on. -/
def State.resumeReq (s : State) : State :=
  if s.mode = .halted then
    let s := ((s.ctxs.filter (fun x => x.2.cls = 2)).foldl (fun t x => t.beginRestore x.1) s).enter .running
    (s.held.foldl (fun (t : State) i => t.actHeld i) { s with held := [] }).tryOpen
  else s

/-- R437, R353: the planned maximum of a LOOP word with SOURCE 1. -/
def loopMax (i : List Word) : Option Nat :=
  if wfld i 0 63 56 = 0xE2 ∧ wfld i 0 55 54 = 1 then some (wfld i 1 63 32) else none

/-- R437: the smallest planned maximum of the image's accumulation loops. -/
def State.accumMax (s : State) : Option Nat :=
  let all := (List.range 16).flatMap (fun p => (List.range 128).flatMap (fun n =>
    let ws := s.program p n
    (progItems ws.length ws).filterMap loopMax))
  match all with
  | [] => none
  | x :: r => some (r.foldl min x)

/-- SET_ACCUM (R437, R443). -/
def State.setAccumMsg (s : State) (count : Nat) (step : Word) : Reply :=
  if !s.isTop then (0x0A, [], s)
  else if s.masthead.opened.any (fun o => step.toNat ≤ o.toNat) then (3, [], s)
  else if count = 0 ∨ s.accumMax.any (fun m => m < count) then (1, [], s)
  else (0, [], { s with masthead := { s.masthead with accumAt := kput s.masthead.accumAt step.toNat count } })

/-- PUBLISHED (R418, R443). -/
def State.publishedMsg (s : State) (version : Word) : Reply :=
  if !s.isTop then (0x0A, [], s)
  else (0, [], { s with masthead := { s.masthead with published := s.masthead.published ++ [version] } }.tryOpen)

/-- ROLLBACK_REQUEST (R436). -/
def State.rollbackRequestMsg (s : State) (step : Word) : Reply :=
  if !s.isTop then (0x0A, [], s)
  else if s.lastClosed step && !s.masthead.published.contains (step + 1) then (0, [], s.sendRollback step [])
  else (3, [], s)

/-- R419: the bytes of a job state block, to the end of its router bias. -/
def blockBytes (b : JobBlock) : List Byte :=
  let head := wordsBytes [b.step, b.seed, b.cursor, packWord [(48, b.accum)], packWord [(32, b.lossScale), (0, b.goodSteps)]]
  head ++ leBytes 48 b.digest ++ leBytes 4008 0 ++
    (List.range 8192).flatMap (fun i => leBytes 8 (wd b.record i).toNat) ++
    (List.range 131072).flatMap (fun i => leBytes 4 (kget 0 b.bias i))

/-- SNAPSHOT (R420, R452, R453, R482): the copy of the last STEP_OPEN leaves over a queue pair of CTX0, or is poisoned. Whether a
codeword of the copy is poisoned is free: the spec gives it no address (log entry 109). -/
def State.snapshotMsg (s : State) (qp rkey addr : Nat) : Reply :=
  match s.step.copy with
  | none => (0x0A, [], s)
  | some b =>
    if s.mode ≠ .halted ∧ s.stepState = 2 then (0x0A, [], s)
    else if !s.qpUp qp then (0x11, [], s)
    else
      let bs := blockBytes b
      let ws := [BitVec.ofNat 64 rkey, BitVec.ofNat 64 addr, BitVec.ofNat 64 bs.length]
      let u : Unacked := { psn := 0, core := 255, queue := 0, num := 0, va := addr, read := false,
                           msg := { kind := .rdmaWrite, words := ws, bytes := bs } }
      let f := s.takeFree
      if f.1 % 2 = 1 then (6, [], f.2) else (0, [], f.2.sendWhenRoom qp u)

end Sys2Proof.Machine
end

