-- ==== Sys2Proof/Machine/Ports.lean ====
section
/-! DEFINITION. Host ports and RoCEv2 (R313, R448–R454, R457, R458, R460, R468–R470, R482): links, failover,
retransmission, acknowledgements, accesses by the host, congestion, pause and keys. -/
namespace Sys2Proof.Machine

/-! ## Sending again (R453, R457) -/

/-- R452: packets of a message at a path MTU of 4,096 B. -/
def packets (n : Nat) : Nat := max 1 (ceilDiv n 4096)

/-- R453, R470: the messages of a queue pair from a position on leave again with the same bytes. -/
def State.resendFrom (s : State) (q k : Nat) : State :=
  let p := s.qp q
  (p.unacked.drop k).foldl (fun t u =>
    ((t.frameOut p.port u.msg.bytes.length).count (bPort p.port + 0x130) (packets u.msg.bytes.length)).send u.msg) s

/-- Is PSN `a` at or before `b` in the 24-bit order of a connection. -/
def psnLe (a b : Nat) : Bool := (b + 2 ^ 24 - a) % 2 ^ 24 < 2 ^ 23

/-! ## A queue pair that is lost (R454) -/

/-- R454: the queue pair on the other network of the region that a message is for. -/
def State.otherQp (s : State) (q : Nat) (u : Unacked) : Option Nat :=
  let at_ := (wd u.msg.words 1).toNat
  match s.regions.find? (fun r => (r.2.qpA = q ∨ r.2.qpB = q) ∧ r.1 / 4096 = (s.qp q).ctx ∧
      r.2.base ≤ at_ ∧ at_ < r.2.base + r.2.length) with
  | none => none
  | some r =>
    let o := if r.2.qpA = q then r.2.qpB else r.2.qpA
    if s.qpUp o then some o else none

/-- R454: no network is left for a message: its context faults with E_LINK_DOWN; a step record is lost, and a hoist can
no longer be confirmed. -/
def State.messageLost (s : State) (u : Unacked) : State :=
  if u.core = 128 then s.recordLost
  else if 128 < u.core then s
  else if u.queue = 8 then
    s.loseHoist u.num
  else
    match (s.queue u.core u.queue).find? (fun i => i.num = u.num) with
    | some i => s.ctxFault i.ctx 0x11
    | none => s

/-- R454, R467: a queue pair goes down: what it had sent goes on the region's other one, or is lost. -/
def State.qpLost (s : State) (q : Nat) : State :=
  let us := (s.qp q).unacked
  let s := s.modQp q (fun p => { p with connected := false, unacked := [], waiting := [] })
  us.foldl (fun t u =>
    match t.otherQp q u with
    | some o => t.sendQp o u
    | none => t.messageLost u) s

/-! ## Links (R448, R449, R457, R458) -/

/-- R457: does a port carry a queue pair. -/
def carries (h : Nat) (p : Nat × Qp) : Bool := p.2.connected && p.2.port == h

/-- R457: the queue pairs that a port carries on its primary path migrate to the partner and go back to their first
unacknowledged PSN; those that have no other path are down. -/
def State.migrate (s : State) (h : Nat) : State :=
  let qs := (s.qps.filter (carries h)).map (fun p => p.1)
  qs.foldl (fun t q =>
    if !(t.qp q).onAlt && t.portUp (partner h) then
      (t.modQp q (fun p => { p with onAlt := true })).resendFrom q 0
    else t.qpLost q) s

/-- R457, R468, R469: a link goes down: its speed, its queue pairs and, with queue pairs migrated, FAILOVER and
TAKEOVER. -/
def State.portOff (s : State) (h : Nat) : State :=
  if s.rfld (bPort h + 0x08) 1 0 = 0 then s
  else
    let moved := s.portUp (partner h) && s.qps.any (fun p => carries h p && !p.2.onAlt)
    let s := ((s.setRfld (bPort h + 0x08) 1 0 0).setRfld (bPort h + 0x08) 4 3 3).flag (bPort h + 0x18) 1
    let s := s.modPort h (fun p => { p with triedAt := none })
    let s := s.migrate h
    if moved then (s.flag (bPort h + 0x18) 2).flag (bPort (partner h) + 0x18) 3 else s

/-- R457: a port fails: E_PORT_FAILOVER of the lane that failed (which one is free), and its link goes down. -/
def State.portLost (s : State) (h : Nat) : State :=
  if s.rfld (bPort h + 0x08) 1 0 = 0 then s
  else
    let f := s.takeFree
    (f.2.record { kind := 0x12, cls := 0, unitType := 5, unit := h * 4 + f.1 % 4 }).portOff h

/-- PORT_DOWN (R457). -/
def execPortDown (port : Fin 8) (s : State) : Res := .next (if s.mode.powered then s.portLost port else s).runEngines

/-- R449, R495: may a port bring up its link: it is enabled, with power, and its lanes L0 and L1 passed the self-test. -/
def State.portEnabled (s : State) (h : Nat) : Bool :=
  s.mode.powered && bitAt (s.reg (bPort h)) 0 && (s.port h).badLanes % 4 == 0

/-- R448, R495: the speed of a port whose peer supports `speed`: not above MAX_SPEED, and 200 Gb/s with L2 or L3 out. -/
def State.linkSpeed (s : State) (h speed : Nat) : Nat :=
  if (s.port h).badLanes = 0 then max speed (s.rfld (bPort h) 2 1) else 2

/-- R458: has a port that is down not tried to negotiate for 1 s. -/
def State.retryDue (s : State) (h : Nat) : Bool := (s.port h).triedAt.all (fun t => t + 10 ^ 9 ≤ s.time.now)

/-- AUTONEG_RETRY (R458): a port that is down negotiates every 1 s; in FAULTED it sends nothing (R475). -/
def execAutonegRetry (port : Fin 8) (s : State) : Res :=
  .next (if s.portEnabled port ∧ s.mode ≠ .faulted ∧ s.rfld (bPort port + 0x08) 1 0 ≠ 2 ∧ s.retryDue port then
    (s.setRfld (bPort port + 0x08) 1 0 1).modPort port (fun p => { p with triedAt := some s.time.now }) else s)

/-- PORT_LINK_UP (R448, R458, R468, R469, R495): negotiation completes at a speed that both ends support; the port carries
the queue pairs connected to it. -/
def execPortLinkUp (port : Fin 8) (speed : Fin 3) (s : State) : Res :=
  let h := port.val
  if s.portEnabled h ∧ s.mode ≠ .faulted ∧ s.rfld (bPort h + 0x08) 1 0 ≠ 2 then
    .next (((s.setRfld (bPort h + 0x08) 1 0 2).setRfld (bPort h + 0x08) 4 3 (s.linkSpeed h speed)).flag (bPort h + 0x18) 0).runEngines
  else .next s

/-! ## Retransmission (R453) -/

/-- ROCE_TIMEOUT (R453, R469): 100 µs without an acknowledgement: everything unacknowledged leaves again. -/
def execRoceTimeout (qp : Fin 4096) (s : State) : Res :=
  let q := qp.val
  if s.qpUp q ∧ (s.qp q).unacked ≠ [] then .next ((s.resendFrom q 0).flag (bPort (s.qp q).port + 0x18) 4)
  else .next s

/-- ROCE_REMOTE_NAK (R313, R314, R469): the host refuses an access of a queue: its descriptor parks with E_XLATE_FAULT,
log kind 5, at the granule it moved, and a hoist is dropped; its messages on the queue pair are answered. -/
def execRoceRemoteNak (qp : Fin 4096) (core : Fin 128) (queue : Fin 17) (s : State) : Res :=
  let q := qp.val
  let n := core.val
  match (s.qp q).unacked.find? (fun u => u.core = n ∧ u.queue = queue.val) with
  | none => .next s
  | some u =>
    let s := (s.frameIn (s.qp q).port 0).flag (bPort (s.qp q).port + 0x18) 6
    let s := s.modQp q (fun p => { p with
      unacked := p.unacked.filter (fun x => !(x.core = n ∧ x.queue = queue.val ∧ x.num = u.num)) })
    match (s.queue n queue).find? (fun i => i.num = u.num) with
    | none =>
      match s.hoists.find? (fun h => h.core = n ∧ h.order = u.num ∧ queue.val = 8) with
      | some h => .next (((s.refuseHoist n h.order).decideConfirms h.ctx h.id).runEngines)
      | none => .next s
    | some i =>
      let s := s.putItem n queue { i with
        phase := .parked, resumed := true, host := [], need := [], wait := 0, wrote := false }
      .next (s.park { core := n, ctx := i.ctx, engine := if queue.val = collQueue then 2 else 0, queue := queue
                      granule := s.granuleOf i u.va, va := u.va, write := !u.read, code := 9, since := s.time.now, item := i.num } 5 3 true)

/-! ## Acknowledgements (R313, R424, R453) -/

/-- R424, R447: an acknowledged write of a gradient shard counts; one at its start was its header. -/
def State.exported (s : State) (u : Unacked) : State :=
  if u.read ∨ (s.shardOf u.va).isNone then s
  else
    let s := (s.noteExport u.va u.msg.bytes).count (bTell + 0x128) u.msg.bytes.length
    match s.shardAt u.va with
    | some k => if s.step.shardsOut.contains k then s
      else { s with step := { s.step with shardsOut := s.step.shardsOut ++ [k] } }
    | none => s

/-- A host response reaches what waits for it. -/
def AeItem.answered (i : AeItem) (u : Unacked) (data : List PByte) : AeItem :=
  { i with wait := i.wait - 1, host := if u.read then (u.va, data) :: i.host else i.host }

/-- R313, R424, R453: one message is acknowledged, a read with its data. -/
def State.acked (s : State) (u : Unacked) (data : List Byte) : State :=
  if u.core = 128 then
    let s : State := { s with step := { s.step with recWait := s.step.recWait - 1 } }
    let s := s.count (bTell + 0x128) u.msg.bytes.length
    match s.recordBuffer with
    | some b => s.pumpRecord b.2 s.step.recDue
    | none => s
  else if 128 < u.core then s
  else if u.queue = 8 then
    { s with hoists := s.hoists.map (fun h => if h.order = u.num then
        { h with wait := h.wait - 1, bytes := (u.va, plain data) :: h.bytes } else h) }
  else
    match (s.queue u.core u.queue).find? (fun i => i.num = u.num) with
    | some i => (s.exported u).putItem u.core u.queue (i.answered u (plain data))
    | none => s

/-- R453: how many messages an acknowledgement frees: those up to its PSN, but not past a read whose response is still
to come. -/
def freed (psn : Nat) : List Unacked → Nat
  | [] => 0
  | u :: r => if psnLe u.psn psn && (!u.read || u.psn == psn) then freed psn r + 1 else 0

/-- R313, R424, R453: the first `k` messages of a queue pair are acknowledged; what waited for them or for room goes on. -/
def State.freeFirst (s : State) (q k : Nat) (data : List Byte) : State :=
  let us := (s.qp q).unacked
  let s := s.modQp q (fun p => { p with
    unacked := us.drop k, ackPsn := ((us.take k).getLast?.map (fun u => (u.psn + 1) % 2 ^ 24)).getD p.ackPsn })
  let s := ((us.take k).foldl (fun t u => t.acked u data) s).pumpPort (s.qp q).port
  s.hoists.foldl (fun t h => t.pumpHoist h) s

/-- ROCE_ACK_RECEIVED (R313, R424, R453, R470). -/
def execRoceAckReceived (qp : Fin 4096) (psn : Nat) (data : List Byte) (s : State) : Res :=
  let q := qp.val
  if s.qpUp q then
    .next ((s.frameIn (s.qp q).port data.length).freeFirst q (freed psn (s.qp q).unacked) data).runEngines.tryNotice
  else .next s

/-- How many messages a NAK of a PSN acknowledges: those before it, but no read. -/
def nakFreed (psn : Nat) (us : List Unacked) : Nat := (us.takeWhile (fun u => u.psn ≠ psn && !u.read)).length

/-- ROCE_NAK (R453): a NAK of an unacknowledged PSN: writes before it have arrived, and from the first unacknowledged PSN on
everything leaves again. -/
def execRoceNak (qp : Fin 4096) (psn : Nat) (s : State) : Res :=
  let q := qp.val
  if s.qpUp q then
    let us := (s.qp q).unacked
    let s := s.frameIn (s.qp q).port 0
    if us.any (fun u => u.psn = psn) then
      let k := nakFreed psn us
      .next (((s.resendFrom q k).freeFirst q k []).runEngines.tryNotice)
    else .next s
  else .next s

/-! ## Accesses by the host (R452, R482) -/

/-- R350: does a memory-plan buffer have stack memory. -/
def hasMemory (b : List Word) : Bool :=
  let k := wfld b 0 47 44
  k != 3 && k != 7 && k != 10

/-- R348, R452: the physical place of `len` bytes at an offset of an opened buffer, counted from the VA of its first
part across instances: the whole range lies within one. -/
def State.regionPa (s : State) (b off len : Nat) : Option Nat :=
  match s.buffer b with
  | none => none
  | some w =>
    let size := (wd w 2).toNat
    let pitch := max 1 (wd w 3).toNat
    if off / pitch < wfld w 4 63 32 ∧ off % pitch + len ≤ size then s.bufPa b (off / pitch * size + off % pitch) else none

/-- R452: the buffer that an RKEY opens. -/
def State.openedBuf (s : State) (rkey : Nat) : Option Nat :=
  (s.opened.find? (fun x => x.1 = rkey)).map (fun x => x.2)

/-- R452: the range that a host access names, when it lies in an opened region. -/
def State.hostRange (s : State) (rkey off len : Nat) : Option (Nat × Nat) :=
  match s.openedBuf rkey with
  | none => none
  | some b => (s.regionPa b off len).map (fun _ => (b, off))

/-- Offset among the bytes that a buffer's memory holds (R348). -/
def State.flatOff (s : State) (b off : Nat) : Nat :=
  match s.buffer b with
  | none => off
  | some w => let pitch := max 1 (wd w 3).toNat; off / pitch * (wd w 2).toNat + off % pitch

/-- R452: the next request of the host on a queue pair has come in. -/
def State.hostRequest (s : State) (q bytes : Nat) : State :=
  (s.frameIn (s.qp q).port bytes).modQp q (fun p => { p with recvPsn := (p.recvPsn + 1) % 2 ^ 24 })

/-- R452: the module's own answer to the host on a queue pair. -/
def State.hostAnswer (s : State) (q : Nat) (kind : SentKind) (bs : List Byte) : State :=
  (s.frameOut (s.qp q).port bs.length).send { kind := kind, dest := q, bytes := bs }

/-- HOST_RDMA_WRITE (R224, R270, R452): bytes for an opened region pass the chip cache and the watch table; any other
access is answered with a remote-access NAK. -/
def execHostRdmaWrite (qp : Fin 4096) (rkey offset : Nat) (data : List Byte) (s : State) : Res :=
  let q := qp.val
  if s.qpUp q then
    let s := s.hostRequest q data.length
    match s.hostRange rkey offset data.length with
    | none => .next (s.hostAnswer q .rdmaNak [])
    | some (b, off) =>
      let s := s.savePut b (data.length / 4096 + 2) (s.flatOff b off) (plain data)
      .next (s.hostAnswer q .rdmaAck [])
  else .next s

/-- HOST_RDMA_READ (R224, R452, R482): bytes of an opened region; poison or any other access is answered with a
remote-access NAK. -/
def execHostRdmaRead (qp : Fin 4096) (rkey offset length : Nat) (s : State) : Res :=
  let q := qp.val
  if s.qpUp q then
    let s := s.hostRequest q 0
    match s.hostRange rkey offset length with
    | none => .next (s.hostAnswer q .rdmaNak [])
    | some (b, off) =>
      let r := s.saveGet b (length / 4096 + 2) (s.flatOff b off) length
      .next (if r.1.any (fun x => x.2) then r.2.hostAnswer q .rdmaNak []
        else r.2.hostAnswer q .rdmaAck (r.1.map (fun x => x.1)))
  else .next s

/-! ## Congestion, pause, keys (R451, R460) -/

/-- CNP_RECEIVED (R451, R470). -/
def execCnpReceived (qp : Fin 4096) (s : State) : Res :=
  let q := qp.val
  if s.qpUp q then
    let s := (s.frameIn (s.qp q).port 0).count (bPort (s.qp q).port + 0x138) 1
    .next (s.modQp q (fun p => { p with rateLow := true, lastCnp := s.time.now }))
  else .next s

/-- CNP_RATE_RESTORE (R451): 50 µs after the last notification. -/
def execCnpRateRestore (qp : Fin 4096) (s : State) : Res :=
  let q := qp.val
  .next (if (s.qp q).rateLow ∧ (s.qp q).lastCnp + 50000 ≤ s.time.now then
    s.modQp q (fun p => { p with rateLow := false }) else s)

/-- MKA_SAK_INSTALL (R460, R468, R469): with MACsec and a CAK, a SAK is installed or changed. -/
def execMkaSakInstall (port : Fin 8) (s : State) : Res :=
  let h := port.val
  if bitAt (s.reg (bPort h)) 3 ∧ (s.port h).cak.isSome ∧ s.rfld (bPort h + 0x08) 1 0 = 2 then
    .next ((s.setReg (bPort h + 0x08) (setBit (s.reg (bPort h + 0x08)) 5)).flag (bPort h + 0x18) 5).runEngines
  else .next s

/-- PFC_PAUSE_FRAME (R451, R470): with PFC_EN, RoCEv2 pauses for the frame's quanta of 512 bit times, each one ECLK at
every speed. -/
def execPfcPauseFrame (port : Fin 8) (quanta : Nat) (s : State) : Res :=
  let h := port.val
  if s.rfld (bPort h + 0x08) 1 0 = 2 then
    let s := s.frameIn h 64
    .next (if bitAt (s.reg (bPort h)) 39 then
      (s.modPort h (fun p => { p with paused := quanta % 65536 })).count (bPort h + 0x140) (quanta % 65536) else s)
  else .next s

end Sys2Proof.Machine
end

