-- ==== Sys2Proof/Machine/Signature.lean ====
section
/-! DEFINITION. ECDSA verification on brainpoolP384r1 (R337, R338, R551), with the curve of RFC 5639 (PRESUMED, log entry 228). -/
namespace Sys2Proof.Machine

/-- The prime of the curve's field. -/
def curveP : Nat := 0x8CB91E82A3386D280F5D6F7E50E641DF152F7109ED5456B412B1DA197FB71123ACD3A729901D1A71874700133107EC53
/-- The coefficients of y² = x³ + ax + b. -/
def curveA : Nat := 0x7BC382C63D8C150C3C72080ACE05AFA0C2BEA28E4FB22787139165EFBA91F90F8AA5814A503AD4EB04A8C7DD22CE2826
def curveB : Nat := 0x04A8C7DD22CE28268B39B55416F0447C2FB77DE107DCD2A62E880EA53EEB62D57CB4390295DBC9943AB78696FA504C11
/-- The order of the base point. -/
def curveN : Nat := 0x8CB91E82A3386D280F5D6F7E50E641DF152F7109ED5456B31F166E6CAC0425A7CF3AB6AF6B7FC3103B883202E9046565

/-- A point in Jacobian coordinates: x = X/Z², y = Y/Z³; Z = 0 is the point at infinity. -/
structure CurvePt where
  x : Nat
  y : Nat
  z : Nat
  deriving DecidableEq, Repr

/-- The base point. -/
def curveG : CurvePt :=
  ⟨0x1D1C64F068CF45FFA2A63A81B7C13F6B8847A3E77EF14FE3DB7FCAFE0CBD10E8E826E03436D646AAEF87B2E247D4AF1E,
   0x8ABE1D7520F9C2A45CB1EB8E95CFD55262B70B29FEEC5864E19C054FF99129280E4646217791811142820341263C5315, 1⟩

/-- Products and differences in the field. -/
def mulP (a b : Nat) : Nat := a * b % curveP
def subP (a b : Nat) : Nat := (a % curveP + curveP - b % curveP) % curveP

/-- Twice a point. -/
def CurvePt.double (q : CurvePt) : CurvePt :=
  let yy := mulP q.y q.y
  let s := mulP 4 (mulP q.x yy)
  let zz := mulP q.z q.z
  let m := (3 * mulP q.x q.x + curveA * mulP zz zz) % curveP
  let x := subP (mulP m m) (2 * s)
  ⟨x, subP (mulP m (subP s x)) (8 * mulP yy yy), mulP 2 (mulP q.y q.z)⟩

/-- The sum of two points. -/
def CurvePt.add (q r : CurvePt) : CurvePt :=
  if q.z = 0 then r
  else if r.z = 0 then q
  else
    let qq := mulP q.z q.z
    let rr := mulP r.z r.z
    let u := mulP q.x rr
    let s := mulP q.y (mulP rr r.z)
    let h := subP (mulP r.x qq) u
    let d := subP (mulP r.y (mulP qq q.z)) s
    if h = 0 then (if d = 0 then q.double else ⟨1, 1, 0⟩)
    else
      let hh := mulP h h
      let hhh := mulP hh h
      let v := mulP u hh
      let x := subP (mulP d d) (hhh + 2 * v)
      ⟨x, subP (mulP d (subP v x)) (mulP s hhh), mulP h (mulP q.z r.z)⟩

/-- The sum of the multiples of two points by the low `n` bits of two numbers. -/
def mulTwo : Nat → Nat → Nat → CurvePt → CurvePt → CurvePt
  | 0, _, _, _, _ => ⟨1, 1, 0⟩
  | n + 1, a, b, g, q =>
    let d := (mulTwo n (a / 2) (b / 2) g q).double
    let d := if a % 2 = 1 then d.add g else d
    if b % 2 = 1 then d.add q else d

/-- A power modulo `m`, by the low `n` bits of the exponent. -/
def powMod (m : Nat) : Nat → Nat → Nat → Nat
  | 0, _, _ => 1
  | n + 1, b, e =>
    let h := powMod m n b (e / 2)
    if e % 2 = 1 then h * h % m * b % m else h * h % m

/-- Is (x, y) a point of the curve. -/
def onCurve (x y : Nat) : Bool := x < curveP && y < curveP && (x ^ 3 + curveA * x + curveB) % curveP == y * y % curveP

/-- ECDSA: does the signature (r, s) over the digest `e`, a big-endian number of 384 bits, verify with the public key (x, y). -/
def ecdsaGood (x y e r s : Nat) : Bool :=
  onCurve x y && 0 < r && r < curveN && 0 < s && s < curveN &&
  (let w := powMod curveN 384 s (curveN - 2)
   let t := mulTwo 384 (e * w % curveN) (r * w % curveN) curveG ⟨x, y, 1⟩
   t.z != 0 && mulP t.x (powMod curveP 384 (mulP t.z t.z) (curveP - 2)) % curveN == r)

/-- R336, R551: a public key as the module holds it, an uncompressed point 0x04 ‖ X ‖ Y of 97 bytes. -/
def keyBytes (key : Nat) : List Byte := leBytes 97 key

/-- R337, R338: does a signature (r, s) over a digest of 48 bytes verify with a public key. -/
def signedBy (key : Nat) (digest : List Byte) (r s : Nat) : Bool :=
  let k := keyBytes key
  k.take 1 == [4] && ecdsaGood (ofBeBytes ((k.drop 1).take 48)) (ofBeBytes (k.drop 49)) (ofBeBytes digest) r s

end Sys2Proof.Machine
end

