-- ==== Sys2Proof/Machine/LoadChecks.lean ====
section
/-! DEFINITION. The rig loader's checks of an image (R335–R364): header, directory, owner, levels and features,
reserved fields, ROLE, CONTEXTS, MEMORY, fenced cores and tensor descriptors. -/
namespace Sys2Proof.Machine

/-! ## Failures (R364, R368) -/

/-- A failed check: its number, the code of R368, the section index (0xFFFF for header and trailer), the item. -/
abbrev Fail := Nat × Nat × Nat × Nat

def codeSig : Nat := 1
def codeVersion : Nat := 2
def codeResource : Nat := 3
def codeAlign : Nat := 4
def codeFenced : Nat := 5
/-- R368: the section index of the header. -/
def inHeader : Nat := 0xFFFF

def failIf (b : Bool) (f : Fail) : List Fail := if b then [f] else []

/-- R364: lowest check, then lowest section, then lowest item. -/
def failBefore (a b : Fail) : Bool :=
  a.1 < b.1 || (a.1 == b.1 && (a.2.2.1 < b.2.2.1 || (a.2.2.1 == b.2.2.1 && a.2.2.2 < b.2.2.2)))

/-- R364: the failure that is reported; among equals the first. -/
def firstFail (fs : List Fail) : Option Fail :=
  fs.foldl (fun (m : Option Fail) f =>
    match m with
    | none => some f
    | some g => if failBefore f g then some f else some g) none

/-! ## Directory entries and selected sections (R341) -/

/-- A directory entry with its index and the words of its section. -/
structure DirEntry where
  index : Nat
  dir   : List Word
  words : List Word

def DirEntry.type (e : DirEntry) : Nat := wfld e.dir 0 63 48
def DirEntry.inst (e : DirEntry) : Nat := wfld e.dir 0 47 40
def DirEntry.variant (e : DirEntry) : Nat := wfld e.dir 0 39 38
def DirEntry.feature (e : DirEntry) : Nat := wfld e.dir 0 37 32
def DirEntry.offset (e : DirEntry) : Nat := (wd e.dir 1).toNat
def DirEntry.length (e : DirEntry) : Nat := (wd e.dir 2).toNat

/-- R340: the features of this module. -/
def features : Nat := 0x3FF

/-- R341: does the entry's VARIANT hold on this module. -/
def DirEntry.selected (e : DirEntry) : Bool :=
  e.variant == 0 || (e.variant == 1 && features.testBit e.feature) || (e.variant == 2 && !features.testBit e.feature)

/-- R341: the directory's entries, each with the words that its LENGTH covers. -/
def imageEntries (f : ImageFile) : List DirEntry :=
  (List.range f.dir.length).map (fun i =>
    let d := f.dir.getD i []
    ⟨i, d, (f.sections.getD i []).take (ceilDiv (wd d 2).toNat 8)⟩)

/-- R341: the selected sections. -/
def imagePicked (f : ImageFile) : List DirEntry := (imageEntries f).filter DirEntry.selected

/-- A selected section by type and INSTANCE; an empty one where there is none. -/
def pickedSec (es : List DirEntry) (t i : Nat) : DirEntry :=
  (es.find? (fun e => e.type = t ∧ e.inst = i)).getD ⟨inHeader, [], []⟩

/-- R336: the bytes of a header field that spans words. -/
def wideField (ws : List Word) (lo n : Nat) : Nat := ofLeBytes (wordsBytes ((ws.drop lo).take n))

/-- R336: OWNER_KEY_ID and JOB_DIGEST. -/
def ownerKeyId (f : ImageFile) : Nat := wideField f.header 6 6
def jobDigest (ws : List Word) : Nat := wideField ws 12 6

/-! ## Checks 1 to 3 and 5: the header (R335, R336, R338–R340) -/

def check1 (f : ImageFile) : List Fail :=
  let h := f.header
  failIf (wfld h 0 31 0 != 0x53494752 || wfld h 0 47 32 != 0x100 || wfld h 0 63 56 != 1 || wfld h 0 55 48 != 0)
    (1, codeVersion, inHeader, 0)

/-- R335: does a section meet another. -/
def overlapsOther (es : List DirEntry) (e : DirEntry) : Bool :=
  es.any (fun x => x.index != e.index && x.offset < e.offset + e.length && e.offset < x.offset + x.length)

def check2 (f : ImageFile) : List Fail :=
  let h := f.header
  let size := (wd h 1).toNat
  let n := wfld h 2 15 0
  let d := (wd h 3).toNat
  let es := imageEntries f
  failIf (size % 256 != 0 || 2 ^ 32 < size) (2, codeResource, inHeader, 8) ++
  failIf (n == 0 || 1024 < n || n != f.dir.length) (2, codeResource, inHeader, 16) ++
  failIf (d % 32 != 0 || d < 256 || size < d + 32 * n + 256) (2, codeResource, inHeader, 24) ++
  es.flatMap (fun e => failIf (e.offset % 4096 != 0 || e.offset < d + 32 * n || size < e.offset + e.length + 256 ||
    overlapsOther es e) (2, codeResource, e.index, 0))

/-- R338: the digest of an owner public key, an uncompressed point of 97 bytes. -/
def ownerDigest (key : Nat) : Nat := ofLeBytes (sha384 (leBytes 97 key))

def check3 (owner : Nat) (f : ImageFile) : List Fail :=
  failIf (owner == 0 || ownerKeyId f != ownerDigest owner) (3, codeSig, inHeader, 48)

/-- A part at its word offset, put into parts that stand in address order. -/
def putPart (x : Nat × List Word) : List (Nat × List Word) → List (Nat × List Word)
  | [] => [x]
  | y :: ys => if x.1 ≤ y.1 then x :: y :: ys else y :: putPart x ys

/-- R335: the parts of an image at their word offsets, with what lies between them. -/
def layParts : List (Nat × List Word) → Nat → List Word → List Word
  | [], _, _ => []
  | (o, ws) :: ps, pos, fill =>
    fill.take (o - pos) ++ List.replicate (o - pos - fill.length) 0 ++ ws ++ layParts ps (o + ws.length) (fill.drop (o - pos))

/-- R335, R337: the words of an image up to its trailer. -/
def imageWords (f : ImageFile) : List Word :=
  let body := ((wd f.header 3).toNat / 8, f.dir.flatMap (fun d => (List.range 4).map (wd d))) ::
    (imageEntries f).map (fun e => (e.offset / 8, e.words))
  layParts ((0, (List.range 32).map (wd f.header)) :: body.foldr putPart [] ++ [((wd f.header 1).toNat / 8 - 32, [])])
    0 f.fill

/-- R337: the image digest, in digest output order and as a number. -/
def imageHash (f : ImageFile) : List Byte := sha384Words (imageWords f)
def imageDigest (f : ImageFile) : Nat := ofLeBytes (imageHash f)

/-- R337, R338: the signature of the trailer, and its bytes that must be zero. -/
def check4 (owner : Nat) (f : ImageFile) : List Fail :=
  let bs := wordsBytes ((List.range 32).map (wd f.trailer))
  failIf (!signedBy owner (imageHash f) (ofBeBytes (bs.take 48)) (ofBeBytes ((bs.drop 48).take 48))) (4, codeSig, inHeader, 0) ++
  failIf ((bs.drop 96).any (fun b => b != 0)) (4, codeSig, inHeader, 96)

def check5 (f : ImageFile) : List Fail :=
  let h := f.header
  let req := (wd h 4).toNat
  failIf (1 < wfld h 2 47 44 || wfld h 2 43 40 < 1) (5, codeVersion, inHeader, 16) ++
  failIf (wfld h 2 63 48 != 1) (5, codeVersion, inHeader, 16) ++
  failIf (1024 ≤ req || (wd h 4 &&& wd h 5) != 0) (5, codeVersion, inHeader, 32)

/-! ## Check 6: the directory (R341, R342) -/

/-- R342: the types of level 1 with their least and greatest selected counts. -/
def sectionTypes : List (Nat × Nat × Nat) :=
  [(0x01, 1, 1), (0x02, 1, 1), (0x03, 0, 1), (0x04, 1, 1), (0x05, 0, 1), (0x06, 1, 1), (0x10, 1, 16), (0x11, 0, 1),
   (0x12, 0, 1), (0x20, 1, 1), (0x21, 1, 1), (0x22, 0, 1), (0x23, 1, 1), (0x24, 1, 1), (0x30, 0, 256)]

def check6 (f : ImageFile) : List Fail :=
  let opt := (wd f.header 5).toNat
  let es := imageEntries f
  let ps := imagePicked f
  es.flatMap (fun e =>
    failIf ((e.type != 0x10 && e.inst != 0) || (e.variant == 0 && e.feature != 0) ||
      ((e.variant == 1 || e.variant == 2) && !opt.testBit e.feature)) (6, codeResource, e.index, 0) ++
    failIf (e.selected && sectionTypes.all (fun t => t.1 != e.type)) (6, codeVersion, e.index, 0)) ++
  sectionTypes.flatMap (fun t =>
    let l := ps.filter (fun e => e.type == t.1)
    failIf (l.length < t.2.1) (6, codeResource, inHeader, t.1) ++
    (l.drop t.2.2).flatMap (fun e => failIf true (6, codeResource, e.index, 0))) ++
  (let plans := ps.filter (fun e => e.type == 0x10)
   plans.flatMap (fun e => failIf (plans.length ≤ e.inst ||
     plans.any (fun x => x.inst == e.inst && x.index < e.index)) (6, codeResource, e.index, 0)))

/-! ## Check 7: reserved fields and codes -/

/-- A reserved field: word, high and low bit. -/
abbrev Resv := Nat × Nat × Nat

/-- Reserved fields of words `base` on, the first nonzero one by its word. -/
def resvAt (ws : List Word) (base : Nat) (rs : List Resv) : Option Nat :=
  (rs.find? (fun r => wfld ws (base + r.1) r.2.1 r.2.2 != 0)).map (fun r => base + r.1)

/-- Whole words `lo` to `hi`. -/
def wholeWords (lo hi : Nat) : List Resv := (List.range (hi + 1 - lo)).map (fun i => (lo + i, 63, 0))

/-- A reserved field of a header: its byte offset is the item. -/
def resvHeader (e : DirEntry) (rs : List Resv) : List Fail :=
  match resvAt e.words 0 rs with
  | some w => [(7, codeResource, e.index, 8 * w)]
  | none => []

/-- Reserved fields of `n` entries of `size` words from word `base`; the entry's index is the item. -/
def resvEntries (e : DirEntry) (base size n : Nat) (rs : List Resv) : List Fail :=
  (List.range n).flatMap (fun i => failIf (resvAt e.words (base + size * i) rs).isSome (7, codeResource, e.index, i))

/-- Words of a section that an offset field names. -/
def offWord (e : DirEntry) (w : Nat) : Nat := (wd e.words w).toNat / 8

def roleResv : List Resv :=
  [(0, 60, 60), (1, 21, 0), (2, 47, 0), (3, 31, 0)] ++ (List.range 12).map (fun s => (4 + s, 36, 0))
def contextResv : List Resv := [(0, 33, 0), (3, 3, 0), (6, 34, 0)] ++ wholeWords 7 15
def bufferResv : List Resv := [(0, 31, 29), (0, 23, 0), (4, 31, 0), (5, 19, 0)] ++ wholeWords 6 7
def jobResv : List Resv :=
  [(2, 41, 0), (3, 63, 0)] ++ (List.range 32).map (fun p => (4 + p / 4, 16 * (p % 4) + 7, 16 * (p % 4) + 4)) ++
    wholeWords 12 15
def tensorResv : List Resv := [(1, 45, 32), (1, 15, 0), (4, 63, 50), (5, 63, 0), (15, 63, 0)]
def opResv : List Resv := [(3, 6, 0), (4, 47, 0)] ++ wholeWords 5 7
def hostHeaderResv : List Resv :=
  [(0, 40, 0)] ++ wholeWords 3 15 ++ (List.range 16).map (fun c => (16 + c, 50, 32))

/-- R283, R46, R82: a PLAN section's reserved fields and codes. -/
def check7Plan (e : DirEntry) : List Fail :=
  let n := wfld e.words 0 63 48
  let d := offWord e 1
  resvHeader e [(0, 10, 0), (6, 47, 0), (7, 63, 0)] ++ resvEntries e d 16 n tensorResv ++
  (List.range n).flatMap (fun i =>
    let ws := (e.words.drop (d + 16 * i)).take 16
    failIf ((Fmt.ofCode (wfld ws 1 63 59)).isNone || (wfld ws 1 50 46 != 0 && wfld ws 1 50 46 != 5))
      (7, codeVersion, e.index, i)) ++
  (List.range (wfld e.words 0 22 11)).flatMap (fun i =>
    failIf (2 < wfld e.words (offWord e 4 + 2 * i) 23 16) (7, codeVersion, e.index, i))

/-- R387–R389: a TACKLE section's. -/
def check7Tackle (e : DirEntry) : List Fail :=
  resvHeader e [(1, 43, 0), (6, 63, 0), (7, 63, 0)] ++
  resvEntries e (offWord e 2) 2 (wfld e.words 0 63 48) [(0, 7, 0), (1, 63, 0)] ++
  resvEntries e (offWord e 3) 8 (wfld e.words 0 47 32) opResv ++
  (List.range (wfld e.words 0 47 32)).flatMap (fun i =>
    failIf (6 < wfld e.words (offWord e 3 + 8 * i) 45 42) (7, codeVersion, e.index, i)) ++
  resvEntries e (offWord e 4) 2 (wfld e.words 0 31 16) [(0, 59, 0), (1, 63, 0)]

/-- R439: a TELLTALES section's. -/
def check7Tell (e : DirEntry) : List Fail :=
  resvHeader e [(0, 28, 0), (2, 31, 0), (6, 63, 0), (7, 63, 0)] ++
  resvEntries e (offWord e 3) 4 (wfld e.words 0 63 52) [(0, 38, 0), (1, 31, 0), (3, 63, 0)] ++
  resvEntries e (offWord e 4) 1 (wfld e.words 0 51 45) [(0, 54, 0)] ++
  resvEntries e (offWord e 5) 1 (wfld e.words 0 44 34) [(0, 47, 0)]

/-- R455: a HOST_REGIONS section's. -/
def check7Host (e : DirEntry) : List Fail :=
  resvHeader e hostHeaderResv ++ resvEntries e (offWord e 1) 1 (wfld e.words 0 63 51) [(0, 44, 0)] ++
  (List.range 16).flatMap (fun c =>
    resvEntries e (wfld e.words (16 + c) 31 0 / 8) 4 (wfld e.words (16 + c) 63 51) [(2, 7, 0), (3, 63, 0)]) ++
  resvEntries e (offWord e 2) 8 (wfld e.words 0 50 41) [(0, 47, 0), (1, 63, 0), (6, 63, 0), (7, 63, 0)]

/-- R364 check 7 of one selected section. -/
def check7Sec (e : DirEntry) : List Fail :=
  let n := e.words.length
  match e.type with
  | 0x01 => failIf (wfld e.words 0 63 62 == 3) (7, codeVersion, e.index, 0) ++ resvHeader e roleResv
  | 0x02 => resvEntries e 0 16 16 contextResv
  | 0x03 => resvEntries e 0 1 n [(0, 20, 0)]
  | 0x04 => (List.range (n / 8)).flatMap (fun i =>
      let id := wfld e.words (8 * i) 63 48
      failIf (wfld e.words (8 * i) 35 34 == 3) (7, codeVersion, e.index, id) ++
      failIf (resvAt e.words (8 * i) bufferResv).isSome (7, codeResource, e.index, id) ++
      failIf (10 < wfld e.words (8 * i) 47 44) (7, codeVersion, e.index, id))
  | 0x05 => check7Host e
  | 0x06 => resvHeader e jobResv
  | 0x10 => check7Plan e
  | 0x11 => resvHeader e ([(0, 55, 0)] ++ wholeWords 1 3) ++
      resvEntries e 4 4 (wfld e.words 0 63 56) [(0, 23, 0), (2, 63, 0), (3, 63, 0)] ++
      (List.range (wfld e.words 0 63 56)).flatMap (fun t => failIf ((List.range (wfld e.words (4 + 4 * t) 39 24)).any (fun i =>
        wfld e.words ((wd e.words (5 + 4 * t)).toNat / 8 + i) 31 0 != 0)) (7, codeResource, e.index, t))
  | 0x12 => check7Tackle e
  | 0x21 => check7Tell e
  | 0x22 => resvEntries e 0 8 (n / 8) ([(0, 23, 0)] ++ wholeWords 5 7)
  | 0x23 => resvHeader e ([(0, 26, 0)] ++ wholeWords 1 15)
  | 0x24 => resvEntries e 0 4 (n / 4) [(3, 63, 0)]
  | 0x30 => resvHeader e ([(0, 47, 0)] ++ wholeWords 1 7) ++
      resvEntries e 8 8 (wfld e.words 0 63 48) [(6, 63, 0), (7, 63, 0)]
  | _ => []

def check7 (f : ImageFile) : List Fail :=
  (match resvAt f.header 0 ([(2, 39, 16)] ++ wholeWords 19 31) with
   | some w => [(7, codeResource, inHeader, 8 * w)]
   | none => []) ++
  (imageEntries f).flatMap (fun e =>
    failIf (e.variant == 3) (7, codeVersion, e.index, 0) ++
    failIf (wfld e.dir 0 31 0 != 0 || wd e.dir 3 != 0) (7, codeResource, e.index, 0)) ++
  (imagePicked f).flatMap check7Sec

/-! ## Check 9: ROLE (R27, R28, R171, R174, R344) -/

/-- R27, R28: the mastheads that ROLE names: the group's is a module of the group, and exactly a masthead is its own; a top
masthead is its own top masthead, and a top masthead in the group is the group's masthead. -/
def mastheadsBad (r : List Word) : Bool :=
  let role := wfld r 0 63 62
  let me := wfld r 0 15 0
  let g := wfld r 3 63 48
  let t := wfld r 3 47 32
  g / 512 != wfld r 0 39 32 || wfld r 0 59 50 < g % 512 || (role != 0) != (g == me) || (role == 2 && t != me) ||
    (t / 512 == wfld r 0 39 32 && t != g) ||
    wfld r 0 31 16 < wfld r 0 59 50

/-- R344: the CORES mask of a context entry. -/
def entryCores (ws : List Word) (c : Nat) : Nat := (wd ws (16 * c + 1)).toNat + (wd ws (16 * c + 2)).toNat * 2 ^ 64
def entryClass (ws : List Word) (c : Nat) : Nat := wfld ws (16 * c) 63 62

/-- R174, R204: the four stays of the track. -/
def trackPorts (r : List Word) : List Nat := [wfld r 1 35 32, wfld r 1 39 36, wfld r 1 27 24, wfld r 1 31 28]

def check9 (es : List DirEntry) : List Fail :=
  let e := pickedSec es 0x01 0
  let r := e.words
  let cs := (pickedSec es 0x02 0).words
  let use := fun (s : Nat) => wfld r (4 + s) 63 60
  let ports := trackPorts r
  let track := wfld r 1 63 54 != 0 && wfld r 1 23 22 != 0
  let tackle := (pickedSec es 0x12 0).words
  let sizes := [wfld tackle 1 63 59, wfld tackle 1 58 54, wfld tackle 1 53 49, wfld tackle 1 48 44]
  failIf (wfld r 0 49 40 > wfld r 0 59 50 || 127 < wfld r 0 39 32 || 511 < wfld r 0 59 50 ||
    wfld r 0 15 0 != wfld r 0 39 32 * 512 + wfld r 0 49 40) (9, codeResource, e.index, 0) ++
  failIf (wfld r 0 61 61 == 1 && (List.range 16).any (fun c => entryCores cs c != 0 && entryClass cs c != 0))
    (9, codeResource, e.index, 0) ++
  failIf (wfld r 1 63 54 < wfld r 1 53 44 || (track && (wfld r 1 43 40 < 2 || 15 < wfld r 1 43 40)))
    (9, codeResource, e.index, 8) ++
  failIf (track && (ports.any (fun p => 11 < p || use p != 2) || ports.eraseDups.length != 4))
    (9, codeResource, e.index, 8) ++
  failIf (mastheadsBad r) (9, codeResource, e.index, 24) ++
  (List.range 12).flatMap (fun s =>
    failIf (3 < use s || (use s != 0 && (11 < wfld r (4 + s) 43 40 || wfld r (4 + s) 59 44 == wfld r 0 15 0)) ||
      (use s != 1 && wfld r (4 + s) 39 37 != 0) || (use s == 1 && sizes.getD (wfld r (4 + s) 39 38) 0 < 2) ||
      (use s == 2 && track && !ports.contains s)) (9, codeResource, e.index, 8 * (4 + s)))

/-! ## Check 11: CONTEXTS (R14, R225, R230, R309, R318, R320, R325, R346, R347) -/

def entryWays (ws : List Word) (c : Nat) : Nat := wfld ws (16 * c + 3) 31 16
def entryCs (ws : List Word) (c : Nat) : Nat × Nat := (wfld ws (16 * c + 3) 63 48, wfld ws (16 * c + 3) 47 32)

/-- Does a context share a core with another. -/
def shareCore (ws : List Word) (a b : Nat) : Bool := (entryCores ws a).land (entryCores ws b) != 0

/-- R325: do two ranges, as start and length, meet. -/
def rangesMeet (a b : Nat × Nat) : Bool := a.1 < b.1 + b.2 && b.1 < a.1 + a.2

/-- R318, R324: do the windows of its primary cover every core of a filler. -/
def fillerCovered (bub ws : List Word) (c : Nat) : Bool :=
  let prim := fun (f : Nat) => wfld ws (16 * f) 37 34
  let masks := ((List.range (bub.length / 8)).filter (fun w => prim (wfld bub (8 * w) 59 56) == prim c)).map (fun w =>
    (wd bub (8 * w + 3)).toNat + (wd bub (8 * w + 4)).toNat * 2 ^ 64)
  let all := masks.foldl Nat.lor 0
  (entryCores ws c).land all == entryCores ws c

/-- R320, R349: the save area of a context: a KIND 4 buffer of CTX0 over all stacks, of the right size, its own. -/
def saveAreaOk (mem ws : List Word) (c : Nat) : Bool :=
  let b := wfld ws (16 * c + 6) 63 48
  match bufferEntry (mem.length / 8) mem b with
  | none => false
  | some w =>
    wfld w 0 47 44 == 4 && wfld w 0 43 40 == 0 && wfld w 0 39 36 == 8 &&
      (wd w 2).toNat == 2 ^ 18 * bitCount128 (entryCores ws c) &&
      (List.range 16).all (fun d => d == 0 || d == c || entryClass ws d == 0 || wfld ws (16 * d + 6) 63 48 != b)
where
  bitCount128 (x : Nat) : Nat := ((List.range 128).filter (fun i => x.testBit i)).length

/-- R346, R318: the rules of one context entry. -/
def contextBad (ws mem bub : List Word) (c : Nat) : Bool :=
  let k := entryClass ws c
  let used := (List.range 16).filter (fun d => entryClass ws d != 0)
  let others := used.filter (fun d => d != c)
  let want := if c = 0 then 1 else if c ≤ 2 then 2 else 3
  let cap := wfld ws (16 * c) 45 38
  let prim := wfld ws (16 * c) 37 34
  if k = 0 then c == 0
  else
    k != want || (if k = 3 then cap == 0 || 64 < cap || !(prim == 1 || prim == 2) || entryClass ws prim != 2
      else cap != 0 || prim != 0 || wd ws (16 * c + 5) != 0) ||
    others.any (fun d => wfld ws (16 * d) 61 46 == wfld ws (16 * c) 61 46) || (c != 0 && wfld ws (16 * c) 61 46 == 0) ||
    entryWays ws c == 0 || 1536 < (entryCs ws c).1 + (entryCs ws c).2 ||
    (c == 0 && (entryWays ws 0).land (others.foldl (fun m d => m.lor (entryWays ws d)) 0) == entryWays ws 0) ||
    4096 < wfld ws (16 * c + 4) 63 48 + wfld ws (16 * c + 4) 47 32 || 4096 < wfld ws (16 * c + 6) 47 35 ||
    others.any (fun d => rangesMeet (wfld ws (16 * d + 4) 63 48, wfld ws (16 * d + 4) 47 32)
      (wfld ws (16 * c + 4) 63 48, wfld ws (16 * c + 4) 47 32)) ||
    others.any (fun d => shareCore ws c d && (
      (k == 2 && entryClass ws d == 2) ||
      (wfld ws (16 * c + 3) 15 8).land (wfld ws (16 * d + 3) 15 8) != 0 ||
      (wfld ws (16 * c + 3) 7 4).land (wfld ws (16 * d + 3) 7 4) != 0)) ||
    (k == 3 && others.any (fun d => entryClass ws d == 2 && ((entryWays ws c).land (entryWays ws d) != 0 ||
      (shareCore ws c d && rangesMeet (entryCs ws c) (entryCs ws d))))) ||
    (k == 3 && !fillerCovered bub ws c) || (c != 0 && !saveAreaOk mem ws c)

def check11 (es : List DirEntry) : List Fail :=
  let e := pickedSec es 0x02 0
  let mem := (pickedSec es 0x04 0).words
  let bub := (pickedSec es 0x22 0).words
  (List.range 16).flatMap (fun c => failIf (contextBad e.words mem bub c) (11, codeResource, e.index, c))

/-! ## Check 12: MEMORY (R313, R348–R350) -/

/-- R348: bytes of a page of a buffer. -/
def bufPage (w : List Word) : Nat :=
  match wfld w 0 35 34 with
  | 0 => 2 ^ 16
  | 1 => 2 ^ 21
  | _ => 2 ^ 30

def bufKind (w : List Word) : Nat := wfld w 0 47 44
def bufId (w : List Word) : Nat := wfld w 0 63 48
def bufVa (w : List Word) : Nat := (wd w 1).toNat
def bufSize (w : List Word) : Nat := (wd w 2).toNat
def bufPitch (w : List Word) : Nat := (wd w 3).toNat
def bufCount (w : List Word) : Nat := wfld w 4 63 32

/-- R349: do the tables of its context map a buffer. -/
def isMapped (w : List Word) : Bool := let k := bufKind w; k != 2 && k != 4 && k != 9

/-- R348, R349: the rules of one buffer entry. -/
def bufferBad (w : List Word) : Bool :=
  let k := bufKind w
  let p := bufPage w
  let place := wfld w 0 39 36
  let packed := wfld w 0 26 26
  bufId w == 0xFFFF || 8 < place || bufSize w == 0 || bufCount w == 0 || bufVa w % p != 0 || bufPitch w % p != 0 ||
    bufPitch w < ceilTo (bufSize w) p || (isMapped w && (!vaOk (bufVa w) || !vaOk (bufVa w + bufPitch w * bufCount w - 1))) ||
    (place == 8 && bufSize w % (8 * (if k = 4 then 4096 else p)) != 0) || (k != 1 && packed == 1) ||
    (k == 2 && (place == 8 || bufSize w % 65536 != 0 || 2 ^ 32 < bufSize w || bufCount w != 1)) ||
    (k == 3 && (bufSize w != 2 ^ 36 || wfld w 0 35 34 != 0)) || (k == 8 && bufSize w < 255 * 32) || ((k == 4 || k == 9) && wfld w 0 43 40 != 0)

/-- R349: a save area that not exactly one context names. -/
def saveAreaStray (cs w : List Word) : Bool :=
  bufKind w == 4 && ((List.range 16).filter (fun c => c != 0 && entryClass cs c != 0 && wfld cs (16 * c + 6) 63 48 == bufId w)).length != 1

/-- R313, R349: a host window lies within its region. -/
def hostWindowBad (host : List Word) (w : List Word) : Bool :=
  let k := bufKind w
  if k = 7 ∨ k = 10 then
    let c := wfld w 0 43 40
    let mr := wfld w 5 63 52
    let row := (host.drop (wfld host (16 + c) 31 0 / 8 + 4 * mr)).take 4
    wfld host (16 + c) 63 51 ≤ mr || (wd row 1).toNat <
      wfld w 5 51 20 * 65536 + (bufCount w - 1) * bufPitch w + ceilTo (bufSize w) (bufPage w)
  else false

/-- Buffers of a MEMORY section. -/
def memBuffers (ws : List Word) : List (List Word) :=
  (List.range (ws.length / 8)).map (fun i => (ws.drop (8 * i)).take 8)

/-- R348: do the pages of an instance of one buffer meet those of an instance of another. -/
def instancesMeet (a b : List Word) : Bool :=
  let len := fun (w : List Word) => ceilTo (bufSize w) (bufPage w)
  rangesMeet (bufVa a, bufPitch a * bufCount a) (bufVa b, bufPitch b * bufCount b) &&
  (List.range (bufCount a)).any (fun i =>
    let lo := bufVa a + i * bufPitch a
    bufVa b < lo + len a && lo < bufVa b + min (bufCount b - 1) ((lo + len a - 1 - bufVa b) / max 1 (bufPitch b)) * bufPitch b + len b)

/-- R364: does a mapped buffer meet another one of its address space; two buffers of one identifier. -/
def bufferClash (bs : List (List Word)) (i : Nat) (w : List Word) : Bool :=
  (bs.zipIdx).any (fun x => x.2 != i && (bufId x.1 == bufId w || (bufKind w == 2 && bufKind x.1 == 2 &&
    wfld w 0 39 36 == wfld x.1 0 39 36) || (isMapped w && isMapped x.1 &&
    wfld w 0 43 40 == wfld x.1 0 43 40 && instancesMeet w x.1)))

/-- R455: the rules of the host region tables that name queue pairs. -/
def hostTablesBad (host cs : List Word) (masthead : Bool) : Bool :=
  let n := wfld host 0 63 51
  let qps := (host.drop ((wd host 1).toNat / 8)).take n
  let port := fun (c q : Nat) => (qps.find? (fun w => fld w 63 52 = q ∧ fld w 51 48 = c)).map (fun w => fld w 47 45)
  4080 < n || 511 < wfld host 0 50 41 || (!masthead && wfld host 0 50 41 != 0) ||
  qps.any (fun w => fld w 63 52 < 16 || fld w 51 48 == 0 || 1 < (qps.filter (fun x => fld x 63 52 = fld w 63 52)).length) ||
  (List.range 16).any (fun c =>
    wfld host (16 + c) 63 51 != wfld cs (16 * c + 6) 47 35 ||
    (List.range (wfld host (16 + c) 63 51)).any (fun i =>
      let row := (host.drop (wfld host (16 + c) 31 0 / 8 + 4 * i)).take 4
      (wd row 0).toNat % 65536 != 0 || (wd row 1).toNat % 65536 != 0 ||
      !((port c (wfld row 2 31 20)).any (fun h => decide (h < 4))) || !((port c (wfld row 2 19 8)).any (fun h => decide (4 ≤ h)))))

def check12 (es : List DirEntry) : List Fail :=
  let e := pickedSec es 0x04 0
  let h := pickedSec es 0x05 0
  let cs := (pickedSec es 0x02 0).words
  let bs := memBuffers e.words
  (bs.zipIdx).flatMap (fun x =>
    failIf (bufferBad x.1 || saveAreaStray cs x.1 || entryClass cs (wfld x.1 0 43 40) == 0 || hostWindowBad h.words x.1 || bufferClash bs x.2 x.1)
      (12, codeResource, e.index, bufId x.1)) ++
  failIf (h.index != inHeader && hostTablesBad h.words cs (wfld (pickedSec es 0x01 0).words 0 63 62 != 0))
    (12, codeResource, h.index, 0)

/-! ## Checks 13 and 23: fenced cores (R36) -/

/-- R36: the cores an image needs. -/
def neededCores (es : List DirEntry) : Nat :=
  let cs := (pickedSec es 0x02 0).words
  (List.range 16).foldl (fun m c => if entryClass cs c = 0 then m else m.lor (entryCores cs c)) 0

def checkFenced (check : Nat) (es : List DirEntry) (fence : Nat) : List Fail :=
  let e := pickedSec es 0x02 0
  let need := neededCores es
  (List.range 128).flatMap (fun n => failIf (need.testBit n && fence.testBit n) (check, codeFenced, e.index, n))

/-! ## Check 14: tensor descriptors (R283–R292) -/

/-- R283: fields beyond NDIM_M1 of a view are zero. -/
def beyondDims (ws : List Word) : Bool :=
  let n := wfld ws 1 58 56 + 1
  ((List.range 8).drop n).any (fun d => descSize ws d != 0 ||
    (if wfld ws 1 54 54 = 1 then descOrigin ws d != 0 else descStride ws d != 0))

/-- R283, R286, R292: the field rules of a descriptor; `parent` names the words of another descriptor. -/
def tensorFieldsBad (ws : List Word) (parent : Nat → List Word) (descs : Nat) : Bool :=
  let n := wfld ws 1 58 56 + 1
  let win := wfld ws 1 54 54 == 1
  let p := parent (wfld ws 1 31 16)
  let mx := ((Fmt.ofCode (wfld ws 1 63 59)).map Fmt.isMx).getD false
  beyondDims ws || (List.range n).any (fun d => descSize ws d == 0) ||
  (if win then
    wd ws 0 != 0 || wd ws 2 != 0 || wd ws 14 != 0 || descs ≤ wfld ws 1 31 16 || wfld p 1 54 54 == 1 ||
      wfld p 1 58 56 != wfld ws 1 58 56
  else
    wfld ws 1 31 16 != 0xFFFF || wfld ws 1 50 46 != (if mx then 5 else 0) ||
      (!mx && (wfld ws 1 53 51 != 0 || wd ws 2 != 0)) || (mx && n ≤ wfld ws 1 53 51))

/-- R286: does a range of memory lie within one mapped buffer. -/
def inOneBuffer (bs : List (List Word)) (r : Nat × Nat) : Bool :=
  bs.any (fun w => isMapped w && bufVa w ≤ r.1 && (
    let i := (r.1 - bufVa w) / max 1 (bufPitch w)
    i < bufCount w && r.2 ≤ bufVa w + i * bufPitch w + bufSize w))

/-- R286: does a range of the core store lie within the partition of a used context. -/
def inOnePartition (cs : List Word) (r : Nat × Nat) : Bool :=
  (List.range 16).any (fun c => entryClass cs c != 0 && (entryCs cs c).1 * 4096 ≤ r.1 &&
    r.2 ≤ ((entryCs cs c).1 + (entryCs cs c).2) * 4096)

/-- R286: the footprint rules of a dense view: within one buffer or partition, below 2^48 bytes, not below zero. -/
def footprintBad (v : View) (bs : List (List Word)) (cs : List Word) : Bool :=
  let ext := List.zipWith (fun (s : Int) (n : Nat) => s * ((n : Int) - 1)) v.stride v.shape
  let lo := (ext.map (fun e => min 0 e)).foldl (· + ·) 0
  let ok := if v.space = 0 then inOneBuffer bs else inOnePartition cs
  (8 * (v.base : Int) + lo * v.fmt.width < 0) || 2 ^ 48 < v.footprint.2 - v.footprint.1 || v.ranges.any (fun r => !ok r)

/-- R288: the alignment rules of a dense view. -/
def alignBad (v : View) : Bool :=
  let dims := v.stride.zipIdx
  (8 ≤ v.fmt.width && v.base % (v.fmt.width / 8) != 0) ||
  (v.fmt.isMx && dims.any (fun d => if d.2 = v.caxis then d.1 != 1
    else d.1 % (if v.fmt.width = 4 then 2 else if v.fmt.width = 6 then 4 else 1) != 0))

def check14 (es : List DirEntry) : List Fail :=
  let bs := memBuffers (pickedSec es 0x04 0).words
  let cs := (pickedSec es 0x02 0).words
  (es.filter (fun e => e.type == 0x10)).flatMap (fun e =>
    let n := wfld e.words 0 63 48
    let desc := fun (i : Nat) => (e.words.drop (offWord e 1 + 16 * i)).take 16
    (List.range n).flatMap (fun i =>
      let ws := desc i
      let win := wfld ws 1 54 54 == 1
      let v := viewOf ws (if win then desc (wfld ws 1 31 16) else ws)
      failIf (tensorFieldsBad ws desc n || (!win && footprintBad v bs cs)) (14, codeResource, e.index, i)))

/-- R288: the alignment rules of check 14. -/
def check14Align (es : List DirEntry) : List Fail :=
  (es.filter (fun e => e.type == 0x10)).flatMap (fun e =>
    (List.range (wfld e.words 0 63 48)).flatMap (fun i =>
      let ws := (e.words.drop (offWord e 1 + 16 * i)).take 16
      failIf (wfld ws 1 54 54 == 0 && alignBad (viewOf ws ws)) (14, codeAlign, e.index, i)))

end Sys2Proof.Machine
end

