-- ==== Sys2Proof/Machine/VeWord.lean ====
section
/-! DEFINITION. The VE and SFE instruction word: what each opcode uses of it (R130, R133–R135). -/
namespace Sys2Proof.Machine

/-- What an opcode uses of an instruction word (R135): its code, its formats, the registers it names, the range of
GROUP and of IMM16, the greatest DST and SRC3, whether SRC1 names an input FIFO, and whether SFMT and SAT are fields. -/
structure VeShape where
  opc  : Nat
  fmts : List Nat
  dst  : Bool := true
  src1 : Bool := true
  src2 : Bool := false
  src3 : Bool := false
  groupLo : Nat := 0
  groupHi : Nat := 0
  immLo : Nat := 0
  imm  : Nat := 0
  dstMax  : Nat := 63
  src3Max : Nat := 63
  fifo : Bool := false
  sfmt : Bool := false
  sat  : Bool := false

/-- The formats "any" stands for (R135, R46). -/
def anyFmt : List Nat := List.range 14

/-- R134, R135: FP64 needs register pairs; an SRC1 that names a FIFO, the second operand of SCALB and the selector of SEL are
no pairs. -/
def VeShape.pairs (h : VeShape) (w : Word) : List Nat :=
  let dst := if h.dst && fld w 55 51 == 1 then [fld w 49 44] else []
  let src := if h.src1 && !h.fifo && (if h.sfmt then fld w 25 21 else fld w 55 51) == 1 then [fld w 43 38] else []
  let two := if h.src2 && fld w 55 51 == 1 && h.opc != 0x8B && !h.sfmt then [fld w 37 32] else []
  let three := if h.src3 && fld w 55 51 == 1 && h.opc != 0x8D then [fld w 31 26] else []
  dst ++ src ++ two ++ three

/-- R134: an instruction word that the rig loader accepts for this opcode. -/
def VeShape.ok (h : VeShape) (w : Word) : Bool :=
  fld w 63 56 == h.opc &&
  h.fmts.contains (fld w 55 51) &&
  (h.pairs w).all (fun r => r % 2 == 0) &&
  (h.sat || fld w 50 50 == 0) &&
  (h.dst || fld w 49 44 == 0) &&
  (h.src1 || fld w 43 38 == 0) &&
  (h.src2 || fld w 37 32 == 0) &&
  (h.src3 || fld w 31 26 == 0) &&
  (if h.sfmt then fld w 25 21 < 13 else fld w 25 21 == 0) &&
  h.groupLo ≤ fld w 20 16 && fld w 20 16 ≤ h.groupHi &&
  h.immLo ≤ fld w 15 0 && fld w 15 0 ≤ h.imm &&
  fld w 49 44 ≤ h.dstMax && fld w 31 26 ≤ h.src3Max && (!h.fifo || fld w 43 38 < 8)

/-- Elementwise over floating-point formats, with `n` sources; SAT is a field of an opcode with BF16 results (R294). -/
def floatOp (opc n : Nat) (fmts : List Nat) : VeShape :=
  { opc := opc, fmts := fmts, src2 := 2 ≤ n, src3 := 3 ≤ n, sat := fmts.contains 2 }

/-- INT32 elementwise with two sources. -/
def intOp (opc : Nat) : VeShape := { opc := opc, fmts := [11], src2 := true }

/-- One FP32 source. -/
def sfeOp (opc : Nat) : VeShape := { opc := opc, fmts := [0] }

/-- R135: floating-point arithmetic, comparison and conversion. -/
def veFloat : List VeShape :=
  [floatOp 0x80 2 [0, 1, 2], floatOp 0x81 2 [0, 1, 2], floatOp 0x82 2 [0, 1, 2], floatOp 0x83 3 [0, 1, 2],
   floatOp 0x84 3 [0, 1, 2], floatOp 0x85 2 [0, 1], floatOp 0x86 1 [0, 1], floatOp 0x87 2 [0, 1, 2, 11],
   floatOp 0x88 2 [0, 1, 2, 11], floatOp 0x89 1 [0, 1, 2], floatOp 0x8A 1 [0, 1, 2], floatOp 0x8B 2 [0, 1, 2],
   { opc := 0x8C, fmts := [0, 1, 2, 11], src2 := true, imm := 4 },
   { opc := 0x8D, fmts := anyFmt, src2 := true, src3 := true },
   { opc := 0x8E, fmts := List.range 13, src2 := true, imm := 65535, sfmt := true, sat := true },
   floatOp 0x8F 1 [0, 1]]

/-- R135: INT32 arithmetic. -/
def veInt : List VeShape :=
  [intOp 0x90, intOp 0x91, intOp 0x92, intOp 0x93, intOp 0x94, intOp 0x95, intOp 0x96, intOp 0x97, intOp 0x98,
   intOp 0x99]

/-- R135: queues, moves, reductions and special forms; SMXSTEP's DST is at most 62 (log entry 210). -/
def veMove : List VeShape :=
  [{ opc := 0xA0, fmts := anyFmt, src1 := false, imm := 7 },
   { opc := 0xA1, fmts := anyFmt, dst := false, imm := 15, immLo := 8 }, { opc := 0xA2, fmts := anyFmt, imm := 255 },
   { opc := 0xA3, fmts := anyFmt }, { opc := 0xA4, fmts := [0], dst := false },
   { opc := 0xB0, fmts := [0, 1], groupLo := 1, groupHi := 8 },
   { opc := 0xB1, fmts := [0, 1], groupLo := 1, groupHi := 8 },
   { opc := 0xB2, fmts := [0, 1], groupLo := 1, groupHi := 8 },
   { opc := 0xB3, fmts := [0, 1], imm := 65535, fifo := true },
   { opc := 0xB4, fmts := [0, 1], imm := 65535, fifo := true },
   { opc := 0xB5, fmts := [0], src2 := true, src3 := true, imm := 65535, fifo := true, src3Max := 1, dstMax := 61 },
   { opc := 0xB6, fmts := [0], src2 := true, dstMax := 62 }, { opc := 0xBF, fmts := [1] }]

/-- R135: the special function engine. -/
def veSfe : List VeShape :=
  [sfeOp 0xC0, sfeOp 0xC1, sfeOp 0xC2, sfeOp 0xC3, sfeOp 0xC4, sfeOp 0xC5, sfeOp 0xC6,
   { opc := 0xC8, fmts := [0], groupHi := 3 },
   { opc := 0xC9, fmts := [0], dst := false, src1 := false, groupHi := 3, imm := 65535 }, sfeOp 0xD0, sfeOp 0xD1,
   { opc := 0xD2, fmts := [0], src2 := true }, sfeOp 0xD3, sfeOp 0xD4, sfeOp 0xD5, sfeOp 0xD6, sfeOp 0xD7]

/-- R135: every opcode. -/
def veShapes : List VeShape :=
  veFloat ++ veInt ++ veMove ++ veSfe

/-- R135: what an opcode uses; `none` for a reserved one. -/
def veShape (opc : Nat) : Option VeShape := veShapes.find? (fun h => h.opc == opc)

end Sys2Proof.Machine
end

