-- ==== Sys2Proof/WellFormed.lean ====
section
/-! DEFINITION. Well-formed commands: what the spec's layouts and ranges admit. The module's own answers to a command
that is not well-formed are in the meanings; nothing there assumes this predicate. -/
namespace Sys2Proof
open Machine

/-! ## VE and SFE instructions (R133–R135) -/

/-- A well-formed VE or SFE instruction; only an across-lane reduction has a tree to check (R157). -/
def VeOp.ok (v : VeOp) (opc : Nat) : Bool :=
  (veShape opc).any (fun h => h.ok v.word) && 1 ≤ v.chk.kind && v.chk.kind ≤ 2 &&
  (v.chk.kind == 1 || 0xB0 ≤ opc && opc ≤ 0xB2)

/-! ## Descriptors and control words (R352) -/

/-- Fields that must be zero, as (word, high bit, low bit). -/
abbrev Zeros := List (Nat × Nat × Nat)

/-- A whole word that must be zero. -/
def zw (i : Nat) : Nat × Nat × Nat := (i, 63, 0)

/-- A descriptor of `n` words with its opcode and its reserved fields zero. -/
def Desc.shape (d : Desc) (n opc : Nat) (z : Zeros) : Bool :=
  d.words.length == n && fld (d.words.getD 0 0) 63 56 == opc &&
  z.all (fun f => fld (d.words.getD f.1 0) f.2.1 f.2.2 == 0)

/-- Field [hi:lo] of word `i` of a descriptor. -/
def Desc.at (d : Desc) (i hi lo : Nat) : Nat := fld (d.words.getD i 0) hi lo

/-- R93: a matrix pass. -/
def Desc.matrixOk (d : Desc) : Bool :=
  d.shape 8 0x40 [(0, 34, 0), (1, 39, 32), (7, 23, 0)] &&
  [0, 1, 2, 3, 4].contains (d.at 0 45 41) &&
  1 ≤ d.at 1 63 55 && d.at 1 63 55 ≤ 256 && 1 ≤ d.at 1 54 48 && d.at 1 54 48 ≤ 64 &&
  (d.at 0 38 38 == 1 || d.at 2 15 0 == 0xFFFF) && d.at 7 45 40 == 0

/-- R143: a small-matrix routine. -/
def Desc.smallOk (d : Desc) (routine : Nat) : Bool :=
  d.shape 8 0x48 [(0, 33, 0), (1, 23, 0), (3, 47, 0), zw 4, zw 5, zw 6, zw 7] &&
  d.at 0 55 51 ≤ 1 && d.at 0 50 48 == routine && 1 ≤ d.at 0 47 41 && d.at 0 47 41 ≤ 64 &&
  (if routine ≤ 1 then d.at 0 40 34 == 0 && d.at 2 47 32 == 0xFFFF else 1 ≤ d.at 0 40 34 && d.at 0 40 34 ≤ 64) &&
  (routine == 0 || d.at 2 31 16 == 0xFFFF) && 1 ≤ d.at 1 63 32 && d.at 1 63 32 ≤ 65536

/-- R197: a page operation. -/
def Desc.pageOk (d : Desc) (op : Nat) : Bool :=
  d.shape 8 0x50 [(0, 53, 0), (1, 23, 0), (2, 23, 0), (3, 23, 0), zw 4, zw 5, zw 6, zw 7] &&
  d.at 0 55 54 == op && (op == 1 || d.at 1 47 32 == 0) && 1 ≤ d.at 3 63 44 && d.at 3 43 40 < 8

/-- R245: an access-engine descriptor of an opcode, its SUBOP in a range, with or without an index tensor. -/
def Desc.aeOk (d : Desc) (opc lo hi : Nat) (idx : Bool) : Bool :=
  d.shape 8 opc [(0, 37, 0), (3, 25, 0), (6, 31, 0), zw 7] &&
  lo ≤ d.at 0 41 38 && d.at 0 41 38 ≤ hi && (idx || d.at 1 31 16 == 0xFFFF) &&
  (d.at 3 31 27 == 0 || (8 ≤ d.at 3 31 27 && d.at 3 31 27 ≤ 30)) && d.at 5 4 0 == 0

/-- R295: a layout operation. -/
def Desc.layoutOk (d : Desc) (perm : Nat) : Bool :=
  d.shape 8 0x30 [(0, 41, 0), (1, 7, 0), (2, 31, 0), zw 3, zw 4, zw 5, zw 6, zw 7] &&
  d.at 0 55 53 == perm && (perm == 0 || d.at 0 49 47 == 0) && (perm == 2 || d.at 2 63 32 == 0) &&
  [0, 1, 2, 3, 4, 10, 11, 12, 13].contains (d.at 0 46 42)

/-- R353: a control word. -/
def Desc.controlOk (d : Desc) (opc : Nat) (z : Zeros) : Bool := d.shape 2 opc z

/-! ## Messages and events -/

/-- R2: a device address of a register word. -/
def regAddrOk (a : Nat) : Bool := a % 8 == 0 && a < 2 ^ 64

/-- R374: a flit's payload is at most 256 bytes. -/
def Flit.ok (f : Flit) : Bool := f.payload.length ≤ 32

/-- R400: a chunk's header has four words. -/
def ChunkMsg.ok (m : ChunkMsg) : Bool := m.header.length == 4

/-- R180, R181: a page has five header words. -/
def Page.ok (p : Page) : Bool := 5 ≤ p.header.length && p.header.length ≤ 32

/-- R493: each failing unit is named once. -/
def SelfTest.ok (r : SelfTest) : Bool := decide (r.cores.Nodup) && decide (r.stackUnits.Nodup)

/-- R546: the fields of a calibration entry. -/
def CalEntry.ok (e : CalEntry) : Bool := e.typ < 2 ^ 8 && e.index < 2 ^ 16 && e.value < 2 ^ 64

/-- Is a command one that the spec's layouts and ranges admit. -/
def Instr.wf : Instr → Bool
  | .matrixPass d => d.matrixOk
  | .add v => v.ok 0x80
  | .sub v => v.ok 0x81
  | .mul v => v.ok 0x82
  | .fma v => v.ok 0x83
  | .fms v => v.ok 0x84
  | .div v => v.ok 0x85
  | .sqrt v => v.ok 0x86
  | .min v => v.ok 0x87
  | .max v => v.ok 0x88
  | .abs v => v.ok 0x89
  | .neg v => v.ok 0x8A
  | .scalb v => v.ok 0x8B
  | .cmp v => v.ok 0x8C
  | .sel v => v.ok 0x8D
  | .cvt v => v.ok 0x8E
  | .rint v => v.ok 0x8F
  | .iadd v => v.ok 0x90
  | .isub v => v.ok 0x91
  | .imul v => v.ok 0x92
  | .and v => v.ok 0x93
  | .or v => v.ok 0x94
  | .xor v => v.ok 0x95
  | .shl v => v.ok 0x96
  | .shr v => v.ok 0x97
  | .imin v => v.ok 0x98
  | .imax v => v.ok 0x99
  | .ldq v => v.ok 0xA0
  | .stq v => v.ok 0xA1
  | .bcast v => v.ok 0xA2
  | .mov v => v.ok 0xA3
  | .rsvec v => v.ok 0xA4
  | .rsum v => v.ok 0xB0
  | .rmax v => v.ok 0xB1
  | .rmin v => v.ok 0xB2
  | .ssum v => v.ok 0xB3
  | .smax v => v.ok 0xB4
  | .nstat v => v.ok 0xB5
  | .smxstep v => v.ok 0xB6
  | .smcvt v => v.ok 0xBF
  | .exp2 v => v.ok 0xC0
  | .log2 v => v.ok 0xC1
  | .rcp v => v.ok 0xC2
  | .rsqrt v => v.ok 0xC3
  | .sqrtS v => v.ok 0xC4
  | .tanh v => v.ok 0xC5
  | .logistic v => v.ok 0xC6
  | .utab v => v.ok 0xC8
  | .tableLoad v => v.ok 0xC9
  | .exp v => v.ok 0xD0
  | .ln v => v.ok 0xD1
  | .pow v => v.ok 0xD2
  | .geluTanh v => v.ok 0xD3
  | .geluErf v => v.ok 0xD4
  | .silu v => v.ok 0xD5
  | .softplus v => v.ok 0xD6
  | .erf v => v.ok 0xD7
  | .smallLu d => d.smallOk 0
  | .smallCholesky d => d.smallOk 1
  | .lowerSolve d => d.smallOk 2
  | .upperSolve d => d.smallOk 3
  | .unitLowerSolve d => d.smallOk 4
  | .alloc d => d.pageOk 0
  | .share d => d.pageOk 1
  | .release d => d.pageOk 2
  | .load d => d.aeOk 0x20 0 0 false
  | .store d => d.aeOk 0x21 0 0 false
  | .fillFifo d => d.aeOk 0x22 0 7 false
  | .drainFifo d => d.aeOk 0x23 8 15 false
  | .gather d => d.aeOk 0x24 0 0 true
  | .atomicAdd d => d.aeOk 0x25 0 0 true
  | .atomicMin d => d.aeOk 0x25 1 1 true
  | .atomicMax d => d.aeOk 0x25 2 2 true
  | .atomicAnd d => d.aeOk 0x25 3 3 true
  | .atomicOr d => d.aeOk 0x25 4 4 true
  | .atomicXor d => d.aeOk 0x25 5 5 true
  | .hoist d => d.aeOk 0x28 0 0 false
  | .hoistExpert d => d.aeOk 0x29 0 0 true
  | .furl d => d.aeOk 0x2A 0 0 false
  | .unfurl d => d.aeOk 0x2B 0 0 false
  | .deepFurl d => d.aeOk 0x2C 0 0 false
  | .deepUnfurl d => d.aeOk 0x2D 0 0 false
  | .remoteRead d => d.aeOk 0x2E 0 0 false
  | .runAheadPrefetch d => (d.aeOk 0x20 0 0 false || d.aeOk 0x22 0 7 false) && d.at 3 31 27 != 0
  | .transpose d => d.layoutOk 0
  | .bitrev d => d.layoutOk 1
  | .stride d => d.layoutOk 2
  | .layoutCopy d => d.layoutOk 3
  | .wait d => d.controlOk 0xE0 [(0, 38, 0)]
  | .signal d => d.controlOk 0xE1 [(0, 39, 0)]
  | .loop d => d.controlOk 0xE2 [(0, 45, 0)] && d.at 0 55 54 ≤ 2
  | .endloop d => d.controlOk 0xE3 [(0, 55, 0), zw 1]
  | .phaseEnd d => d.controlOk 0xE4 [(0, 55, 0), zw 1]
  | .nop d => d.controlOk 0xE5 [(0, 55, 0), zw 1]
  | .chunkReceived m => m.ok
  | .flitReceived _ f => f.ok
  | .controlSlotReceived _ c => c.credits.length == 6
  | .travellerPageReceived _ p => p.ok
  | .selftestDone r => r.ok
  | .regRead _ addrs => addrs.length ≤ 64 && addrs.all regAddrOk
  | .regWrite _ pairs => pairs.length ≤ 64 && pairs.all (fun p => regAddrOk p.1)
  | .registerWrite _ a _ => regAddrOk a
  | .write _ data _ _ => data.length == 64
  | .stackCopy _ _ units => 1 ≤ units
  | .fillZero _ units => 1 ≤ units
  | .furlPack _ _ data => data.length == 4096
  | .rawWrite _ _ size units => units.length == if size.val = 0 then 4096 else 256 * size.val
  | .calWrite _ es => es.all CalEntry.ok
  | .setAccum _ n _ => 1 ≤ n && n ≤ 65535
  | .setAddr _ as _ => as.all (fun a => a.1 < 8)
  | .thermalSample t => t.stackUnits.length == 8
  | .bubbleWindowOpen w => w < 2 ^ 16
  | .bubbleWindowClose w => w < 2 ^ 16
  | .powerOn _ | .railsGood _ | .firmwareVerified | .powerOff _ | .inputOutOfRange _ | .modReset | .moduleClassEvent _
  | .fwWatchdogExpiry | .leakDetected | .regulatorPhaseFault _ _ | .powerLimiterSample _ _ | .reefLevelChange _
  | .resetReq | .unloadReq | .resumeReq | .haltReq | .coreFenceWrite _ _ | .timeOffsetWrite _ | .reefCtlWrite _
  | .injMem _ | .injSram _ | .injLink _ | .injCheck _ | .preemptSave _ _ | .preloadShift _ | .passStreamStart _
  | .passDrain _ _ | .passReplay _ | .passRetire _ | .tableSwap _ _ | .hoistLanded _ _ | .aeDescriptorRetire _ _
  | .streamPrefetch _ _ _ | .fencedWriteRelease _ _ | .waitSatisfied _ _ | .signalIncrement _ _ | .phaseComplete
  | .rigLoadComplete _ | .jobStartCheck _ | .walkComplete _ | .cowServiceDone _ | .invalidationComplete _
  | .parkLimitExpiry _ | .ctxPreempt _ | .ctxResume _ | .ctxRetry _ | .ctxEnd _ | .contextSaved _ | .contextRestored _
  | .fillerCreditRefill | .barrier _ | .scalarAllreduce _ | .allReduce _ | .reduceScatter _ | .allGather _
  | .broadcast _ | .reduce _ | .allToAll _ | .moeDispatch _ | .moeCombine _ | .send _ | .recv _ | .phase0Complete _ _
  | .resendRequest _ _ _ | .collectiveOpComplete _ | .laneDrop _ _ | .stayDown _ | .peerSilenceTimeout _
  | .travellerPageSend _ | .travellerPageAck _ _ | .pageResendRequest _ _ | .read _ _ | .ledger _ _ _
  | .furlUnpack _ _ | .rawRead _ _ | .scrub _ | .refresh _ _ _ _ | .gatherWindowIssue _ | .stepBoundary _
  | .releaseNotice _ | .closeNotice _ | .closeWaitExpiry | .hello _ | .auth _ | .handshakeTimeout _ | .close _
  | .keepalive _ | .sessionIdleTimeout _ | .sessionLimitExpiry _ | .identity _ | .attest _ _ _ | .rigLoad _ _ _
  | .rigLoadCached _ _ | .rigCacheList _ | .rigCacheDelete _ _ | .jobStart _ _ | .jobHalt _ | .jobResume _ | .unload _
  | .reset _ | .snapshot _ _ _ _ | .published _ _ | .rollbackRequest _ _ | .stepOpen _ _ _ _ | .closed _ _ _
  | .rollback _ _ | .mapPages _ _ _ | .unmapPages _ _ _ | .setRegion _ _ _ _ _ | .qpConnect _ _ _ _ _ | .qpClose _ _
  | .openRegion _ _ | .linkRetrain _ | .macsecCak _ _ _ | .subscribe _ _ | .event _ _ | .telemetryRead _ _ _ _ _
  | .battenSchedule _ _ _ _ | .ledgerRead _ _ _ | .plumbSchedule _ _ _ | .plumbUnitDone _ | .calRead _ | .fwStage _ _
  | .fwActivate _ | .ownerEnroll _ _ _ | .enrollWindowOpen _ | .enrollWindowExpiry | .notifyRepeat _
  | .mastheadResend _ | .telemetryInterval _ | .loadStaggerWave _ | .portDown _ | .autonegRetry _ | .roceNak _ _
  | .roceTimeout _ | .roceRemoteNak _ _ _ | .hostRdmaWrite _ _ _ _ | .hostRdmaRead _ _ _ _ | .cnpReceived _
  | .cnpRateRestore _ | .mkaSakInstall _ | .ptpSync _ _ _ | .syncLossTimeout | .ppsInEdge _ | .ppsLostTimeout
  | .ppsOutEdge | .ref10mLost | .battenFire | .ledgerCoalesceExpiry _ | .inputInRange | .modResetRelease
  | .stayTrained _ _ | .portLinkUp _ _ | .roceAckReceived _ _ _ | .halyardResponseReceived _ _ _ _ _
  | .layoutTileDone _ _ | .routineGroupDone _ _ | .remoteReadRequestReceived _ | .remoteReadResponse _ _
  | .ptpSyncTransmit _ | .ptpDelayRequest _ _ | .ref10mLock | .ledgerEntryWritten | .pfcPauseFrame _ _ => true

end Sys2Proof
end

