-- ==== Sys2Proof/Machine/ProgChecks.lean ====
section
/-! DEFINITION. The rig loader's checks of what an image runs: routes, digest, programs and their items (checks 7, 8, 10,
14 to 16 of R364). -/
namespace Sys2Proof.Machine

/-! ## Reading the image -/

/-- The module with the selected sections resident: the loader reads an image through the accessors of Rig and
Operands. -/
def asResident (f : ImageFile) (es : List DirEntry) : State :=
  { State.reset with image := some { header := f.header, sections := es.map (fun e => (e.type, e.inst, e.words)) } }

/-- R356: is a plan one that a phase of the job runs. -/
def State.inPhases (m : State) (p : Nat) : Bool := (List.range m.phases).any (fun k => m.phasePlan k == p)

/-- R318, R356: the contexts that run the programs of core `n` in plan `p`: the primaries in a phase's plan, the fillers
in any other. -/
def State.runners (m : State) (p n : Nat) : List Nat :=
  let cs := m.section 2 0
  (List.range 16).filter (fun c => entryClass cs c == (if m.inPhases p then 2 else 3) && (entryCores cs c).testBit n)

/-- Failures of one item: the check and the code of each. -/
abbrev ItemFails := List (Nat × Nat)

def itemFail (b : Bool) (check code : Nat) : ItemFails := if b then [(check, code)] else []

/-- The failures of the items of every plan; the item is its byte offset in the section. -/
def itemFails (es : List DirEntry) (m : State) (f : Nat → ProgItem → ItemFails) : List Fail :=
  (es.filter (fun e => e.type == 0x10)).flatMap (fun e => (m.allItems e.inst).flatMap (fun i =>
    (f e.inst i).map (fun x => (x.1, x.2, e.index, i.off))))

/-- R388, R406, R408: the descriptors that an operation of a tackle list reads at this module, and those that it writes; a
dispatch writes, and a combine reads, one view for each local expert. -/
def State.localViews (m : State) (w : List Word) (d : Nat) : List Nat :=
  ((List.range (m.experts w)).map (m.expertRow w)).filterMap (fun x => if x.1 = m.myRank (oSet w) then some (d + x.2.1) else none)

def State.opSources (m : State) (w : List Word) : List Nat :=
  match oOpc w with
  | 0x01 | 0x21 => []
  | 0x13 => if oRoot w = m.myRank (oSet w) then [oSrc w] else []
  | 0x16 => [oSrc w, oAux w]
  | 0x17 => m.localViews w (oSrc w) ++ [oAux w]
  | _ => [oSrc w]

def State.opTargets (m : State) (w : List Word) : List Nat :=
  match oOpc w with
  | 0x01 | 0x20 => []
  | 0x14 => if oRoot w = m.myRank (oSet w) then [oDst w] else []
  | 0x16 => m.localViews w (oDst w) ++ (if oCntDesc w = 0xFFFF then [] else [oCntDesc w])
  | _ => [oDst w]

/-- R357, R387: the plans in which the operations of list `l` name their sources and their destinations: those of the tack that
the list performs, or the list's own. -/
def State.listPlans (m : State) (l : Nat) : Nat × Nat :=
  let tacks := (List.range (wfld (m.section 0x11 0) 0 63 56)).map (fun t => (m.section 0x11 0).drop (4 + 4 * t))
  match tacks.find? (fun w => wfld w 0 55 40 == l) with
  | some w => (wfld w 0 63 60, wfld w 0 59 56)
  | none => (wfld (m.tackleList l) 0 15 12, wfld (m.tackleList l) 0 15 12)

/-- R387: the operations of all lists: list, number, context, words. -/
def State.listOps (m : State) : List (Nat × Nat × Nat × List Word) :=
  (List.range (wfld m.tackleSec 0 63 48)).flatMap (fun k =>
    let l := m.tackleList k
    (List.range (wfld l 0 31 16)).map (fun j =>
      let o := wfld l 0 47 32 + j
      (k, o, wfld l 0 11 8, m.tackleOp o)))

/-- The descriptors of plan `p` that operations of tackle lists read and that they write, each with its context. -/
def State.opReadsIn (m : State) (p : Nat) : List (Nat × Nat) :=
  (m.listOps.filter (fun x => (m.listPlans x.1).1 == p)).flatMap (fun x => (m.opSources x.2.2.2).map (fun d => (d, x.2.2.1)))
def State.opWritesIn (m : State) (p : Nat) : List (Nat × Nat) :=
  (m.listOps.filter (fun x => (m.listPlans x.1).2 == p)).flatMap (fun x => (m.opTargets x.2.2.2).map (fun d => (d, x.2.2.1)))

/-! ## Check 7: codes and reserved fields of programs and tables (R46, R134, R249, R297, R353, R358) -/

/-- R46: is a format code reserved. -/
def badFmt (c : Nat) : Bool := (Fmt.ofCode c).isNone

/-- The format fields of an item, by their low bits. -/
def fmtFields (op : Nat) : List Nat :=
  if op < 0x2F then [51, 46] else if op = 0x30 then [42] else if op = 0x40 then [51, 46, 41] else if op = 0x48 then [51]
  else if op < 0x80 then [] else if op < 0xE0 then [51, 21] else []

/-- R93, R143, R197, R245, R295, R353: the reserved fields of an item. -/
def itemResv (op : Nat) : List Resv :=
  if op < 0x2F then [(0, 37, 0), (3, 25, 0), (6, 31, 0), (7, 63, 0)]
  else if op = 0x30 then [(0, 41, 0), (1, 7, 0), (2, 31, 0)] ++ wholeWords 3 7
  else if op = 0x40 then [(0, 34, 0), (1, 39, 32), (7, 23, 0)]
  else if op = 0x48 then [(0, 33, 0), (1, 23, 0), (3, 47, 0)] ++ wholeWords 4 7
  else if op = 0x50 then [(0, 53, 0), (1, 23, 0), (2, 23, 0), (3, 23, 0)] ++ wholeWords 4 7
  else if op = 0xE0 then [(0, 38, 0)] else if op = 0xE1 then [(0, 39, 0)] else if op = 0xE2 then [(0, 45, 0)]
  else if op = 0xE3 ∨ op = 0xE4 ∨ op = 0xE5 then [(0, 55, 0), (1, 63, 0)] else []

/-- R134, R246, R352: is an opcode of a class reserved. -/
def badOpcode (op : Nat) : Bool :=
  if op < 0x20 then false
  else if op < 0x80 then !([0x20, 0x21, 0x22, 0x23, 0x24, 0x25, 0x28, 0x29, 0x2A, 0x2B, 0x2C, 0x2D, 0x2E, 0x30, 0x40, 0x48,
    0x50].contains op)
  else if op < 0xE0 then (veShape op).isNone else false

/-- R143, R197, R297: a reserved PERM, ROUTINE or page operation. -/
def badCode (ws : List Word) : Bool :=
  match wfld ws 0 63 56 with
  | 0x30 => 3 < wfld ws 0 55 53
  | 0x48 => 4 < wfld ws 0 50 48
  | 0x50 => wfld ws 0 55 54 == 3
  | _ => false

def check7Item (_ : Nat) (i : ProgItem) : ItemFails :=
  let op := i.op
  itemFail (badOpcode op) 7 codeVersion ++
  itemFail (0x20 ≤ op && !badOpcode op && (fmtFields op).any (fun l => badFmt (wfld i.words 0 (l + 4) l))) 7 codeVersion ++
  itemFail (0x20 ≤ op && (resvAt i.words 0 (itemResv op)).isSome) 7 codeResource ++
  itemFail (badCode i.words) 7 codeVersion

/-- R358: the reserved fields of a table entry of the SFE section. -/
def sfeResv : List Resv := [(2, 61, 0), (4, 31, 4), (6, 47, 0)]

/-- R153, R358, R388, R439: reserved fields and formats of the tables of a section. -/
def check7Tables (e : DirEntry) : List Fail :=
  match e.type with
  | 0x10 => resvEntries e (offWord e 3) 8 (wfld e.words 0 30 23) ([(1, 31, 4), (3, 47, 0)] ++ wholeWords 4 7)
  | 0x12 => (List.range (wfld e.words 0 47 32)).flatMap (fun i =>
      let w := e.words.drop (offWord e 3 + 8 * i)
      failIf (badFmt (wfld w 0 55 51) || badFmt (wfld w 0 50 46)) (7, codeVersion, e.index, i))
  | 0x20 => resvHeader e [(0, 63, 1), (2, 47, 0), (3, 63, 0)] ++ resvEntries e 4 8 (wfld e.words 2 63 48) sfeResv
  | 0x21 => (List.range (wfld e.words 0 51 45)).flatMap (fun i =>
      failIf (badFmt (wfld e.words (offWord e 4 + i) 59 55)) (7, codeVersion, e.index, i))
  | _ => []

/-! ## Check 8: the job digest (R343) -/

/-- R343: the bytes of JOB_DIGEST, each item in the words of its section with every other field of them zero: the result
class and levels, MODULES_M1, SEED and FIRST_STEP, the phase list, PROFILE, and for each tackle list its identifier, its
operations' signature fields, their sets and their count tables. -/
def State.digestBytes (m : State) (header : List Word) : List Byte :=
  let keep := fun (w : Word) (hi lo : Nat) => packWord [(lo, fld w hi lo)]
  let ops := fun (l : List Word) => (List.range (wfld l 0 31 16)).map (fun k => m.tackleOp (wfld l 0 47 32 + k))
  wordsBytes ([keep (wd header 2) 63 40, keep (wd m.roleSec 0) 31 16, wd m.jobSec 0, wd m.jobSec 1] ++
    (List.range 8).map (fun k => wd m.jobSec (4 + k)) ++ [keep (wd (m.section 0x20 0) 0) 0 0]) ++
  (List.range (wfld m.tackleSec 0 63 48)).flatMap (fun i =>
    let l := m.tackleList i
    wordsBytes [keep (wd l 0) 63 48] ++ (ops l).flatMap (fun w =>
      wordsBytes [keep (wd w 0) 63 42, keep (wd w 2) 15 0, BitVec.ofNat 64 (m.setSize (oSet w))] ++
      (if oTable w = 0xFFFF then []
       else (wordsBytes (m.tackleSec.drop (m.tableAt (oTable w)))).take (tableSize m.tackleSec (m.tableAt (oTable w))))))

def check8 (f : ImageFile) (m : State) : List Fail :=
  failIf (jobDigest f.header != ofLeBytes (sha384 (m.digestBytes f.header))) (8, codeResource, inHeader, 96)

/-! ## Check 10: ROUTES (R14, R345) -/

/-- R345: every hop of one kind comes before every other hop. -/
def hopsFirst (p : Bool → Bool) (l : List Bool) : Bool := (l.dropWhile p).all (fun x => !p x)

/-- R14, R345: an entry names cores, takes a shortest way and keeps the turn rule of its plane. -/
def routeBad (ws : List Word) (i : Nat) : Bool :=
  let w := wd ws i
  let x := routePair w
  let a := meshAt x.1
  let b := meshAt x.2.1
  let hops := meshDist a.1 b.1 + meshDist a.2 b.2
  let ms := entryMoves w
  127 < x.1 || 127 < x.2.1 || fld w 42 21 >>> hops != 0 || (ms.filter id).length != meshDist a.1 b.1 ||
    (x.2.2 == 0 && b.2 < a.2 && !hopsFirst (fun h => !h) ms) || (x.2.2 == 1 && b.1 < a.1 && !hopsFirst (fun h => h) ms) ||
    (ws.take i).any (fun v => routePair v == x)

def check10 (es : List DirEntry) : List Fail :=
  let e := pickedSec es 0x03 0
  (List.range e.words.length).flatMap (fun i => failIf (routeBad e.words i) (10, codeResource, e.index, i))

/-! ## Check 14: descriptors in use (R285, R286, R288, R290, R292) -/

/-- R285: a destination names every element once: each stride passes the extent of the smaller ones. -/
def destRepeats (v : View) : Bool :=
  let ds := ((List.zipWith (fun (s : Int) (n : Nat) => (s.natAbs, n)) v.stride v.shape).filter (fun d => 1 < d.2)).zipIdx
  ds.any (fun d => d.1.1 < 1 + ((ds.filter (fun e => e.2 != d.2 && e.1.1 ≤ d.1.1)).map (fun e =>
    e.1.1 * (e.1.2 - 1))).foldl (· + ·) 0)

/-- R286: does a view of the core store lie in the partition of every context that uses it. -/
def partitionBad (cs : List Word) (v : View) (runners : List Nat) : Bool :=
  v.space == 1 && runners.any (fun c => v.ranges.any (fun r =>
    r.1 < (entryCs cs c).1 * 4096 || ((entryCs cs c).1 + (entryCs cs c).2) * 4096 < r.2))

/-- R288, R292: does a window of an MX parent start inside a block along its contraction axis. -/
def windowSplits (v : View) : Bool :=
  v.fmt.isMx && (v.origin.map (fun o => o.getD v.caxis 0 % 32 != 0)).getD false

/-- R288: an MX operand whose origin along its contraction axis is no multiple of 32. -/
def originBad (m : State) (p : Nat) (i : ProgItem) : List (Nat × Bool) :=
  let v := m.view p
  if i.op = 0x40 then
    [(wfld i.words 2 63 48, wfld i.words 3 31 0), (wfld i.words 2 47 32, wfld i.words 4 63 32)].map (fun x =>
      (x.1, (v x.1).fmt.isMx && (x.2 % 32 != 0 || windowSplits (v x.1))))
  else if i.op < 0x2F ∧ i.op ≠ 0x23 ∧ wfld i.words 0 55 51 = wfld i.words 0 50 46 then
    (wfld i.words 1 63 48 :: m.expertsOf p i 48).map (fun d => (d, windowSplits (v d)))
  else []

/-- Check 14 on the use of descriptors, after the rules of R286 and in the order of its labels: the item is the descriptor's
index. -/
def check14Use (es : List DirEntry) (m : State) : List Fail :=
  let cs := m.section 2 0
  (es.filter (fun e => e.type == 0x10)).flatMap (fun e =>
    let p := e.inst
    let win := fun (d : Nat) => wfld (m.tensor p d) 1 54 54 == 1
    let repeats := fun (d : Nat) => failIf (!win d && destRepeats (m.view p d)) (14, codeResource, e.index, d)
    let outside := fun (d : Nat) (cs' : List Nat) => failIf (partitionBad cs (m.view p d) cs') (14, codeResource, e.index, d)
    (m.allItems p).flatMap (fun i => (m.writesOf p i).flatMap repeats ++
      (m.touchesOf p i).flatMap (fun d => outside d (m.runners p i.core))) ++
    (m.opWritesIn p).flatMap (fun x => repeats x.1) ++ (m.opReadsIn p ++ m.opWritesIn p).flatMap (fun x => outside x.1 [x.2])) ++
  check14Align es ++
  (es.filter (fun e => e.type == 0x10)).flatMap (fun e =>
    let p := e.inst
    let window := fun (d : Nat) => failIf (wfld (m.tensor p d) 1 54 54 == 1) (14, codeResource, e.index, d)
    (m.allItems p).flatMap (fun i =>
      (i.each.flatMap (originBad m p)).flatMap (fun x => failIf x.2 (14, codeAlign, e.index, x.1)) ++
      (m.writesOf p i).flatMap window) ++ (m.opWritesIn p).flatMap (fun x => window x.1) ++
    (List.range (wfld e.words 0 22 11)).flatMap (fun k =>
      let d := wfld (m.rng p k) 0 15 0
      failIf (2 ^ 50 ≤ (m.view p d).lastPosition) (14, codeResource, e.index, d)))

/-! ## Check 15: matrix passes (R66, R72, R90, R94, R111, R561) -/

/-- R66: may two operand formats meet. -/
def pairOk (a b : Fmt) : Bool :=
  let narrow := fun (f : Fmt) => f == .e4m3 || f == .e5m2 || f.isMx
  (narrow a && narrow b) || (a == b && (a == .int8 || a == .bf16 || a == .fp32 || a == .slice))

/-- R561: a view of a pass: two dimensions and ones above, or the digit planes of split-mantissa mode; K is on dimension 0,
which is CAXIS of an MX operand. -/
def passViewBad (v : View) : Bool :=
  v.ndim < 2 || (v.fmt.isMx && v.caxis != 0) || (if v.fmt = .slice then v.plan.drop 2 != [7] else (v.plan.drop 2).any (fun n => n != 1))

/-- R561: the views of a pass's operands and output; an operand's FMT is that of the item (log entry 206). -/
def passViewsBad (m : State) (p : Nat) (ws : List Word) : Bool :=
  let v := m.view p
  passViewBad (v (wfld ws 2 63 48)) || passViewBad (v (wfld ws 2 47 32)) ||
    (v (wfld ws 2 63 48)).fmt != pFmtA ws || (v (wfld ws 2 47 32)).fmt != pFmtB ws ||
    (wfld ws 2 31 16 != 0xFFFF && passViewBad (v (wfld ws 2 31 16))) || (pPreload ws && passViewBad (v (wfld ws 2 15 0)))

/-- The matrix passes of a core with what comes before and after pass number `k`. -/
def passAround (l : List PassItem) (k : Nat) : PassItem × List PassItem × List PassItem :=
  (l.getD k ([], []), (l.take k).reverse, l.drop (k + 1))

/-- R107, R111: does a pass start a split operation's piece off a multiple of 32 positions; does a pass that another
continues drain other than FP32. -/
def splitBad (m : State) (p n k : Nat) : Bool × Bool :=
  let x := passAround (m.programPasses p n) k
  (m.chainBack p x.1 x.2.1 % 32 != 0,
   !pSplit x.1.1 && pFmtOut x.1.1 != .fp32 && x.2.2.any (fun q => m.continues p q x.1))

/-- R66, R72, R94, R111, R561: a matrix pass, `k` its number among the passes of its core. -/
def passBad (m : State) (p : Nat) (i : ProgItem) (k : Nat) : Bool :=
  let ws := i.words
  let descs := wfld (m.planSec p) 0 63 48
  let split := splitBad m p i.core k
  let out := wfld ws 0 45 41
  !pairOk (pFmtA ws) (pFmtB ws) || !(if pSplit ws then out == 1 else [0, 2, 3, 4].contains out) ||
    wfld ws 1 63 55 == 0 || 256 < wfld ws 1 63 55 || wfld ws 1 54 48 == 0 || 64 < wfld ws 1 54 48 ||
    16384 < streamCycles (pFmtA ws) (pFmtB ws) (fedK ws (pK ws)) || (pSplit ws && 1152 < pK ws) ||
    (pRowScale ws && !pPreload ws) || split.1 ||
    descs ≤ wfld ws 2 63 48 || descs ≤ wfld ws 2 47 32 || (descs ≤ wfld ws 2 31 16 && !(pSplit ws && wfld ws 2 31 16 == 0xFFFF)) ||
    (if pPreload ws then decide (descs ≤ wfld ws 2 15 0) else wfld ws 2 15 0 != 0xFFFF) || pMask ws % 64 != 0 ||
    split.2 || i.each.any (fun x => passViewsBad m p x.words)

/-! ## Check 15: vector and table instructions (R132, R134, R140, R153) -/

/-- R132: the narrow formats of a register. -/
def narrowFmt (f : Fmt) : Bool := f.width < 16

/-- R132: a CVT that is refused: a segment past the register, an MX destination in V63, narrow to narrow, constants
that the plan lacks, and fields that its formats do not use. -/
def cvtBad (w : Word) (consts : Nat) : Bool :=
  let d := (Fmt.ofCode (fld w 55 51)).getD .fp32
  let s := (Fmt.ofCode (fld w 25 21)).getD .fp32
  let seg := fld w 2 0
  let int := (d == .int8) != (s == .int8)
  let n := cvtCount s d
  max (elemCount s) (elemCount d) < seg * n + n || (elemCount s == elemCount d && seg != 0) ||
    (d.isMx && fld w 49 44 == 63) || (narrowFmt s && narrowFmt d) || (int && consts ≤ fld w 15 8 + 2) ||
    fld w 7 3 != 0 || (!int && fld w 15 8 != 0) || (!s.isMx && fld w 37 32 != 0)

/-- R153, R358: does the SFE section give slot `t` of core `n` its content. -/
def State.slotGiven (m : State) (n t : Nat) : Bool :=
  let ws := m.section 0x20 0
  (List.range (wfld ws 2 63 48)).any (fun k => bitAt (wd ws (4 + 8 * k + n / 64)) (n % 64) && wfld ws (6 + 8 * k) 63 62 == t)

/-- R153: the header of a table: LO and HI, SCALE and LOG2_SEG, at a word of a section. -/
def tableBad (ws : List Word) (o : Nat) : Bool :=
  let num := fun (i hi lo : Nat) => layout32.decode (wfld ws (o + i) hi lo)
  let lo := num 0 63 32
  let hi := num 0 31 0
  let sc := num 1 63 32
  let open_ := fun (x : Num) => x.isNan || x.isInf
  open_ lo || open_ hi || open_ sc || !Num.lt lo hi || sc.isZero || sc.sign || 9 < wfld ws (o + 1) 3 0

/-- R132, R134, R140, R153: a VE or SFE instruction. -/
def veBad (m : State) (p : Nat) (i : ProgItem) : Bool :=
  let w := wd i.words 0
  let sec := m.planSec p
  let consts := wfld sec 0 47 39
  let op := i.op
  !((veShape op).any (fun h => h.ok w)) || (op == 0x8E && cvtBad w consts) || (op == 0xB5 && consts ≤ fld w 37 32) ||
    ((op == 0xC8 || op == 0xC9) && !m.slotGiven i.core (fld w 20 16)) ||
    (op == 0xC9 && (wfld sec 0 30 23 ≤ fld w 15 0 || wfld sec 0 63 48 ≤ wfld (m.tableDesc p (fld w 15 0)) 3 63 48))

/-! ## Check 15: access-engine descriptors (R249, R250, R260, R267, R278, R280) -/

/-- R250: may an access-engine opcode convert between two formats. -/
def aePairOk (op : Nat) (s d : Fmt) : Bool :=
  let wide := d == .fp32 || d == .bf16
  let narrow := d == .e4m3 || d == .e5m2 || d == .int8 || d.isMx
  s == d ||
    (if [0x29, 0x2A, 0x2B, 0x2C, 0x2D, 0x2E].contains op then false
     else match s with
      | .fp64 => d == .fp32 || (d == .slice && op == 0x20)
      | .fp32 => d == .fp64 || d == .bf16 || narrow
      | .bf16 => d == .fp32 || narrow
      | .int32 | .e8m0 | .slice => false
      | _ => wide)

/-- R246: the spaces of an opcode's source and destination. -/
def aeSpaces (op : Nat) : List Nat × List Nat :=
  match op with
  | 0x20 | 0x28 => ([0], [0, 1])
  | 0x21 | 0x25 | 0x2A => ([1], [0])
  | 0x22 => ([0, 1], [])
  | 0x23 => ([], [0, 1])
  | 0x24 | 0x2B => ([0], [1])
  | 0x2E => ([], [1])
  | _ => ([0], [0])

/-- R246: the least and greatest SUBOP of an opcode, and whether it takes an index tensor. -/
def aeSubops (op : Nat) : Nat × Nat × Bool :=
  match op with
  | 0x22 => (0, 7, false)
  | 0x23 => (8, 15, false)
  | 0x25 => (0, 5, true)
  | 0x24 | 0x29 => (0, 0, true)
  | _ => (0, 0, false)

/-- R250: the views of a LOAD, STORE or hoist pair their elements. -/
def aeViewsBad (op : Nat) (s d : View) (split : Bool) : Bool :=
  (op == 0x20 || op == 0x21 || op == 0x28) && (if split then s.plan ++ [7] != d.plan else s.plan != d.plan)

/-- The buffer of the image in which a range of memory lies. -/
def State.bufferHolding (m : State) (r : Nat × Nat) : List Word :=
  (m.bufferList.find? (fun w => inOneBuffer [w] r)).getD []

/-- R439: is a view one of a parameter shard, whose source carries a version tag. -/
def State.tagged (m : State) (v : View) : Bool :=
  m.shards.any (fun e => !isGradient e.2 && bufId (m.bufferHolding v.footprint) == wfld e.2 1 63 48)

/-- R278: a deep furl outside a deep-furl window of its context, or whose window is smaller than its region. -/
def State.deepBad (m : State) (host region : View) (runners : List Nat) : Bool :=
  let h := m.bufferHolding host.footprint
  let r := m.bufferHolding region.footprint
  h == [] || bufKind h != 10 || bufKind r != 1 || bufSize h < bufSize r || runners.any (fun c => wfld h 0 43 40 != c)

/-- R280: is memory written that the module exports. -/
def State.exportedWrite (m : State) (p : Nat) (i : ProgItem) : Bool :=
  (m.writesOf p i).any (fun d => (m.view p d).space == 0 && bitAt (wd (m.bufferHolding (m.view p d).footprint) 0) 27)

/-- R267, R273: the identifiers that a HOIST or HOIST_EXPERT defines: first and number. -/
def State.hoistIds (m : State) (p : Nat) (ws : List Word) : Nat × Nat :=
  if aOp ws = 0x29 then (aHoist ws, (m.view p (aIdx ws)).count) else (aHoist ws, 1)

/-- R267: the hoists of a plan. -/
def State.planHoists (m : State) (p : Nat) : List ProgItem := (m.allItems p).filter (fun i => i.op == 0x28 || i.op == 0x29)

/-- Does a hoist define an identifier. -/
def State.defines (m : State) (p : Nat) (h : ProgItem) (id : Nat) : Bool :=
  let x := m.hoistIds p h.words
  x.1 ≤ id && id < x.1 + x.2

/-- R267: a HOIST whose identifier another one defines, whose source with its scales spans pages or stacks, or comes from a
host window unchecked. -/
def State.hoistBad (m : State) (p : Nat) (i : ProgItem) : Bool :=
  let v := m.view p (aSrc i.words)
  let f := ((v.ranges.map (fun r => r.1)).foldl min v.footprint.1, (v.ranges.map (fun r => r.2)).foldl max v.footprint.2)
  let b := m.bufferHolding v.footprint
  let part := if wfld b 0 39 36 = 8 then bufSize b / 8 else bufSize b
  let unit := fun (a : Nat) => (a - bufVa b) % max 1 (bufPitch b) / max 1 part
  let x := m.hoistIds p i.words
  (m.planHoists p).any (fun h => (h.core, h.num) != (i.core, i.num) && rangesMeet (m.hoistIds p h.words) x) || x.1 == 0 ||
    (i.op == 0x28 && (f.1 / bufPage b != (f.2 - 1) / bufPage b || unit f.1 != unit (f.2 - 1) ||
      ((bufKind b == 7 || bufKind b == 10) && !aVchk i.words)))

/-- R267: the hoists that a confirming LOAD may name: those of its identifier, on its core before it. -/
def State.hoistsFor (m : State) (p : Nat) (i : ProgItem) : List ProgItem :=
  (m.planHoists p).filter (fun h => m.defines p h (aHoist i.words) && (h.core != i.core || h.num < i.num))

/-- R267: a LOAD that confirms without an earlier hoist of its identifier. -/
def State.confirmBad (m : State) (p : Nat) (i : ProgItem) : Bool :=
  aHoist i.words != 0 && (m.hoistsFor p i).isEmpty

/-- R249, R250, R260, R267, R278, R280: an access-engine descriptor. -/
def aeBad (m : State) (p : Nat) (i : ProgItem) : Bool :=
  let ws := i.words
  let op := i.op
  let cs := m.section 2 0
  let runners := m.runners p i.core
  let filler := runners.any (fun c => entryClass cs c == 3)
  let descs := wfld (m.planSec p) 0 63 48
  let sub := aeSubops op
  let spaces := aeSpaces op
  let src := m.view p (aSrc ws)
  let dst := m.view p (aDst ws)
  runners.any (fun c => !((wfld cs (16 * c + 3) 15 8).testBit (aQueue ws))) ||
    aSubop ws < sub.1 || sub.2.1 < aSubop ws || (if sub.2.2 then decide (descs ≤ aIdx ws) else aIdx ws != 0xFFFF) ||
    !aePairOk op (aSfmt ws) (aDfmt ws) || (wfld ws 3 31 27 != 0 && wfld ws 3 31 27 < 8) || wfld ws 3 31 27 == 31 ||
    (aVchk ws && !m.tagged src) || (op != 0x23 && descs ≤ aSrc ws) || (op != 0x22 && descs ≤ aDst ws) ||
    (spaces.1 != [] && !spaces.1.contains src.space) || (spaces.2 != [] && !spaces.2.contains dst.space) ||
    aeViewsBad op src dst (aSfmt ws == .fp64 && aDfmt ws == .slice) ||
    (op == 0x25 && (aSfmt ws != .int32 || aDfmt ws != .int32)) || aRecord ws % 32 != 0 ||
    ((op == 0x28 || op == 0x29) && m.hoistBad p i) || (op == 0x20 && m.confirmBad p i) ||
    (op == 0x2C && (filler || m.deepBad dst src runners)) || (op == 0x2D && (filler || m.deepBad src dst runners)) ||
    (op == 0x2E && filler) || m.exportedWrite p i

/-! ## Check 15: layout operations, routines, page operations (R143, R197, R296, R297) -/

/-- R296: the shape requirement of a PERM. -/
def permBad (ws : List Word) (s d : View) : Bool :=
  let a := lDimA ws
  let b := lDimB ws
  let n := s.plan.getD a 0
  match lPerm ws with
  | 0 => s.ndim ≤ a || s.ndim ≤ b || (s.plan.set a (s.plan.getD b 0)).set b n != d.plan
  | 1 => s.plan != d.plan || s.ndim ≤ a || !((List.range 24).any (fun k => n == 2 ^ (k + 1)))
  | 2 => s.plan != d.plan || s.ndim ≤ a || lFactor ws == 0 || n % lFactor ws != 0
  | _ => s.plan != d.plan

/-- R297: a layout operation. -/
def layoutBad (m : State) (p : Nat) (ws : List Word) : Bool :=
  let s := m.view p (wfld ws 1 63 48)
  let d := m.view p (wfld ws 1 47 32)
  let descs := wfld (m.planSec p) 0 63 48
  let len := fun (v : View) => (v.footprint.1, v.footprint.2 - v.footprint.1)
  descs ≤ wfld ws 1 63 48 || descs ≤ wfld ws 1 47 32 || s.space != 1 || d.space != 1 || s.fmt != lFmt ws ||
    d.fmt != lFmt ws || (lFmt ws).isMx || permBad ws s d || rangesMeet (len s) (len d) ||
    (lPerm ws != 0 && lDimB ws != 0) || (lPerm ws != 2 && lFactor ws != 0)

/-- R143, R325: a small-matrix routine; one of a filler has order 16 at most. -/
def routineBad (m : State) (p : Nat) (i : ProgItem) : Bool :=
  let ws := i.words
  let cs := m.section 2 0
  !(Desc.smallOk ⟨0, 0, ws⟩ (wfld ws 0 50 48)) ||
    i.touches.any (fun d => wfld (m.planSec p) 0 63 48 ≤ d) ||
    (16 < wfld ws 0 47 41 && (m.runners p i.core).any (fun c => entryClass cs c == 3))

/-- Check 15 of one item; `k` is its number among the matrix passes of its core. -/
def check15Item (m : State) (p : Nat) (i : ProgItem) : ItemFails :=
  let op := i.op
  itemFail (
    if badOpcode op ∨ op < 0x20 then false
    else if op < 0x2F then i.each.any (aeBad m p)
    else if op = 0x30 then i.each.any (fun x => layoutBad m p x.words)
    else if op = 0x40 then passBad m p i ((m.planItems p i.core).filter (fun x => x.op == 0x40 && x.num < i.num)).length
    else if op = 0x48 then routineBad m p i
    else if op = 0x50 then !(Desc.pageOk ⟨0, 0, i.words⟩ (wfld i.words 0 55 54))
    else if op < 0xE0 then veBad m p i
    else false) 15 codeResource

/-- R153, R164: the tables of the plans and of the SFE section, and the pivot threshold. -/
def check15Tables (es : List DirEntry) : List Fail :=
  let s := pickedSec es 0x20 0
  let v := layout64.decode (wd s.words 1).toNat
  (es.filter (fun e => e.type == 0x10)).flatMap (fun e => (List.range (wfld e.words 0 30 23)).flatMap (fun k =>
    failIf (tableBad e.words (offWord e 3 + 8 * k)) (15, codeResource, e.index, k))) ++
  failIf (v.isNan || (v.sign && !v.isZero)) (15, codeResource, s.index, 8) ++
  (List.range (wfld s.words 2 63 48)).flatMap (fun k =>
    failIf (tableBad s.words (7 + 8 * k)) (15, codeResource, s.index, k))

/-! ## Check 16: programs (R347, R352–R354) -/

/-- The counter that an item names. -/
def itemCounter (ws : List Word) : Option Nat :=
  let op := wfld ws 0 63 56
  if op < 0x20 then none
  else if op < 0x2F then some (aCnt ws)
  else match op with
    | 0x30 => some (lCnt ws)
    | 0x40 => some (pCnt ws)
    | 0x48 => some (wfld ws 3 63 48)
    | 0x50 => some (pCntId ws)
    | 0xE0 | 0xE1 => some (wfld ws 0 55 40)
    | _ => none

/-- R347: does a counter lie outside the range of a context. -/
def counterBad (cs : List Word) (c k : Nat) : Bool :=
  k < wfld cs (16 * c + 4) 63 48 || wfld cs (16 * c + 4) 63 48 + wfld cs (16 * c + 4) 47 32 ≤ k

/-- R352–R354: one item: a class that is none, a word cut short, a malformed LOOP, too many loops, an ENDLOOP without its
LOOP, an index past the table, a counter of another context. -/
def check16Item (m : State) (p : Nat) (i : ProgItem) : ItemFails :=
  let cs := m.section 2 0
  let descs := wfld (m.planSec p) 0 63 48
  itemFail (i.op < 0x20 || 0xE5 < i.op || i.words.length != itemSize (wd i.words 0) ||
    (i.op == 0xE2 && (wfld i.words 0 55 54 == 3 || 4 ≤ i.loops.length)) || (i.op == 0xE3 && i.loops == []) ||
    (m.touchesOf p i).any (fun d => descs ≤ d && d != 0xFFFF) ||
    (itemCounter i.words).any (fun k => (m.runners p i.core).any (fun c => counterBad cs c k))) 16 codeResource

/-- R352: a program of a core: a context runs it, it ends with PHASE_END and every loop is closed. -/
def progBad (m : State) (p n : Nat) : Bool :=
  let is := m.planItems p n
  !is.isEmpty && (m.runners p n == [] || (is.getLast?.map (fun i => i.op != 0xE4 || i.loops != [])).getD true)

/-- R347: the counters that a tackle operation names. -/
def check16Ops (es : List DirEntry) (m : State) : List Fail :=
  let e := pickedSec es 0x12 0
  let cs := m.section 2 0
  (List.range (wfld e.words 0 63 48)).flatMap (fun k =>
    let l := m.tackleList k
    (List.range (wfld l 0 31 16)).flatMap (fun j =>
      let w := m.tackleOp (wfld l 0 47 32 + j)
      failIf (counterBad cs (wfld l 0 11 8) (oTrig w) || counterBad cs (wfld l 0 11 8) (oDone w))
        (16, codeResource, e.index, wfld l 0 47 32 + j)))

def check16 (es : List DirEntry) (m : State) : List Fail :=
  (es.filter (fun e => e.type == 0x10)).flatMap (fun e => (List.range 128).flatMap (fun n =>
    failIf (progBad m e.inst n) (16, codeResource, e.index, progOffset e.words n))) ++
  itemFails es m (check16Item m) ++ check16Ops es m

end Sys2Proof.Machine
end

