-- ==== Sys2Proof/Machine/GraphChecks.lean ====
section
/-! DEFINITION. The rig loader's checks of an image as a whole: ordering, thresholds, phases, tacks and tackle lists, tables,
windows, policy, the manifest and DATA (checks 17 to 22 of R364). -/
namespace Sys2Proof.Machine

/-! ## The descriptor graph (R347, R352, R353) -/

/-- A range of data: its space (a context's memory or a core's store), whether a core's load of it goes through the core
cache, [lo, hi), and whether it lies in a buffer that a host may write (EXPORTED). -/
structure Datum where
  space  : Nat
  cached : Bool
  lo     : Nat
  hi     : Nat
  host   : Bool := false

def Datum.meets (a b : Datum) : Bool := a.space == b.space && a.lo < b.hi && b.lo < a.hi

/-- A node of a plan's graph: an item of a core, or an operation of a tackle list as a program of its own; `amount` is what it adds
to its counter in one run of the plan. -/
structure GNode where
  sect   : Nat
  item   : Nat
  core   : Nat
  num    : Nat
  engine : Nat
  waits  : Option Nat := none
  acq    : Bool := false
  incs   : Option Nat := none
  amount : Nat := 1
  signal : Bool := false
  atomic : Bool := false
  reads  : List Datum := []
  writes : List Datum := []

/-- The engine of an item: the access engine, the layout engine, the matrix engines, the vector engine, the walker. -/
def engineOf (op : Nat) : Nat :=
  if op < 0x2F then 1 else if op = 0x30 then 2 else if op = 0x40 then 3 else if op = 0x48 then 4 else if op = 0x50 then 5 else 0

/-- The data of a view that an item of core `n` in context `c` names. -/
def State.dataOf (m : State) (n c p d : Nat) : List Datum :=
  let v := m.view p d
  let b := m.bufferHolding v.footprint
  let memory := v.space == 0
  let stack := memory && bufKind b != 7 && bufKind b != 10
  v.ranges.map (fun r => ⟨if memory then 1000 + c else n, stack && wfld b 0 33 32 == 0, r.1, r.2, stack && bitAt (wd b 0) 27⟩)

/-- R196, R198, R199: the window pages that a page operation maps or releases; a SHARE changes its source's entries too. -/
def State.pageData (m : State) (c : Nat) (ws : List Word) : List Datum :=
  let run := fun (w p : Nat) => let lo := m.windowVa c w p; ({ space := 1000 + c, cached := false, lo := lo, hi := lo + wfld ws 3 63 44 * 65536 } : Datum)
  run (wfld ws 1 63 48) (wfld ws 2 63 44) :: (if wfld ws 0 55 54 = 1 then [run (wfld ws 1 47 32) (wfld ws 2 43 24)] else [])

def State.itemNode (m : State) (sect p : Nat) (i : ProgItem) : GNode :=
  let c := (m.runners p i.core).headD 0
  let op := i.op
  let k := itemCounter i.words
  { sect := sect, item := i.off, core := i.core, num := i.num, engine := engineOf op
    waits := if op = 0xE0 then k else none, acq := op == 0xE0 && bitAt (wd i.words 0) 39
    incs := if op = 0xE0 then none else k
    amount := (i.loops.map (fun l => l.1)).foldl (· * ·) (if op = 0xE1 then (wd i.words 1).toNat else 1), signal := op == 0xE1, atomic := op == 0x25
    reads := (m.readsOf p i).flatMap (m.dataOf i.core c p)
    writes := if op = 0x50 then m.pageData c i.words else (m.writesOf p i).flatMap (m.dataOf i.core c p) }

/-- The operations of the lists of plan `p`: the wait for the trigger, then the operation. -/
def State.opNodes (m : State) (sect p : Nat) : List GNode :=
  (m.listOps.filter (fun x => wfld (m.tackleList x.1) 0 15 12 == p)).flatMap (fun x =>
    let o := x.2.1
    let c := x.2.2.1
    let w := x.2.2.2
    let core := ((List.range 128).find? (fun n => (entryCores (m.section 2 0) c).testBit n)).getD 0
    let plans := m.listPlans x.1
    [{ sect := sect, item := o, core := 2000 + o, num := 0, engine := 6, waits := some (oTrig w) },
     { sect := sect, item := o, core := 2000 + o, num := 1, engine := 6, incs := some (oDone w)
       reads := (m.opSources w).flatMap (m.dataOf core c plans.1)
       writes := (m.opTargets w).flatMap (m.dataOf core c plans.2) }])

def State.graph (m : State) (es : List DirEntry) (p : Nat) : List GNode :=
  (m.allItems p).map (m.itemNode (pickedSec es 0x10 p).index p) ++ m.opNodes (pickedSec es 0x12 0).index p

/-- The counters that rise once node `a` has retired: its own, and those of the SIGNALs behind it. -/
def risesFrom (g : List GNode) (a : GNode) : List Nat :=
  a.incs.toList ++ (g.filter (fun x => x.signal && x.core == a.core && a.num < x.num)).filterMap GNode.incs

/-- The waits on counters of a set. -/
def waitsIn (g : List GNode) (cs : List Nat) : List GNode := g.filter (fun w => w.waits.any (fun k => cs.contains k))

/-- The counters that rise behind the waits on counters of a set, with the set. -/
def moreRises (g : List GNode) (cs : List Nat) : List Nat :=
  let ws := waitsIn g cs
  (cs ++ (g.filter (fun x => ws.any (fun w => w.core == x.core && w.num < x.num))).filterMap GNode.incs).eraseDups

def allRises (g : List GNode) : Nat → List Nat → List Nat
  | 0, cs => cs
  | k + 1, cs => allRises g k (moreRises g cs)

/-- R353: does a chain of increments and WAITs lead from `a`'s retire to `b`'s issue; the first WAIT of the chain on `b`'s
core. -/
def leadsTo (g : List GNode) (a b : GNode) : Option Nat :=
  (((waitsIn g (allRises g g.length (risesFrom g a))).filter (fun w => w.core == b.core && w.num < b.num)).map
    GNode.num).min?

/-- R227: is there an ACQUIRE on `b`'s core before it. -/
def acquiredBefore (g : List GNode) (b : GNode) : Bool := g.any (fun w => w.acq && w.core == b.core && w.num < b.num)

/-- R227: the reads of a node that the core cache may serve. -/
def cachedReads (b : GNode) : List Datum := if b.engine = 1 then b.reads.filter Datum.cached else []

/-- Does node `a` come before node `b`: in its core's program, or by a chain of increments and WAITs. -/
def comesBefore (g : List GNode) (a b : GNode) : Bool := (a.core == b.core && a.num < b.num) || (leadsTo g a b).isSome

/-- R267: is a hoist's destination touched by any descriptor between the HOIST and its confirming LOAD `i`: one that neither
comes before the HOIST nor after the LOAD. -/
def State.confirmTouched (m : State) (p : Nat) (g : List GNode) (i : ProgItem) : Bool :=
  let node := m.itemNode 0 p
  i.op == 0x20 && aHoist i.words != 0 && (m.hoistsFor p i).any (fun h =>
    let c := (m.runners p h.core).headD 0
    let dst := h.each.flatMap (fun x => m.dataOf h.core c p (aDst x.words + (aHoist i.words - aHoist h.words)))
    g.any (fun x => (x.core, x.num) != (h.core, h.num) && (x.core, x.num) != (i.core, i.num) &&
      (x.reads ++ x.writes).any (fun d => dst.any d.meets) && !comesBefore g x (node h) && !comesBefore g (node i) x))

def check15Confirms (es : List DirEntry) (m : State) : List Fail :=
  (es.filter (fun e => e.type == 0x10)).flatMap (fun e =>
    let g := m.graph es e.inst
    (m.allItems e.inst).flatMap (fun i => failIf (m.confirmTouched e.inst g i) (15, codeResource, e.index, i.off)))

/-- Check 17: does node `b` touch data that another engine's node writes, with no dependency; or read it through its core
cache with no ACQUIRE since; or read so what a host may write with no ACQUIRE before it. -/
def unordered (g : List GNode) (b : GNode) : Bool :=
  ((cachedReads b).any Datum.host && !(acquiredBefore g b)) ||
  g.any (fun a =>
    let hit := fun (l : List Datum) => a.writes.any (fun x => l.any x.meets)
    (a.core != b.core || a.engine != b.engine || (a.atomic && a.num != b.num)) &&
    ((hit (b.reads ++ b.writes) && (leadsTo g a b).isNone && (leadsTo g b a).isNone) ||
     (a.core != b.core && hit (cachedReads b) &&
      (leadsTo g a b).any (fun k => !g.any (fun w => w.acq && w.core == b.core && k ≤ w.num && w.num < b.num)))))

/-- The phases after `qa` and before `qb` of `n`, on through the step boundary. -/
def phasesBetween (n qa qb : Nat) : List Nat :=
  if qa < qb then (List.range (qb - qa - 1)).map (fun i => qa + 1 + i)
  else (List.range (n - qa - 1)).map (fun i => qa + 1 + i) ++ List.range qb

/-- R227: of the phases' graphs, does node `b` of phase `qb` read through its core cache what another core or a collective wrote
in an earlier phase, or in the step before, with no ACQUIRE on its core since. -/
def staleRead (gs : List (List GNode)) (qb : Nat) (b : GNode) : Bool :=
  let gb := gs.getD qb []
  cachedReads b |>.any (fun x =>
    !(acquiredBefore gb b) && gs.zipIdx.any (fun g => g.1.any (fun a =>
      a.core != b.core && a.writes.any x.meets &&
      !((phasesBetween gs.length g.2 qb).any (fun q => (gs.getD q []).any (fun w => w.acq && w.core == b.core))) &&
      !(g.1.any (fun w => w.acq && w.core == b.core &&
        (leadsTo g.1 a { w with num := w.num + 1 }).any (fun k => decide (k ≤ w.num)))))))

/-- R227, R347: check 17 across the phases of a step. -/
def check17Phases (es : List DirEntry) (m : State) : List Fail :=
  let gs := (List.range (min m.phases 32)).map (fun q => m.graph es (m.phasePlan q))
  gs.zipIdx.flatMap (fun g => g.1.flatMap (fun b => failIf (staleRead gs g.2 b) (17, codeResource, b.sect, b.item)))

/-- R424: a STORE of a shard's header that does not follow every STORE of its data. -/
def State.headerEarly (m : State) (p : Nat) (g : List GNode) (i : ProgItem) : Bool :=
  let bases := fun (x : ProgItem) => x.each.map (fun y => (m.view p (aDst y.words)).base)
  let into := fun (x : ProgItem) (e : List Word) => x.op == 0x21 && (m.buffer (wfld e 1 63 48)).any (fun b =>
    (bases x).any (fun a => bufVa b ≤ a && a < bufVa b + bufSize b))
  let head := fun (x : ProgItem) => m.shards.any (fun e => isGradient e.2 && (m.buffer (wfld e.2 1 63 48)).any (fun b =>
    (bases x).contains (bufVa b)))
  let node := fun (x : ProgItem) => m.itemNode 0 p x
  i.op == 0x21 && head i && m.shards.any (fun e => isGradient e.2 && into i e.2 && (m.allItems p).any (fun x =>
    into x e.2 && !head x && (leadsTo g (node x) (node i)).isNone))

def check17 (es : List DirEntry) (m : State) : List Fail :=
  (es.filter (fun e => e.type == 0x10)).flatMap (fun e =>
    let g := m.graph es e.inst
    g.flatMap (fun b => failIf (unordered g b) (17, codeResource, b.sect, b.item)) ++
    (m.allItems e.inst).flatMap (fun i => failIf (m.headerEarly e.inst g i) (17, codeResource, e.index, i.off))) ++ check17Phases es m

/-! ## Check 18: thresholds (R347, R354) -/

/-- How often an item runs at planned counts. -/
def ProgItem.times (i : ProgItem) : Nat := (i.loops.map (fun l => l.1)).foldl (· * ·) 1

/-- What one pass of plan `p`'s programs adds to a counter. -/
def State.planRises (m : State) (p k : Nat) : Nat :=
  ((m.allItems p).map (fun i =>
    if i.op = 0xE0 ∨ itemCounter i.words ≠ some k then 0
    else i.times * (if i.op = 0xE1 then (wd i.words 1).toNat else 1))).foldl (· + ·) 0

/-- R388: what the operations of a list add to a counter. -/
def State.listRises (m : State) (l k : Nat) : Nat :=
  let w := m.tackleList l
  ((List.range (wfld w 0 31 16)).filter (fun j => oDone (m.tackleOp (wfld w 0 47 32 + j)) == k)).length

/-- The lists that phase `q` arms: its tack's, and those of its plan that no tack names. -/
def State.phaseLists (m : State) (q : Nat) : List Nat :=
  let tacks := (List.range (wfld (m.section 0x11 0) 0 63 56)).map (fun t => wfld ((m.section 0x11 0).drop (4 + 4 * t)) 0 55 40)
  (List.range (wfld m.tackleSec 0 63 48)).filter (fun l =>
    (wfld (m.tackleList l) 0 15 12 == m.phasePlan q && !tacks.contains l) ||
    (m.phaseTack q != 0xFF && tacks.getD (m.phaseTack q) 0xFFFF == l))

/-- Every increment that a step makes to a counter. -/
def State.stepRises (m : State) (k : Nat) : Nat :=
  ((List.range m.phases).map (fun q => m.planRises (m.phasePlan q) k +
    ((m.phaseLists q).map (fun l => m.listRises l k)).foldl (· + ·) 0)).foldl (· + ·) 0

/-- R354: the greatest effective threshold of a WAIT. -/
def ProgItem.threshold (i : ProgItem) : Nat :=
  (wd i.words 1).toNat + (i.loops.map (fun l => (l.1 - 1) * l.2.2)).foldl (· + ·) 0

def check18Item (m : State) (p : Nat) (i : ProgItem) : ItemFails :=
  itemFail (i.op == 0xE0 && m.inPhases p && m.stepRises (wfld i.words 0 55 40) < i.threshold) 18 codeResource

/-! ## Check 19: phases, tacks, tackle lists (R356, R357, R387–R397, R407) -/

/-- R356: phases, the first accumulation count, and a phase entry. -/
def check19Job (es : List DirEntry) (m : State) : List Fail :=
  let e := pickedSec es 0x06 0
  let plans := (es.filter (fun e => e.type == 0x10)).length
  let tacks := wfld (m.section 0x11 0) 0 63 56
  failIf (m.phases == 0 || 32 < m.phases || wfld e.words 2 63 48 == 0) (19, codeResource, e.index, 16) ++
  (List.range (min m.phases 32)).flatMap (fun q =>
    let t := m.phaseTack q
    let w := (m.section 0x11 0).drop (4 + 4 * t)
    failIf (plans ≤ m.phasePlan q || (t != 0xFF && (tacks ≤ t || q == 0 || m.phasePlan (q - 1) != wfld w 0 63 60 ||
      m.phasePlan q != wfld w 0 59 56))) (19, codeResource, e.index, 32 + 2 * q))

/-- R357: the source and destination descriptors of a tack's pairs. -/
def tackPairs (sec : List Word) (t : Nat) : List (Nat × Nat) :=
  let w := sec.drop (4 + 4 * t)
  (List.range (wfld w 0 39 24)).map (fun i =>
    let x := wd sec ((wd w 1).toNat / 8 + i)
    (fld x 63 48, fld x 47 32))

/-- R389: this module's row and column of a table of planned counts. -/
def State.tableRow (m : State) (w : List Word) : Nat × Nat :=
  let p := m.setSize (oSet w)
  let r := m.myRank (oSet w)
  let sum := fun (f : Nat → Nat) => ((List.range p).map (fun j => m.tableVal w (f j))).foldl (· + ·) 0
  (sum (fun j => r * p + j), sum (fun i => i * p + r))

/-- R357: a tack whose plans do not exist, whose list does not move its pairs in one format, or whose table does not
count them. -/
def State.tackBad (m : State) (plans t : Nat) : Bool :=
  let sec := m.section 0x11 0
  let w := sec.drop (4 + 4 * t)
  let from_ := wfld w 0 63 60
  let into := wfld w 0 59 56
  let l := m.tackleList (wfld w 0 55 40)
  let ops := (List.range (wfld l 0 31 16)).map (fun k => m.tackleOp (wfld l 0 47 32 + k))
  let ps := tackPairs sec t
  let total := fun (f : Nat × Nat → Nat) => (ps.map f).foldl (· + ·) 0
  plans ≤ from_ || plans ≤ into || wfld m.tackleSec 0 63 48 ≤ wfld w 0 55 40 || ps.isEmpty ||
    ps.any (fun x => (m.view from_ x.1).fmt != (m.view into x.2).fmt ||
      !ops.any (fun o => oSrc o == x.1 && oDst o == x.2)) ||
    (let ts := ops.filter (fun o => m.tableKind o == 2)
     !ts.isEmpty && (
       (ts.map (fun o => (m.tableRow o).1)).foldl (· + ·) 0 != total (fun x => (m.view from_ x.1).count) ||
       (ts.map (fun o => (m.tableRow o).2)).foldl (· + ·) 0 != total (fun x => (m.view into x.2).count)))

/-- R394–R396: the formats and operators of an operation. -/
def opFormatBad (w : List Word) : Bool :=
  let opc := oOpc w
  let f := oFmt w
  let g := oOfmt w
  let fp := fun (x : Fmt) => x == .fp32 || x == .bf16
  if opc = 0x01 then oRedop w != 0 || wfld w 0 55 46 != 0
  else if opc = 0x02 then 6 < oRedop w || f != .fp64 || g != .fp64
  else if reduces opc then
    (match oRedop w with
     | 0 => !fp f || !fp g
     | 6 => !fp f || f != g
     | r => 6 < r || f != .int32 || g != .int32)
  else !([0x12, 0x13, 0x15, 0x16, 0x17, 0x20, 0x21].contains opc) || oRedop w != 0 || f != g

/-- R394, R395: the planned counts of an operation against its views: equal shares, or its table's. -/
def State.opCountsBad (m : State) (from_ into : Nat) (w : List Word) : Bool :=
  let n := m.setSize (oSet w)
  let r := m.myRank (oSet w)
  let src := m.view from_ (oSrc w)
  let dst := m.view into (oDst w)
  let s := src.count
  let d := dst.count
  let k := m.tableKind w
  let all := ((List.range n).map (m.tableVal w)).foldl (· + ·) 0
  let share := fun (whole part : Nat) => if k = 0 then whole != n * part else k != 1 || whole != all || part != m.tableVal w r
  match oOpc w with
  | 0x01 => false
  | 0x02 => src.ndim != 1 || dst.ndim != 1 || src.space != 1 || dst.space != 1 || s != d || s == 0 || 8 < s ||
      src.fmt != .fp64 || dst.fmt != .fp64
  | 0x10 => s != d
  | 0x11 => share s d
  | 0x12 => share d s
  | 0x13 => oRoot w == r && s != d
  | 0x14 => oRoot w == r && s != d
  | 0x15 => if k = 0 then s != d || s % max 1 n != 0 else k != 2 || m.tableRow w != (s, d)
  | _ => false

/-- R407: in spill mode every token of an expert has a row. -/
def State.spillBad (m : State) (w : List Word) : Bool :=
  let n := m.setSize (oSet w)
  let e := m.experts w
  let tokens := ((List.range n).map (fun j => m.tableVal w (4 * e + j))).foldl (· + ·) 0
  oOpc w == 0x16 && !oDrop w && (List.range e).any (fun x => m.tableVal w (4 * x + 3) < tokens - m.tableVal w (4 * x + 2))

/-- R387–R396, R402, R407: an operation with the plans of its sources and destinations; its STAGE is a buffer in stack memory. -/
def State.opBad (m : State) (plans : Nat × Nat) (w : List Word) : Bool :=
  let n := m.setSize (oSet w)
  let o := m.tableAt (oTable w)
  let pair := oOpc w == 0x20 || oOpc w == 0x21
  opFormatBad w || m.opCountsBad plans.1 plans.2 w || m.spillBad w || wfld m.tackleSec 0 31 16 ≤ oSet w || n ≤ oRoot w ||
    (oTable w != 0xFFFF && (wfld m.tackleSec 0 15 0 ≤ oTable w || wfld m.tackleSec o 31 0 != n ||
      !(headerAt m.tackleSec o))) || (oOpc w != 0x01 && (badFmt (wfld w 0 55 51) || badFmt (wfld w 0 50 46))) ||
    (wfld w 3 63 48 != 0xFFFF && !((m.buffer (wfld w 3 63 48)).any (fun b => isMapped b && bufKind b != 7 && bufKind b != 10))) || (pair && (m.setDims (oSet w)).length != 1) ||
    ((oOpc w == 0x16 || oOpc w == 0x17) && m.tableKind w != 3) ||
    (oSpill w != 0xFFFF && !((m.buffer (oSpill w)).any (fun b => bufKind b == 6)))

def check19 (es : List DirEntry) (m : State) : List Fail :=
  let plans := (es.filter (fun e => e.type == 0x10)).length
  let t := pickedSec es 0x11 0
  let k := pickedSec es 0x12 0
  let cs := m.section 2 0
  let lists := wfld k.words 0 63 48
  check19Job es m ++
  failIf (32 < wfld t.words 0 63 56) (19, codeResource, t.index, 0) ++
  (List.range (wfld t.words 0 63 56)).flatMap (fun i => failIf (m.tackBad plans i) (19, codeResource, t.index, i)) ++
  failIf (k.index != inHeader && (lists == 0 || 1024 < lists)) (19, codeResource, k.index, 0) ++
  failIf (k.index != inHeader && (List.range 4).any (fun d => 16 < m.torus d || m.torus d == 0)) (19, codeResource, k.index, 8) ++
  (List.range lists).flatMap (fun i =>
    let l := m.tackleList i
    failIf (plans ≤ wfld l 0 15 12 || entryClass cs (wfld l 0 11 8) == 0 || wfld k.words 0 47 32 < wfld l 0 47 32 + wfld l 0 31 16)
      (19, codeResource, k.index, i) ++
    (List.range (wfld l 0 31 16)).flatMap (fun j =>
      failIf (m.opBad (m.listPlans i) (m.tackleOp (wfld l 0 47 32 + j))) (19, codeResource, k.index, wfld l 0 47 32 + j)))

/-! ## Check 20: SFE, BUBBLES, FAULT_POLICY, TELLTALES -/

/-- R358: a table entry: its slot belongs to a context on each masked core, its coefficients lie in a buffer. -/
def State.tableEntryBad (m : State) (k : Nat) : Bool :=
  let w := (m.section 0x20 0).drop (4 + 8 * k)
  let cs := m.section 2 0
  (List.range 128).any (fun n => bitAt (wd w (n / 64)) (n % 64) && !(List.range 16).any (fun c =>
    entryClass cs c != 0 && (entryCores cs c).testBit n && (wfld cs (16 * c + 3) 7 4).testBit (wfld w 2 63 62))) ||
  !((m.buffer (wfld w 6 63 48)).any (fun b => isMapped b && (wd w 7).toNat + 16 * 2 ^ wfld w 4 3 0 ≤ bufSize b))

/-- R152, R340, R358: PROFILE 0 needs feature 2, required or behind VARIANT 1. -/
def check20Sfe (f : ImageFile) (es : List DirEntry) (m : State) : List Fail :=
  let e := pickedSec es 0x20 0
  failIf (!bitAt (wd e.words 0) 0 && !(bitAt (wd f.header 4) 2 || (e.variant == 1 && e.feature == 2)))
    (20, codeResource, e.index, 0) ++
  (List.range (wfld e.words 2 63 48)).flatMap (fun k => failIf (m.tableEntryBad k) (20, codeResource, e.index, k))

/-- The registers that a VE or SFE word reads and writes (R135), pairs and the second and third results with them. -/
def veUses (w : Word) : List Nat × List Nat :=
  match veShape (fld w 63 56) with
  | none => ([], [])
  | some h =>
    let both := fun (f r : Nat) => if f = 1 then [r, r + 1] else [r]
    let f := fld w 55 51
    let mx := ((Fmt.ofCode f).map Fmt.isMx).getD false
    let src := (if h.src1 && !h.fifo then both (if h.sfmt then fld w 25 21 else f) (fld w 43 38) else []) ++
      (if h.src2 && h.opc != 0xB5 then both f (fld w 37 32) else []) ++ (if h.src3 && h.opc != 0xB5 then both f (fld w 31 26) else [])
    let dst := if !h.dst then [] else both f (fld w 49 44) ++
      (if h.opc = 0xB6 ∨ (h.opc = 0x8E ∧ mx) then [fld w 49 44 + 1] else []) ++
      (if h.opc = 0xB5 then [fld w 49 44 + 1, fld w 49 44 + 2] else [])
    (src, dst)

/-- R324: registers read before they are written by the words that follow. -/
def liveRegs : List Nat → List Word → Bool
  | _, [] => false
  | done, w :: r => (veUses w).1.any (fun x => !done.contains x) || liveRegs (done ++ (veUses w).2) r

/-- R324: row scales pushed less row scales taken. -/
def scaleLevel (is : List ProgItem) : Int :=
  (is.map (fun i => if i.op = 0xA4 ∨ i.op = 0xB6 then (1 : Int) else if i.op = 0x40 ∧ pRowScale i.words then -1 else 0)).foldl
    (· + ·) 0

/-- R324: banks that a pass before the point fills for a later pass: it preloads what the pass drains, or a split-mantissa
pass is drained by SMCVTs after the point. -/
def bankLive (m : State) (p : Nat) (before after : List ProgItem) : Bool :=
  let passes := fun (l : List ProgItem) => passItems (l.map ProgItem.words)
  (passes after).any (fun q => (passes before).any (fun x => m.continues p q x)) ||
    (match (before.filter (fun i => i.op == 0x40)).getLast? with
     | some x => pSplit x.words && ((after.takeWhile (fun i => i.op != 0x40)).any (fun i => i.op == 0xBF))
     | none => false)

/-- What nodes add to their counters in one run of the plan. -/
def raised (ys : List GNode) : Nat := (ys.map GNode.amount).foldl (· + ·) 0

/-- R324: how many items core `n` has issued at least when node `y` makes its increment. -/
def neededOn (g : List GNode) (n : Nat) (y : GNode) : Nat :=
  if y.core = n then y.num + 1
  else ((g.filter (fun z => z.core == n && (leadsTo g z y).isSome)).map (fun z => z.num + 1)).foldl max 0

/-- R324: may counter `k` reach a threshold at a moment when core `n` has issued `q` items. -/
def mayReach (g : List GNode) (n k thr q : Nat) : Bool :=
  let ys := g.filter (fun y => y.incs == some k)
  thr ≤ raised (ys.filter (fun y => neededOn g n y ≤ q)) &&
  !(g.any (fun z => z.core == n && z.num < q && thr ≤ raised (ys.filter (fun y => (leadsTo g y z).isSome))))

/-- R324: may item `x` still be in progress when counter `k` reaches a threshold: it can be reached without an increment that
waits for the item's retire. -/
def mayRun (g : List GNode) (k thr : Nat) (x : GNode) : Bool :=
  thr ≤ raised (g.filter (fun y => y.incs == some k && (y.core, y.num) != (x.core, x.num) &&
    !(y.signal && y.core == x.core && x.num < y.num) && (leadsTo g x y).isNone))

/-- R324: may the primary hold live engine state on core `n` at the opening point of a window: at some number of issued items
at which the counter may reach its threshold. -/
def State.liveAt (m : State) (p : Nat) (g : List GNode) (n k thr : Nat) : Bool :=
  let is := m.planItems p n
  let ve := fun (l : List ProgItem) => (l.filter (fun i => 0x80 ≤ i.op && i.op < 0xE0)).map (fun i => wd i.words 0)
  (List.range (is.length + 1)).any (fun q => mayReach g n k thr q && (
    let before := is.filter (fun i => i.num < q)
    let after := is.filter (fun i => q ≤ i.num)
    liveRegs [] (ve after) || scaleLevel before != 0 || bankLive m p before after ||
      before.any (fun x => [0x48, 0xB3, 0xB4].contains x.op && g.any (fun y => (y.core, y.num) == (n, x.num) && mayRun g k thr y))))

/-- R320, R325: bytes that a context saves on one core. -/
def saveBytes : Nat := 2 ^ 18

/-- R324, R325, R359: a bubble window: a filler and its primary, cores of both, counters of the primary, no live state,
save sizes within 12 MiB. -/
def State.windowBad (m : State) (es : List DirEntry) (plans k : Nat) : Bool :=
  let w := m.bubble k
  let cs := m.section 2 0
  let f := wfld w 0 59 56
  let prim := wfld cs (16 * f) 37 34
  let mask := (wd w 3).toNat + (wd w 4).toNat * 2 ^ 64
  let plan := wfld w 0 63 60
  let cores := (List.range 128).filter (fun n => mask.testBit n)
  plans ≤ plan || entryClass cs f != 3 || mask.land (entryCores cs prim) != mask || mask.land (entryCores cs f) != mask ||
    counterBad cs prim (wfld w 0 55 40) || counterBad cs prim (wfld w 0 39 24) || 12 * 2 ^ 20 < cores.length * saveBytes ||
    (let g := m.graph es plan
     cores.any (fun n => m.liveAt plan g n (wfld w 0 55 40) (wd w 1).toNat))

/-- R325: the limits of a filler: no tackle list, no travellers, buffers within its quota. -/
def State.fillerBad (m : State) (c : Nat) : Bool :=
  let cs := m.section 2 0
  let own := m.bufferList.filter (fun b => wfld b 0 43 40 == c && isMapped b && bufKind b != 7 && bufKind b != 10)
  entryClass cs c == 3 && (
    (wd cs (16 * c + 5)).toNat < (own.map (fun b => bufSize b * bufCount b)).foldl (· + ·) 0 ||
    m.bufferList.any (fun b => bufKind b == 5 && wfld b 0 43 40 == c) ||
    (List.range (wfld m.tackleSec 0 63 48)).any (fun l => wfld (m.tackleList l) 0 11 8 == c))

def check20Bubbles (es : List DirEntry) (m : State) : List Fail :=
  let e := pickedSec es 0x22 0
  let x := pickedSec es 0x02 0
  let plans := (es.filter (fun e => e.type == 0x10)).length
  let caps := ((List.range 16).map (fun c => wfld x.words (16 * c) 45 38)).foldl (· + ·) 0
  (List.range (e.words.length / 8)).flatMap (fun k => failIf (m.windowBad es plans k) (20, codeResource, e.index, k)) ++
  (List.range 16).flatMap (fun c => failIf (m.fillerBad c) (20, codeResource, x.index, c)) ++
  failIf (64 < caps) (20, codeResource, x.index, 3)

/-- R431, R438, R439: the telltales. -/
def check20Tell (es : List DirEntry) (m : State) : List Fail :=
  let e := pickedSec es 0x21 0
  let w := e.words
  let window := fun (b : Nat) => (m.buffer b).any (fun x => bufKind x == 7)
  let ls := wfld w 1 31 0 != 0
  let attn := wfld w 0 44 34
  let bufs := (List.range (wfld w 1 47 32)).map (fun i =>
    wfld w (offWord e 5 + attn + i / 4) (16 * (i % 4) + 15) (16 * (i % 4)))
  failIf (wfld w 0 63 52 == 0 || 64 < wfld w 0 51 45 || 1024 < attn || m.phases ≤ wfld w 0 33 29) (20, codeResource, e.index, 0) ++
  failIf (!window (wfld w 1 63 48) || 64 < wfld w 1 47 32 || bufs.any (fun b => (m.buffer b).isNone)) (20, codeResource, e.index, 8) ++
  failIf (ls && !((List.range 25).any (fun k => wfld w 2 63 32 == (127 + k) * 2 ^ 23))) (20, codeResource, e.index, 16) ++
  m.shards.flatMap (fun s => failIf (!window (wfld s.2 1 63 48) ||
    -- R423: at most one gradient shard of a parameter group
    (isGradient s.2 && m.shards.any (fun t => t.1 < s.1 && isGradient t.2 && wfld t.2 0 47 40 == wfld s.2 0 47 40))) (20, codeResource, e.index, s.1)) ++
  (es.filter (fun x => x.type == 0x10)).flatMap (fun x => failIf (ls && wfld x.words 0 47 39 == 256) (20, codeResource, x.index, 0)) ++
  ((List.range m.phases).filter (fun q => wfld w 0 33 29 < q)).flatMap (fun q => (m.allItems (m.phasePlan q)).flatMap (fun i =>
    failIf ([0x20, 0x28, 0x29].contains i.op && aVchk i.words && wd i.words 4 == wd m.jobSec 1)
      (20, codeResource, (pickedSec es 0x10 (m.phasePlan q)).index, i.off)))

def check20 (f : ImageFile) (es : List DirEntry) (m : State) : List Fail :=
  let e := pickedSec es 0x23 0
  check20Sfe f es m ++ check20Bubbles es m ++
  failIf (wfld e.words 0 63 60 == 0 || wfld e.words 0 42 27 == 0) (20, codeResource, e.index, 0) ++ check20Tell es m

/-! ## Check 21: the manifest (R361) -/

/-- R254, R255: the fence entries that an item asks for. -/
def State.fenceDemand (m : State) (p : Nat) (i : ProgItem) : Nat :=
  if i.op < 0x20 then 0
  else if i.op < 0x2F then (m.view p (aSrc i.words)).ranges.length * (if [0x21, 0x22, 0x2A].contains i.op ∧
    (m.view p (aSrc i.words)).space = 1 then 1 else 0)
  else if i.op = 0x40 then (m.passRanges i.words).length
  else if i.op = 0x48 then ([(2, 48), (2, 32), (2, 16)].filter (fun f => wfld i.words f.1 (f.2 + 15) f.2 != 0xFFFF)).length
  else if i.op = 0xC9 ∨ i.op = 0x30 then 1 else 0

/-- R361: the bytes that an access-engine descriptor moves: those of its memory or core-store destination, or of its source
where it fills a FIFO. -/
def State.aeBytes (m : State) (p : Nat) (i : ProgItem) : Nat :=
  let v := if i.op = 0x22 then m.view p (aSrc i.words) else m.view p (aDst i.words)
  if i.op < 0x20 ∨ 0x2F ≤ i.op then 0 else i.times * ceilDiv (v.count * v.fmt.width) 8

/-- R361: the figures of plan `p`, as words 0 to 2 of its entry. -/
def State.manifest (m : State) (p : Nat) : List Nat :=
  let is := m.allItems p
  let descs := (is.flatMap (m.touchesOf p)).eraseDups.length
  let hoists := (m.planHoists p).map (fun h => (m.hoistIds p h.words).2)
  let lists := ((List.range (wfld m.tackleSec 0 63 48)).filter (fun l => wfld (m.tackleList l) 0 15 12 == p)).length
  let runs := ((List.range m.phases).filter (fun q => m.phasePlan q == p)).length
  [descs * 2 ^ 48 + (is.flatMap (fun i => i.each.map (m.fenceDemand p))).foldl max 0 * 2 ^ 32 + hoists.foldl (· + ·) 0 % 65536 * 2 ^ 16 + lists,
   ((List.range 128).map (m.progLen p)).foldl (· + ·) 0, runs * ((is.map (m.aeBytes p)).foldl (· + ·) 0)]

def check21 (es : List DirEntry) (m : State) : List Fail :=
  let e := pickedSec es 0x24 0
  let plans := (es.filter (fun e => e.type == 0x10)).length
  failIf (e.words.length != 4 * plans) (21, codeResource, e.index, 0) ++
  (List.range plans).flatMap (fun p =>
    failIf ((List.range 3).map (fun k => (wd e.words (4 * p + k)).toNat) != m.manifest p) (21, codeResource, e.index, p))

/-! ## Check 22: DATA (R362) -/

/-- R362: an entry's bytes lie in the section, behind the list, and in one instance of their buffer or in the partition of a
context on each masked core. -/
def State.dataBad (m : State) (e : DirEntry) (k : Nat) : Bool :=
  let w := (e.words.drop (8 + 8 * k)).take 8
  let cs := m.section 2 0
  let off := (wd w 1).toNat
  let len := (wd w 2).toNat
  let at_ := (wd w 5).toNat
  let mask := (wd w 3).toNat + (wd w 4).toNat * 2 ^ 64
  at_ < 64 + 64 * wfld e.words 0 63 48 || e.length < at_ + len ||
    (if wfld w 0 63 62 = 0 then
      !((m.buffer (wfld w 0 47 32)).any (fun b =>
        let i := off / max 1 (bufPitch b)
        let at_ := off - i * bufPitch b
        (i < bufCount b && at_ + len ≤ bufSize b) ||
          (bufPitch b == bufSize b && off + len ≤ bufCount b * bufSize b)))
    else if wfld w 0 63 62 = 1 then
      (List.range 128).any (fun n => mask.testBit n && !(List.range 16).any (fun c => entryClass cs c != 0 &&
        (entryCores cs c).testBit n && (entryCs cs c).1 * 4096 ≤ off && off + len ≤ ((entryCs cs c).1 + (entryCs cs c).2) * 4096))
    else true)

def check22 (es : List DirEntry) (m : State) : List Fail :=
  (es.filter (fun e => e.type == 0x30)).flatMap (fun e =>
    failIf (wfld e.words 0 63 48 == 0) (22, codeResource, e.index, 0) ++
    (List.range (wfld e.words 0 63 48)).flatMap (fun k => failIf (m.dataBad e k) (22, codeResource, e.index, k)))

/-! ## All of them (R364) -/

/-- R364: the failures that the programs, tables and lists of an image come to. -/
def graphFails (f : ImageFile) : List Fail :=
  let es := imagePicked f
  let m := asResident f es
  itemFails es m check7Item ++ es.flatMap check7Tables ++ check8 f m ++ check10 es ++ check14Use es m ++
    itemFails es m (check15Item m) ++ check15Confirms es m ++ check15Tables es ++ check16 es m ++ check17 es m ++ itemFails es m (check18Item m) ++
    check19 es m ++ check20 f es m ++ check21 es m ++ check22 es m

end Sys2Proof.Machine
end

