-- ==== Sys2Proof/Machine/Time.lean ====
section
/-! DEFINITION. Module time, PTP, the pulse per second, the frequency reference and the firing of a batten (R459,
R519–R524, R530, R531, R537). -/
namespace Sys2Proof.Machine

/-! ## Time bases (R519) -/

/-- A 64-bit word as a signed number. -/
def signed64 (w : Word) : Int := w.toInt

/-- R519: the rate correction within ±200 ppm, in units of 2^-32 ns. -/
def clampRate (r : Int) : Int := max (-858993) (min 858993 r)

/-- R523: module time of PTP time `t`; a time before power-on is past. -/
def State.toModuleTime (s : State) (t : Nat) : Nat := ((t : Int) - signed64 (s.reg (bTime + 0x08))).toNat

/-- R519, R529: TIME_OFFSET steps; a pending batten in PTP time is converted again. -/
def State.stepOffset (s : State) (v : Word) : State :=
  let s := ((s.setReg (bTime + 0x08) v).flag (bTime + 0x38) 1).count (bTime + 0x108) 1
  match s.time.batten with
  | some b =>
    if b.scope = 0 then s
    else
      let at' := s.toModuleTime b.t
      { s with time := { s.time with batten := some { b with at_ := at' } } }.setReg (bTime + 0x28) (BitVec.ofNat 64 at')
  | none => s

/-! ## PTP roles and ports (R520, R530) -/

/-- R344: does the group have no top masthead: the job's top masthead number is its own masthead's. -/
def State.loneGroup (s : State) : Bool := s.topMasthead == s.groupMasthead

/-- R520, R530: is the module the source of its time: a grandmaster of the top domain, or of a group without a top
masthead. -/
def State.timeSource (s : State) : Bool := s.isTop || (s.isMasthead && s.loneGroup)

/-- R530: PTP_STATUS.ROLE. -/
def State.ptpRole (s : State) : Nat := if s.isTop then 2 else if s.isMasthead then 1 else 0

/-- R520: the port a client takes Sync from: the lowest up port of network A, else of network B. -/
def State.syncPort (s : State) : Option Nat := (List.range 8).find? s.portUp

/-- PTP_STATUS.STATE. -/
def State.ptpState (s : State) : Nat := s.rfld (bTime + 0x18) 1 0

/-- R531: the clock is locked; LOCKED is set when it was not. -/
def State.setLocked (s : State) : State :=
  (if s.ptpState = 2 then s else s.flag (bTime + 0x38) 4).setRfld (bTime + 0x18) 1 0 2

/-- A signed 32-bit field. -/
def int32 (x : Int) : Nat := (x % 2 ^ 32).toNat

/-- R519: the servo slews the rate below 1 µs and steps TIME_OFFSET otherwise; the first lock is a step. -/
def State.servo (s : State) (offset rate : Int) : State :=
  if (s.ptpState = 2 ∨ s.ptpState = 3) ∧ offset.natAbs < 1000 then
    { s with time := { s.time with rate := clampRate rate } }
  else s.stepOffset (s.reg (bTime + 0x08) + BitVec.ofInt 64 offset)

/-- PTP_SYNC (R459, R519–R521, R531): a client uses a Sync of its port; others are only timestamped. `offset` is the
measured offset and `rate` the correction that the servo finds. -/
def execPtpSync (port : Fin 8) (offset rate : Int) (s : State) : Res :=
  if s.mode.powered ∧ s.portUp port then
    let s := (s.frameIn port 0).count (bPort port + 0x158) 1
    if !s.timeSource ∧ s.syncPort = some port.val then
      let s := (s.servo offset rate).setLocked
      let s := (s.setRfld (bTime + 0x18) 63 32 (int32 offset)).setRfld (bTime + 0x18) 11 8 port
      let s := s.count (bTime + 0x110) 1
      .next { s with time := { s.time with lastSync := s.time.now } }
    else .next s
  else .next s

/-- R521, R522: holdover. -/
def State.holdover (s : State) : State := (s.setRfld (bTime + 0x18) 1 0 3).flag (bTime + 0x38) 2

/-- SYNC_LOSS_TIMEOUT (R521): a client that had Sync and received none for 1 s enters holdover and keeps its rate. -/
def execSyncLossTimeout (s : State) : Res :=
  .next (if s.mode.powered ∧ !s.timeSource ∧ (s.ptpState = 1 ∨ s.ptpState = 2) ∧
      s.time.lastSync + 10 ^ 9 ≤ s.time.now then s.holdover else s)

/-- PTP_CFG.PPS_IN_EN. -/
def State.ppsEnabled (s : State) : Bool := bitAt (s.reg (bTime + 0x10)) 16

/-- How far a time lies after its nearest second boundary. -/
def pastSecond (t : Int) : Int := (t + 5 * 10 ^ 8) % 10 ^ 9 - 5 * 10 ^ 8

/-- PPS_IN_EDGE (R519, R522): a time source steers its PTP second boundary to the edge: it slews its rate, by an
amount that is free, below 1 µs, and steps otherwise. -/
def execPpsInEdge (timestamp : Word) (s : State) : Res :=
  if s.mode.powered ∧ s.ppsEnabled ∧ s.timeSource then
    let d := pastSecond ((timestamp.toNat : Int) + signed64 (s.reg (bTime + 0x08)))
    let f := s.takeFree
    let s := (f.2.servo (-d) ((f.1 % 1717987 : Nat) - 858993)).setLocked
    let s := s.setRfld (bTime + 0x18) 63 32 (int32 (-d))
    .next { s with time := { s.time with lastPps := s.time.now } }
  else .next s

/-- PPS_LOST_TIMEOUT (R522): no edge for 2 s puts a time source in holdover and sets PPS_LOST. -/
def execPpsLostTimeout (s : State) : Res :=
  .next (if s.mode.powered ∧ s.ppsEnabled ∧ s.timeSource ∧ s.ptpState ≠ 3 ∧ s.time.lastPps + 2 * 10 ^ 9 ≤ s.time.now then
    s.holdover.flag (bTime + 0x38) 3 else s)

/-- PPS_OUT_EDGE (R522): at a PTP second boundary, within 2 ns, PPS_OUT goes high. -/
def execPpsOutEdge (s : State) : Res :=
  .next (if s.mode.powered ∧ s.ptpTime % 10 ^ 9 ≤ 2 then { s with pins := { s.pins with ppsOut := true } } else s)

/-! ## Messages (R459, R520) -/

/-- R448, R449: ports that carry frames. -/
def State.upPorts (s : State) : List Nat := (List.range 8).filter (fun h => bitAt (s.reg (bPort h)) 0 && s.portUp h)

/-- R519: PTP time as seconds and nanoseconds. -/
def State.timestamp (s : State) : List Word :=
  [BitVec.ofInt 64 (s.ptpTime / 10 ^ 9), BitVec.ofInt 64 (s.ptpTime % 10 ^ 9)]

/-- A PTP message leaves a port; an event message takes a timestamp. -/
def State.sendPtp (s : State) (h code domain : Nat) (event : Bool) : State :=
  let s := (s.frameOut h 0).send { kind := .ptp, dest := h, code := code, words := BitVec.ofNat 64 domain :: s.timestamp }
  if event then s.count (bPort h + 0x158) 1 else s

/-- R520: the domains a module is grandmaster in. -/
def State.ptpDomains (s : State) : List Nat :=
  let c := s.reg (bTime + 0x10)
  if s.isTop then [fld c 7 0, fld c 15 8] else if s.isMasthead then [fld c 7 0] else []

/-- PTP_SYNC_TRANSMIT (R520): a grandmaster sends Sync, or Announce, on every enabled port. -/
def execPtpSyncTransmit (announce : Bool) (s : State) : Res :=
  if s.mode.powered then
    .next (s.ptpDomains.foldl (fun t d =>
      t.upPorts.foldl (fun u h => u.sendPtp h (if announce then 0xB else 0) d (!announce)) t) s)
  else .next s

/-- PTP_DELAY_REQUEST (R459): a peer delay request is answered by any port, a delay request by a grandmaster. -/
def execPtpDelayRequest (port : Fin 8) (peer : Bool) (s : State) : Res :=
  if s.mode.powered ∧ s.portUp port then
    let s := (s.frameIn port 0).count (bPort port + 0x158) 1
    if peer then .next (s.sendPtp port 3 (fld (s.reg (bTime + 0x10)) 7 0) true)
    else
      match s.ptpDomains with
      | d :: _ => .next (s.sendPtp port 9 d false)
      | [] => .next s
  else .next s

/-! ## The frequency reference (R537) -/

/-- REF10M_LOCK (R537): with REF10M_EN set the OCXO locks to the reference. -/
def execRef10mLock (s : State) : Res :=
  .next (if s.mode.powered ∧ bitAt (s.reg (bMod + 0x08)) 0 then { s with pins := { s.pins with ref10m := true } } else s)

/-- REF10M_LOST (R537): REF_LOCKED clears and REF_LOST is set; the OCXO keeps its last control value. -/
def execRef10mLost (s : State) : Res :=
  .next (if s.pins.ref10m then { s with pins := { s.pins with ref10m := false } }.flag (bMod + 0x28) 1 else s)

/-! ## The batten fires (R524) -/

/-- R12: does an offset name a 64-bit free-running counter. RIG_REFUSAL and MOD_CNT_BOOTS keep their value through a
module reset and count nothing in time. -/
def isCounter (off : Nat) : Bool :=
  match regSpec off with
  | some r => r.keep == 2 ^ 64 - 1 && off != bRig + 0x08 && off != bMod + 0x100
  | none => false

/-- R524: the shadow of every counter that is not zero. -/
def State.capture (s : State) : List (Nat × Word) :=
  let l := s.regs.filter (fun p => isCounter p.1)
  kset 0 l bTime (BitVec.ofNat 64 s.time.now)

/-- BATTEN_FIRE (R524, R530, R531): at T every counter goes to its shadow. -/
def execBattenFire (s : State) : Res :=
  match s.time.batten with
  | none => .next s
  | some b =>
    if s.mode.powered ∧ b.at_ ≤ s.time.now then
      let s := { s with time := { s.time with shadows := s.capture, batten := none } }
      let s := (s.setRfld (bTime + 0x20) 47 32 (b.id % 65536)).setReg (bTime + 0x30) (BitVec.ofNat 64 s.time.now)
      .next ((s.flag (bTime + 0x38) 0).count (bTime + 0x100) 1)
    else .next s

/-- R522, R530: a time source without PPS_IN steps its PTP time; other writes are ignored. -/
def State.writeTimeOffset (s : State) (v : Word) : State :=
  if s.mode.writable ∧ s.timeSource ∧ !s.ppsEnabled then s.stepOffset v else s

end Sys2Proof.Machine
end

