-- ==== Sys2Proof/Machine/Regs.lean ====
section
/-! DEFINITION. Device space: what every register reads, what a write does, and the commands that write registers
(R7–R12, R29–R36, R39, R485, R500–R506 and the register tables of each chapter). -/
namespace Sys2Proof.Machine

/-! ## What registers read -/

/-- R32: CHIP_STATE. -/
def State.chipState (s : State) : Word := packWord [(4, s.cause % 16), (0, s.mode.code)]

/-- Number of set bits among the low `n`. -/
def bitCount (n x : Nat) : Nat := ((List.range n).filter (fun i => x.testBit i)).length

/-- R532: the lowest level on any running core. -/
def State.lowestLevel (s : State) : Nat :=
  ((List.range 128).filter (fun n => !s.fenced n)).foldl (fun m n => min m (s.core n).level) 16

/-- R532: REEF_STATUS. -/
def State.reefStatus (s : State) : Word :=
  packWord [(13, if s.power.holding then 1 else 0), (10, s.reefSource), (5, s.reefTarget), (0, s.lowestLevel)]

/-- R367: RIG_STATUS: PHASE and PLAN stand as the last phase that started left them. -/
def State.rigStatus (s : State) : Word :=
  let cached : Bool := match s.load with
    | some l => l.cached
    | none => (s.image.map (fun g => g.fromCache)).getD false
  setFld (s.reg bRig) 2 0 ((if cached then 4 else 0) + (if s.image.isSome then 2 else 0) + (if s.load.isSome then 1 else 0))

/-- R367–R370: the rig loader's registers. -/
def State.viewRig (s : State) (o : Nat) : Word :=
  match s.image with
  | none => if o = 0 then s.rigStatus else if o = 0x18 ∨ (0x20 ≤ o ∧ o ≤ 0x48) then 0 else s.reg (bRig + o)
  | some g =>
    if o = 0 then s.rigStatus
    else if o = 0x18 then wd g.header 18
    else if 0x20 ≤ o ∧ o ≤ 0x48 then BitVec.ofNat 64 (g.digest >>> (8 * (o - 0x20)))
    else s.reg (bRig + o)

/-- R533: members marked missing, and members whose newest record is recent. -/
def State.missingCount (s : State) : Nat := (s.masthead.missing.map (fun p => bitCount 64 p.2.toNat)).foldl (· + ·) 0
def State.telemMs (s : State) : Nat := s.rfld bMh 9 0
def State.reporting (s : State) : Nat :=
  (s.masthead.recordAt.filter (fun p => s.time.now < p.2 + 2 * s.telemMs * 1000000)).length

/-- R533: the masthead registers; in a worker they read zero. -/
def State.viewMh (s : State) (o : Nat) : Word :=
  if s.image.isSome && s.role == 0 then 0
  else if o = 8 then
    packWord [(48, s.masthead.queue.length), (32, s.masthead.keys.length), (12, s.missingCount), (0, s.reporting)]
  else if 0x10 ≤ o ∧ o ≤ 0x48 then kget 0 s.masthead.missing ((o - 0x10) / 8)
  else s.reg (bMh + o)

/-- R559: the firmware slot that runs, if one does. -/
def State.running (s : State) : FwSlot := if s.flash.runSlot < 2 then s.flash.slot s.flash.runSlot else {valid := false}

/-- R547, R559: CAL_STATE. -/
def State.calState (s : State) : Nat :=
  if s.flash.calDamaged then 2 else if s.flash.calEntries.any (fun e => e.writer ≠ 0) then 1 else 0

/-- R559: SEC_STATUS. -/
def State.secStatus (s : State) : Word :=
  let f := s.flash
  let b := fun (p : Bool) => if p then 1 else 0
  let staged := match f.staged with
    | some n => (f.slot n).svn
    | none => 0
  packWord [(56, f.fuseSvn % 256), (48, s.running.svn % 256), (40, staged % 256), (36, s.rfld (bMod + 0x18) 39 36),
    (34, s.calState), (33, b (f.owner ≠ 0)), (6, b f.reverted), (5, b f.fallback), (4, b f.staged.isSome),
    (3, b f.bootRec.trial), (2, f.bootRec.preferred % 2), (1, f.runSlot % 2)]

/-- R558–R560: the module registers. -/
def State.viewMod (s : State) (o : Nat) : Word :=
  if o = 0 then
    packWord [(16, s.pins.slotId % 64), (6, min 600 (ceilDiv (s.enrollUntil - s.time.now) 1000000000)), (5, if s.pins.ref10m then 1 else 0),
      (4, if s.pins.leakN then 0 else 1)]
  else if o = 0x10 then
    setFld (setFld (s.reg (bMod + 0x10)) 9 5 s.power.thermCeil) 0 0 (if s.pins.thermAlertN then 0 else 1)
  else if o = 0x18 then s.secStatus
  else if o = 0x20 then
    packWord [(32, s.running.version % 2 ^ 32), (0, match s.flash.staged with
      | some n => (s.flash.slot n).version % 2 ^ 32
      | none => 0)]
  else if o = 0x100 then BitVec.ofNat 64 s.flash.boots
  else s.reg (bMod + o)

/-- R521, R530: seconds in holdover. -/
def State.holdoverSeconds (s : State) : Nat :=
  if s.ptpState = 3 then
    let from_ := if s.timeSource then s.time.lastPps + 2 * 10 ^ 9 else s.time.lastSync + 10 ^ 9
    min 65535 ((s.time.now - from_) / 10 ^ 9)
  else 0

/-- R530: the time registers. -/
def State.viewTime (s : State) (o : Nat) : Word :=
  if o = 0 then BitVec.ofNat 64 s.time.now
  else if o = 0x18 then setFld (setFld (s.reg (bTime + 0x18)) 31 16 s.holdoverSeconds) 7 6 s.ptpRole
  else if o = 0x20 then
    match s.time.batten with
    | some b => setFld (setFld (setFld (s.reg (bTime + 0x20)) 63 48 (b.id % 65536)) 3 2 (b.scope % 4)) 0 0 1
    | none => s.reg (bTime + 0x20)
  else s.reg (bTime + o)

/-- R274: HW_USE of a slice pair. -/
def State.viewCache (s : State) (o : Nat) : Word :=
  if inRegs o 0x100000 0x100038 then
    setFld (s.reg (bCache + o)) 7 0 (min 128 ((s.hoists.filter (fun h => h.watched && h.pair == (o - 0x100000) / 8)).length))
  else s.reg (bCache + o)

/-- R333: parked queues of a context. -/
def State.parkedQueues (s : State) (c : Nat) : Nat :=
  (((s.parks.filter (fun p => p.ctx = c ∧ p.engine = 0)).map (fun p => (p.core, p.queue))).eraseDups).length

/-- R329–R333: the translation registers. -/
def State.viewXl (s : State) (o : Nat) : Word :=
  if o = 8 then
    packWord [(16, (s.walks.filter (fun w => !w.running)).length), (0, (s.walks.filter (fun w => w.running)).length)]
  else if inRegs o 0x200 0x278 then
    let c := (o - 0x200) / 8
    packWord [(48, s.parkedQueues c), (0, (s.ctx c).state)]
  else if inRegs o 0x280 0x2F8 then
    let x := s.ctx ((o - 0x280) / 8)
    let r := s.reg (bXl + o)
    packWord [(1, if x.state = 5 then fld r 1 1 else 0), (0, if x.state = 3 then fld r 0 0 else 0)]
  else s.reg (bXl + o)

/-- R410: STAY_STATUS and STAY_LANE. -/
def State.viewStay (s : State) (t o : Nat) : Word :=
  let x := s.stay t
  if o = 8 then
    let st := if !x.up then (if x.training then 1 else 0) else if x.lanes = 255 then 2 else 3
    packWord [(48, x.seen.1 % 65536), (44, x.seen.2 % 16), (36, x.lanes % 256), (32, bitCount 8 x.lanes), (0, st)]
  else if o = 0x10 then
    packWord ((List.range 8).map (fun l =>
      (8 * l, (if x.lanes.testBit l then 128 else 0) + min 127 (s.laneCorr t l))))
  else s.reg (bStay t + o)

/-- R468: HP_STATUS. -/
def State.viewPort (s : State) (h o : Nat) : Word :=
  if o = 8 then
    let r := s.reg (bPort h + 8)
    let used := s.qps.filter (fun p => p.2.connected)
    let r := setFld r 63 51 (used.filter (fun p => p.2.primary = h)).length
    let r := setFld r 50 38 (used.filter (fun p => p.2.port = h)).length
    let r := setFld r 37 27 (min 1024 (ceilDiv (s.portUnacked h) 1024))
    setFld r 2 2 (if used.any (fun p => p.2.primary = h && p.2.onAlt) then 1 else 0)
  else s.reg (bPort h + o)

/-- R205: a direction of the track in TRK_STATUS: its state, ring step and free buffers. -/
def State.dirStatus (s : State) (down : Bool) : Nat × Nat × Nat :=
  let d := s.dir down
  (if s.dirDown down then 3 else if s.dirDegraded down then 2 else if d.active then 1 else 0, d.step % 65536, s.trackBuffers - d.bufs.length)

/-- R205, R413, R416: the collective engine, the tackle counters and the track. -/
def State.viewColl (s : State) (o : Nat) : Word :=
  if o = 0 then
    let on := s.ops.filter (fun p => p.phase != .armed && p.phase != .done && p.phase != .failed)
    packWord [(32, (s.ops.map (fun p => p.retained.length)).foldl (· + ·) 0 % 65536), (16, (s.ops.map (fun p => p.asked.length)).foldl (· + ·) 0 % 65536), (0, on.length % 2048)]
  else if inRegs o 0x100000 0x107FF8 then BitVec.ofNat 64 (s.tackleOf ((o - 0x100000) / 8))
  else if o = 0x800008 then
    let u := s.dirStatus false
    let d := s.dirStatus true
    packWord [(48, u.2.1), (32, d.2.1), (28, u.2.2 % 16), (24, d.2.2 % 16), (2, d.1), (0, u.1)]
  else s.reg (bColl + o)

/-- R492, R511: FLT_STATUS. -/
def State.fltStatus (s : State) : Word :=
  let p := s.permanent
  let n := fun (k : Nat) => (p.filter (fun x => x.1 = k)).length
  packWord [(56, s.permanentCores.length % 256), (48, (n 4 + n 5) % 256), (40, n 3 % 256), (32, (n 6 + n 7) % 256),
    (0, if p = [] then 0 else 1)]

/-- R511: SEQ of the newest entry in flash. -/
def State.ledgerHead (s : State) : Nat := ((lastOf s.flash.ledger).map (fun e => e.seq)).getD 0

/-- R497, R511: the fault block; between the idle phases of a run rail and clocks are nominal, and no group is under test. -/
def State.viewFault (s : State) (o : Nat) : Word :=
  if o = 0 then s.fltStatus
  else if o = 0x18 then BitVec.ofNat 64 s.ledgerHead
  else if o = 0x20 then
    match s.plumb with
    | some p =>
      let r := setFld (s.reg (bFault + 0x20)) 11 10 p.field
      if s.unitMayRun p then setFld (setFld (setFld r 15 12 2) 9 5 p.rail) 4 0 p.group else r
    | none => s.reg (bFault + 0x20)
  else if inRegs o 0x100100 0x100118 then 0
  else s.reg (bFault + o)

/-- R125: does an event register, whose enables lie in the next, assert its block's notification line to the fault block: an
enabled flag stands. Nothing else depends on the enables. -/
def State.notifies (s : State) (event : Nat) : Bool := s.reg event &&& s.reg (event + 8) &&& 0xFF != 0

/-- R125, R165, R169, R239, R263, R304: the notification line of core `n`: any of its blocks asserts it. -/
def State.coreNotifies (s : State) (n : Nat) : Bool :=
  ([0, 1, 2, 3].map (fun e => bMe n e + 0x18) ++ [bVe n + 0x18, bSfe n + 0x20, bAe n + 0x18, bCore n + 0x80010,
    bCore n + 0x90000]).any s.notifies

/-- R122: what a bank of a core does: 2 it accumulates, 3 its finished tile drains, 1 its preload has shifted in. -/
def bankState (k : Core) (b : Nat) : Nat :=
  let ps := k.passes.filter (fun p => pBank p.words == b)
  match k.streaming with
  | some p =>
    if pBank p.words = b then 2
    else if ps.any (fun p => p.phase == .streamed) then 3
    else if ps.any (fun p => p.phase == .shifted) then 1 else 0
  | none => if ps.any (fun p => p.phase == .shifted) then 1 else 0

/-- R122: ME_STATUS of engine `e`. Whether the last CCLK was a hold is free. -/
def State.meStatus (s : State) (n e : Nat) : Word :=
  let k := s.core n
  let dbuf := if k.passes.any (fun p => p.phase == .failed) then 4 else if k.drainBusy then 3 else 0
  let banks : List (Nat × Nat) := [(11, bankState k 1), (8, bankState k 0), (5, dbuf)]
  match k.streaming with
  | none => packWord banks
  | some p =>
    packWord ([(19, wfld p.words 0 55 51), (14, wfld p.words 0 50 46)] ++ banks ++
      [(4, pBank p.words), (3, 1), (2, if p.replay = [] then 0 else 1), (1, Config.feederSample 0 n s.time.now % 2),
       (0, if p.rows.any (fun r => r / 64 = e) then 0 else 1)])

/-- R123: ME_PASS: while a pass streams, the K position that enters row 0, which is free. -/
def State.mePass (s : State) (n e : Nat) : Word :=
  let r := s.reg (bMe n e + 0x10)
  match (s.core n).streaming with
  | none => r
  | some p => setFld r 31 0 ((p.kFrom + Config.feederSample 1 n s.time.now % (max 1 (p.k - p.kFrom))) % 2 ^ 32)

/-- R128: MC_STATUS: the valid columns of the streaming pass; the lowest fill of their queues is free. -/
def State.mcStatus (s : State) (n : Nat) : Word :=
  match (s.core n).streaming with
  | none => 0
  | some p => packWord [(8, Config.feederSample 2 n s.time.now % 17), (0, p.cols.length)]

/-- R168: 4 bits per slot: 2 while its shadow loads, 1 active, 0 empty; in LOADED, RUNNING and HALTED no slot is empty. -/
def State.slotState (s : State) (t : TSlot) : Nat :=
  if t.shadow.isSome || 0 < t.waiting then 2
  else if t.active.isSome || s.mode == .loaded || s.mode == .running || s.mode == .halted then 1 else 0

/-- R262, R346: does a context that owns queue `q` wait on a counter on core `n`. -/
def State.queueWaits (s : State) (n q : Nat) : Bool :=
  let cs := s.section 0x0002 0
  (s.core n).seqs.any (fun x => x.2.waitCnt.isSome && (wfld cs (16 * x.1 + 3) 15 8).testBit q)

/-- R262: QSTATE: a queue is parked where one of its descriptors in progress is; it runs while it holds any; empty, it waits on
a counter while its context does; else it is idle. -/
def State.queueState (s : State) (n q : Nat) : Nat :=
  if ((s.queue n q).take 4).any (fun i => i.phase == .parked) then 3
  else if s.queue n q ≠ [] then 1
  else if s.queueWaits n q then 2
  else 0

/-- The registers of core `n` (R30). -/
def State.viewCore (s : State) (n o : Nat) : Word :=
  let k := s.core n
  let q := o % 0x10000
  let slot := fun (i : Nat) => kget {} k.slots i
  match o / 0x10000 with
  | 1 | 2 | 3 | 4 =>
    let e := o / 0x10000 - 1
    if q = 8 then s.meStatus n e
    else if q = 0x10 then s.mePass n e
    else if q = 0x200 ∧ e = 0 then s.mcStatus n
    else s.reg (bCore n + o)
  | 5 =>
    if q = 8 then setFld (s.reg (bCore n + o)) 0 0 (if k.routine.isSome || !k.stream.isEmpty then 1 else 0)
    else if q = 0x10 then wd (s.section 0x0020 0) 1
    else s.reg (bCore n + o)
  | 6 =>
    if q = 8 then BitVec.ofNat 64 s.profile
    else if q = 0x10 then packWord ((List.range 4).map (fun i => (16 * i, (slot i).epoch % 65536)))
    else if q = 0x18 then
      packWord ((List.range 4).map (fun i => (32 + 4 * i, ((slot i).active.map (fun t => t.log2Seg)).getD 0 % 16)) ++
        (List.range 4).map (fun i => (4 * i, s.slotState (slot i))))
    else s.reg (bCore n + o)
  | 7 =>
    if q = 8 then
      packWord ((32, s.trackers n) :: (16, k.fence.length % 128) :: (List.range 8).map (fun i => (2 * i, s.queueState n i)))
    else s.reg (bCore n + o)
  | 8 =>
    if q = 8 then
      match k.layouts with
      | [] => packWord [(32, k.leSeq % 2 ^ 32), (1, if k.leWaits then 1 else 0)]
      | l :: _ => packWord [(32, l.seq % 2 ^ 32), (2, if s.tileWaits n l then 1 else 0), (1, if k.leWaits then 1 else 0), (0, 1)]
    else s.reg (bCore n + o)
  | _ => s.reg (bCore n + o)

/-- R9, R10, R24: what a read of the register at an offset gives; an offset that names none reads zero. -/
def State.readReg (s : State) (off : Nat) : Word :=
  if (regSpec off).isNone then 0
  else if off = 0x08 then s.chipState
  else if off < 0x01000000 then s.reg off
  else if off = bPower + 0x10 then s.reefStatus
  else if off < bRig then s.reg off
  else if off < bHly then s.viewRig (off - bRig)
  else if off = bHly then setFld (s.reg bHly) 4 0 s.sessions.length
  else if off < bMh then s.reg off
  else if off < bMod then s.viewMh (off - bMh)
  else if off < bTime then s.viewMod (off - bMod)
  else if off < 0x03000000 then s.viewTime (off - bTime)
  else if off < bCache then s.reg off
  else if off < bXl then s.viewCache (off - bCache)
  else if off < 0x06000000 then s.viewXl (off - bXl)
  else if off < 0x07000000 then s.viewStay ((off - 0x06000000) / 0x100000) (off % 0x100000)
  else if off < bColl then s.viewPort ((off - 0x07000000) / 0x100000) (off % 0x100000)
  else if off < bFault then s.viewColl (off - bColl)
  else if off < bTell then s.viewFault (off - bFault)
  else if off < 0x10000000 then s.reg off
  else s.viewCore ((off - 0x10000000) / 0x100000) (off % 0x100000)

/-! ## Device space (R29, R485) -/

/-- R485: registers of a fenced core that still read: ME_ID, VE_ID and the counters. -/
def readsFenced (off : Nat) : Bool :=
  isCounter off || (off % 0x10000 == 0 && (let b := off / 0x10000 % 16; b == 1 || b == 2 || b == 3 || b == 4 || b == 5))

/-- R485: does a register lie in the block of a fenced core. -/
def State.inFencedCore (s : State) (off : Nat) : Bool :=
  0x10000000 ≤ off && (regSpec off).isSome && s.fenced ((off - 0x10000000) / 0x100000)

/-- R8, R29, R485: where a device address leads. -/
inductive DevPlace where
  | stack (pa : Nat)
  | store (core word : Nat)
  | reg (off : Nat)
  | none
  deriving DecidableEq, Repr

/-- R8, R29: the place of an aligned 64-bit access. -/
def devPlace (a : Nat) : DevPlace :=
  if a % 8 ≠ 0 then .none
  else if a < 0x8000000000 then .stack a
  else if 0x010000000000 ≤ a ∧ a < 0x010080000000 then
    let o := (a - 0x010000000000) % 0x1000000
    if o < 0x600000 then .store ((a - 0x010000000000) / 0x1000000) (o / 8) else .none
  else if 0x020000000000 ≤ a ∧ inRegBlock (a - 0x020000000000) then .reg (a - 0x020000000000)
  else .none

/-- R8, R9, R29, R485: a device-space read: a word with its poison, or a refusal. -/
def State.readDevice (s : State) (a : Nat) : Option (Word × Bool) × State :=
  match devPlace a with
  | .stack pa => let r := s.readWordPa 0 pa; (some r.1, r.2)
  | .store n w =>
    if s.fenced n then (none, s)
    else let r := s.csWord n w; (some (BitVec.ofNat 64 r.1.1, r.1.2), r.2)
  | .reg o => if s.inFencedCore o && !readsFenced o then (none, s) else (some (s.readReg o, false), s)
  | .none => (none, s)

/-! ## Injections (R501, R505, R506) -/

/-- R501: an injection has taken effect. -/
def State.injected (s : State) : State := (s.count (bFault + 0x130) 1).flag (bFault + 0x08) 5

/-- R505: inverts symbols 0 to `k` − 1 of a codeword in all 16 bits. -/
def State.invertSymbols (s : State) (cw k : Nat) : State :=
  let d := (s.bytes (64 * cw) (2 * k)).map (fun b => ~~~ b)
  let z := (List.range k).foldl (fun z i => z ^^^ symSynd i 0xFFFF) (s.codeSynd cw)
  let s := s.putCode cw d z
  { s with hurt := s.hurt ++ [cw] }

/-- INJ_MEM (R501, R505): symbols inverted, or the pattern of poison laid over the codeword, as it stands. -/
def State.injMem (s : State) (v : Word) : State :=
  let k := fld v 63 61
  let cw := fld v 38 6
  if !s.armed then s
  else if 1 ≤ k ∧ k ≤ 4 then s.invertSymbols cw k
  else if k = 5 then
    let s := s.putCode cw [] (s.codeSynd cw ^^^ poisonSynd)
    { s with hurt := s.hurt ++ [cw] }.injected
  else s

/-- R505: words of an SRAM of a target. -/
def sramWords (target : Nat) : Nat :=
  match target with
  | 1 => 786432 | 2 => 65536 | 3 => 786432 | 4 => 5120 | 5 => 8192 | _ => 1

/-- R505: units of a target. -/
def sramUnits (target : Nat) : Nat := if target = 3 then 16 else 128

/-- R505: the bits a request inverts. -/
def injBits (bits bit : Nat) : Nat :=
  match bits with
  | 1 => 1 <<< bit
  | 2 => (1 <<< bit) ^^^ (1 <<< ((bit + 1) % 72))
  | _ => sramPoison

/-- Does a word of a cache hold part of a line. -/
def State.wordHeld (s : State) (target unit word : Nat) : Bool :=
  match target with
  | 2 => (kget [] (s.core unit).cache (word / 16 % 512)).any (fun l => l.way = word / 8192)
  | 3 => (s.lines (unit * 1536 + word / 32 % 1536)).any (fun l => l.way = word / 49152)
  | _ => true

/-- R505: one word of an SRAM altered as it stands. -/
def State.alterWord (s : State) (target unit word e : Nat) : State :=
  let key := sramKey target unit word
  let s := s.setSramMask key (s.sramMask key ^^^ e)
  { s with hurt := s.hurt ++ [2 ^ 33 + key] }

/-- R474, R475: an altered word of a mesh flit: one bit is corrected; more poison its payload or, in its header, stop
the module. -/
def State.injMesh (s : State) (target unit bits : Nat) : State :=
  if bits = 1 then s.record { kind := 0x4E, cls := 0, unitType := 1, unit := unit, injected := true }
  else if target = 6 then (s.setSramMask (sramKey 6 unit 0) sramPoison).injected
  else s.moduleEvent 2 0x4C true

/-- INJ_SRAM (R501, R505). -/
def State.injSram (s : State) (v : Word) : State :=
  let t := fld v 63 60
  let u := fld v 59 50
  let b := fld v 49 48
  let bit := fld v 47 40
  let w := fld v 39 0
  if !s.armed ∨ t = 0 ∨ 7 < t ∨ b = 0 ∨ 71 < bit ∨ sramUnits t ≤ u then s
  else if 6 ≤ t then s.injMesh t u b
  else if sramWords t ≤ w ∨ !s.wordHeld t u w then s
  else
    let s := s.alterWord t u w (injBits b bit)
    if b = 3 then s.injected else s

/-- INJ_LINK (R501, R506): the request in force is replaced; a lane drop acts at once. -/
def State.injLink (s : State) (v : Word) : State :=
  if !s.armed then s
  else if fld v 63 60 = 5 then
    let s := s.setReg (bPert + 0x110) 0
    if fld v 59 56 < 12 ∧ fld v 47 32 ≠ 0 then s.laneLost (fld v 59 56) (fld v 55 53) true else s
  else s.setReg (bPert + 0x110) v

/-- INJ_CHECK (R501, R506): the request in force is replaced. -/
def State.injCheck (s : State) (v : Word) : State := if s.armed then s.setReg (bPert + 0x118) v else s

/-! ## Requests in CHIP_CTL (R33, R37, R39) -/

/-- R449: a host port without an image: enabled, without MACsec. -/
def State.freePort (s : State) (h : Nat) : State :=
  (s.setRfld (bPort h) 0 0 1).setRfld (bPort h) 3 3 0

/-- R319, R332, R369: what the image brought goes: contexts, tables, pools, links, queue pairs, the job. -/
def State.dropImage (s : State) : State :=
  let s := (s.endJob.abandonLoad).setReg 0x10 0
  let s : State := { s with
    image := none
    ctxs := [], walks := [], parks := [], cows := [], invals := [], hoists := [], windows := [], tackle := []
    chipCache := dropTags (fun _ => true) s.chipCache
    regions := [], opened := [], qps := [], up := {}, down := {}, masthead := {}, devWrites := []
    cores := s.cores.map (fun (p : Nat × Core) => (p.1, { p.2.stopped with slots := [], tlb := [], fifos := [], fillDue := [], rsFifo := [], smFifo := [] }))
    stackUnits := s.stackUnits.map (fun (p : Nat × Stack) => (p.1, { p.2 with ledger := [] }))
    sessions := s.sessions.filter (fun x => x.level ≠ 3)
    step := {} }
  let s := (List.range 16).foldl (fun t c =>
    ((((t.setReg (bXl + 0x100 + 8 * c) 0).setReg (bXl + 0x180 + 8 * c) 0).setReg (bXl + 0x280 + 8 * c) 0).setReg
      (bXl + 0x300 + 8 * c) 0).setReg (bCache + 8 * c) 0) s
  let s := (List.range 8).foldl (fun t k =>
    (((t.setReg (bLedger k) 0).setReg (bLedger k + 8) 0).setReg (bCache + 0x100000 + 8 * k) 0).freePort k) s
  ((List.range 12).foldl (fun t n => t.setReg (bStay n) 0) s).setReg bTrack 0

/-- UNLOAD_REQ (R33, R37, R370): in LOADED or HALTED the image is unloaded. -/
def State.unloadReq (s : State) : State :=
  if s.mode = .loaded ∨ s.mode = .halted then
    ((s.dropImage.flag (bRig + 0x50) 2).retrainAll).enter .ready
  else s

/-- R33, R39: a write of CHIP_CTL: the first request in the order module reset, HALT, RESUME, UNLOAD is taken and has an
effect where R37 names a transition; the others clear without effect. -/
def State.writeChipCtl (s : State) (v : Word) : State :=
  if bitAt v 3 then s.resetReq
  else if bitAt v 0 then s.haltReq
  else if bitAt v 1 then s.resumeReq
  else if bitAt v 2 then s.unloadReq
  else s

/-- R35, R36, R484: a write of a CORE_FENCE register fences every core of its set bits. -/
def State.writeFence (s : State) (upper : Bool) (v : Word) : State :=
  (List.range 64).foldl (fun t i =>
    if bitAt v i then t.fenceCore (i + if upper then 64 else 0) 5 else t) s

/-- R333: a write of XL_CTX_CTL. -/
def State.writeCtxCtl (s : State) (c : Nat) (v : Word) : State :=
  if bitAt v 3 then s.ctxEnd c
  else
    let s := if bitAt v 0 then s.ctxPreempt c else s
    let s := if bitAt v 1 then s.ctxResume c else s
    if bitAt v 2 then s.ctxRetry c else s

/-! ## Writes (R10, R11, R215, R468, R533) -/

/-- What a written field reads back where the table turns a value into another. -/
def fixWritten (off : Nat) (v : Word) : Word :=
  if inRegs off (bStack 0 + 0x10) (bStack 7 + 0x10) && off % 0x100000 == 0x10 then
    (if fld v 1 0 = 3 then setFld v 1 0 2 else v)
  else if off == bMh then
    (if fld v 9 0 = 0 then setFld v 9 0 10 else if 1000 < fld v 9 0 then setFld v 9 0 1000 else v)
  else if inRegs off (bPort 0) (bPort 7) && off % 0x100000 == 0 then
    (if fld v 2 1 = 3 then setFld v 2 1 0 else v)
  else v

/-- R10, R11: a register without a meaning of its own takes a write by its access codes. -/
def State.writePlain (s : State) (off : Nat) (v : Word) : State :=
  match regSpec off with
  | some r => s.setReg off (fixWritten off (writtenValue r (s.reg off) v))
  | none => s

/-- What a write of the register at an offset does. -/
def State.writeReg (s : State) (off : Nat) (v : Word) : State :=
  if off = 0x10 then s.writeChipCtl v
  else if off = 0x20 then s.writeFence false v
  else if off = 0x28 then s.writeFence true v
  else if off = bPower + 0x08 then s.writeReefCtl v
  else if off = bTime + 0x08 then s.writeTimeOffset v
  else if inRegs off (bXl + 0x280) (bXl + 0x2F8) then s.writeCtxCtl ((off - bXl - 0x280) / 8) v
  -- R332: XL_PARK_LIMIT of an unused context reads zero
  else if inRegs off (bXl + 0x300) (bXl + 0x378) && (s.ctx ((off - bXl - 0x300) / 8)).state == 0 then s
  else if off = bPert + 0x100 then s.injMem v
  else if off = bPert + 0x108 then s.injSram v
  else if off = bPert + 0x110 then s.injLink v
  else if off = bPert + 0x118 then s.injCheck v
  else s.writePlain off v

/-- R465, R500, R526: may a masthead write a register: the fences, CHIP_CTL and REEF_CTL. -/
def mastheadMay (off : Nat) : Bool := off == 0x10 || off == 0x20 || off == 0x28 || off == bPower + 0x08

/-- R8, R9, R29, R254, R465, R485, R500: a device-space write; none where it is refused with E_PERM. -/
def State.writeDevice (s : State) (src : Sender) (a : Nat) (v : Word) : Option State :=
  if !s.mode.writable then none
  else
    match devPlace a with
    | .stack pa => if src = .owner then some (s.writeWordPa 0 pa v) else none
    | .store n w =>
      if src = .masthead ∨ s.fenced n then none
      else if s.fenceHit n (8 * w) (8 * w + 8) then some { s with devWrites := s.devWrites ++ [(n, w, v)] }
      else some (s.csWrite n (8 * w) (plain (leBytes 8 v.toNat)))
    | .reg o =>
      if (src = .masthead ∧ !mastheadMay o) ∨ s.inFencedCore o then none else some (s.writeReg o v)
    | .none => none

/-! ## The commands -/

/-- UNLOAD_REQ (R33). -/
def execUnloadReq (s : State) : Res := .next s.unloadReq
/-- RESUME_REQ (R33). -/
def execResumeReq (s : State) : Res := .next s.resumeReq
/-- HALT_REQ (R33). -/
def execHaltReq (s : State) : Res := .next s.haltReq
/-- CORE_FENCE_WRITE (R35, R36, R484). -/
def execCoreFenceWrite (upper : Bool) (value : Word) (s : State) : Res :=
  .next (if s.mode.writable then s.writeFence upper value else s)
/-- REGISTER_WRITE (R10): a write that is refused changes nothing. -/
def execRegisterWrite (src : Sender) (addr : Nat) (value : Word) (s : State) : Res :=
  .next ((s.writeDevice src addr value).getD s)
/-- TIME_OFFSET_WRITE (R522, R529, R530). -/
def execTimeOffsetWrite (value : Word) (s : State) : Res := .next (s.writeTimeOffset value)
/-- INJ_MEM (R500, R501, R505). -/
def execInjMem (value : Word) (s : State) : Res := .next (if s.mode.writable then s.injMem value else s)
/-- INJ_SRAM (R500, R501, R505). -/
def execInjSram (value : Word) (s : State) : Res := .next (if s.mode.writable then s.injSram value else s)
/-- INJ_LINK (R500, R501, R506). -/
def execInjLink (value : Word) (s : State) : Res := .next (if s.mode.writable then s.injLink value else s)
/-- INJ_CHECK (R500, R501, R506). -/
def execInjCheck (value : Word) (s : State) : Res := .next (if s.mode.writable then s.injCheck value else s)

end Sys2Proof.Machine
end

