-- ==== Sys2Proof/Machine/Loading.lean ====
section
/-! DEFINITION. The rig loader (R309, R335–R371): placing buffers, building page tables, applying an image, the load
commands and the flash cache; starting a job (R343, R356, R386, R420, R508). -/
namespace Sys2Proof.Machine

/-! ## Placement (R348–R350) -/

/-- Free physical ranges [lo, hi), ascending. -/
abbrev Free := List (Nat × Nat)

/-- R350: takes `size` bytes at the lowest free address aligned to `align`. -/
def allocate (size align : Nat) : Free → Option (Nat × Free)
  | [] => none
  | (lo, hi) :: r =>
    let a := ceilTo lo align
    if a + size ≤ hi then
      some (a, (if lo < a then [(lo, a)] else []) ++ (if a + size < hi then [(a + size, hi)] else []) ++ r)
    else (allocate size align r).map (fun x => (x.1, (lo, hi) :: x.2))

/-- R497: a stack without the 24 MiB at its top. -/
def stackFree (k : Nat) : Free := [(k * 2 ^ 36, (k + 1) * 2 ^ 36 - 24 * 2 ^ 20)]

/-- R349: does a buffer take stack memory. -/
def takesMemory (w : List Word) : Bool := let k := bufKind w; k != 3 && k != 7 && k != 10

/-- R348: the stacks of a buffer's parts, and bytes of one part. -/
def partStacks (w : List Word) : List Nat := if wfld w 0 39 36 = 8 then List.range 8 else [wfld w 0 39 36]
def partBytes (w : List Word) : Nat := if wfld w 0 39 36 = 8 then bufSize w / 8 else bufSize w

/-- R235, R277, R349: bytes that a part takes: a packed furl region is followed by its size and check tables, a raw one by its
check table. -/
def slotBytes (w : List Word) : Nat :=
  let n := partBytes w
  ceilTo (if wfld w 0 26 26 = 1 then n + 5 * (n / 4096) else if bufKind w = 1 then n + 4 * (n / 4096) else n) (bufPage w)

/-- R350: places parts, each in its stack. -/
def placeParts (size align : Nat) : List Nat → KMap Free → Option (List (Nat × Nat) × KMap Free)
  | [], m => some ([], m)
  | k :: r, m =>
    match allocate size align (kget (stackFree k) m k) with
    | none => none
    | some x => (placeParts size align r (kput m k x.2)).map (fun y => ((k, x.1) :: y.1, y.2))

/-- Puts a buffer in its place by ascending identifier. -/
def insertBuffer (w : List Word) : List (List Word) → List (List Word)
  | [] => [w]
  | x :: r => if bufId w < bufId x then w :: x :: r else x :: insertBuffer w r

/-- R350: every buffer placed in ascending BUFFER order, or the first that does not fit. -/
def placeAll : List (List Word) → KMap Free → List Placed → Sum Nat (List Placed × KMap Free)
  | [], m, ps => .inr (ps, m)
  | w :: r, m, ps =>
    if takesMemory w then
      match placeParts (slotBytes w) (bufPage w) ((List.replicate (bufCount w) (partStacks w)).flatten) m with
      | none => .inl (bufId w)
      | some x => placeAll r x.2 (ps ++ [⟨bufId w, w, x.1⟩])
    else placeAll r m (ps ++ [⟨bufId w, w, []⟩])

def placeBuffers (bs : List (List Word)) : Sum Nat (List Placed × KMap Free) :=
  placeAll (bs.foldl (fun l w => insertBuffer w l) []) [] []

/-- R155: bytes of the copy that the loader keeps of each initial table of an SFE section. -/
def copySizes (ws : List Word) : List Nat :=
  (List.range (wfld ws 2 63 48)).map (fun i => 16 * 2 ^ wfld (ws.drop (4 + 8 * i)) 4 3 0)

/-- R155: the copies of the initial tables, after the buffers, each in the lowest stack with room: their physical
addresses. -/
def placeCopies : List Nat → KMap Free → Option (List Nat)
  | [], _ => some []
  | n :: r, m =>
    match (List.range 8).findSome? (fun k => (allocate n 256 (kget (stackFree k) m k)).map (fun x => (k, x))) with
    | none => none
    | some (k, x) => (placeCopies r (kput m k x.2)).map (fun y => x.1 :: y)

/-! ## Page tables (R306, R307, R309, R350) -/

/-- Table entries by physical address, and the free ranges of the page-table pool. -/
structure Tables where
  words : KMap Word
  free  : Free

/-- R306: bytes of the table that an entry of a level names. -/
def childBytes (level : Nat) : Nat := if level = 2 then 256 else 4096

/-- The table that the entry at an address names; a new one where it has none. -/
def Tables.child (t : Tables) (at_ level : Nat) : Option (Nat × Tables) :=
  let e := kget 0 t.words at_
  if bitAt e 0 then some (fld e 47 8 * 256, t)
  else (allocate (childBytes level) (childBytes level) t.free).map (fun x =>
    (x.1, ⟨kput t.words at_ (BitVec.ofNat 64 (x.1 + 1)), x.2⟩))

/-- The address of the entry of a virtual address at level `last`, from `level` on; tables are made on the way. -/
def Tables.entryAt (t : Tables) (va last : Nat) : Nat → Nat → Nat → Option (Nat × Tables)
  | 0, level, table => some (table + 8 * vaIndex va level, t)
  | n + 1, level, table =>
    if level = last then some (table + 8 * vaIndex va level, t)
    else
      match t.child (table + 8 * vaIndex va level) level with
      | none => none
      | some x => x.2.entryAt va last n (level + 1) x.1

/-- Maps one page: a leaf at a level. -/
def Tables.map (t : Tables) (root va level : Nat) (pte : Word) : Option Tables :=
  (t.entryAt va level 4 0 root).map (fun x => { x.2 with words := kput x.2.words x.1 pte })

/-- Folds a partial operation over a list. -/
def foldSome {α β : Type} (f : α → β → Option α) : α → List β → Option α
  | a, [] => some a
  | a, b :: r =>
    match f a b with
    | none => none
    | some c => foldSome f c r

/-- R350: the PTE of a buffer without its frame: V, LEAF, R and the FLAGS permissions, CP. -/
def leafBits (w : List Word) : Nat :=
  7 + wfld w 0 24 24 * 8 + wfld w 0 25 25 * 16 + wfld w 0 33 32 * 256

/-- R306: the level of a buffer's leaves; a host page is 64 KiB (R313). -/
def leafLevel (w : List Word) : Nat :=
  if bufKind w = 7 ∨ bufKind w = 10 then 3 else 3 - wfld w 0 35 34

/-- R350: the pages of a placed buffer: virtual address and PTE. Windows have none that are valid (R349). -/
def bufferPages (p : Placed) : List (Nat × Word) :=
  let w := p.words
  let k := bufKind w
  let size := leafSize (leafLevel w)
  let pages := fun (va n pte step : Nat) =>
    (List.range n).map (fun i => ((va + i * size) % 2 ^ 57, BitVec.ofNat 64 (pte + i * step)))
  if k = 7 ∨ k = 10 then
    (List.range (bufCount w)).flatMap (fun i =>
      pages (bufVa w + i * bufPitch w) (ceilDiv (bufSize w) size)
        (leafBits w + 64 + wfld w 5 63 52 * 2 ^ 52 + (wfld w 5 51 20 * 65536 + i * bufPitch w)) 65536)
  else if isMapped w ∧ k ≠ 3 then
    let n := (partStacks w).length
    (p.phys.zipIdx).flatMap (fun x =>
      pages (bufVa w + x.2 / n * bufPitch w + x.2 % n * partBytes w) (ceilDiv (partBytes w) size) (leafBits w + x.1.2) size)
  else []

/-- R196, R349: the windows of a buffer have their L3 tables, one per 2 MiB, with nothing valid in them. -/
def windowTables (w : List Word) : List Nat :=
  if bufKind w = 3 then
    (List.range (bufCount w)).flatMap (fun i =>
      (List.range 32768).map (fun j => (bufVa w + i * bufPitch w + j * 2 ^ 21) % 2 ^ 57))
  else []

/-- R350: the tables of one context: its root, then every buffer that it owns. -/
def contextTables (ps : List Placed) (t : Tables) (c : Nat) : Option (Nat × Tables) :=
  match allocate (2 ^ 21) (2 ^ 21) t.free with
  | none => none
  | some x =>
    let root := x.1
    let own := ps.filter (fun p => wfld p.words 0 43 40 = c)
    let t : Option Tables := foldSome (fun (t : Tables) (p : Placed) =>
      match foldSome (fun (t : Tables) (y : Nat × Word) => t.map root y.1 (leafLevel p.words) y.2) t (bufferPages p) with
      | none => none
      | some t => foldSome (fun (t : Tables) (va : Nat) => (t.entryAt va 3 4 0 root).map (fun y => y.2)) t (windowTables p.words))
      ⟨t.words, x.2⟩ own
    t.map (fun u => (root, u))

/-- R309, R350: the tables of every used context, with their roots, in the page-table pools. -/
def buildTables (ps : List Placed) (cs : List Word) : Option (KMap Nat × Tables) :=
  let pool := (ps.filter (fun p => bufKind p.words = 9)).flatMap (fun p => p.phys.map (fun x => (x.2, x.2 + partBytes p.words)))
  foldSome (fun (a : KMap Nat × Tables) (c : Nat) =>
    if entryClass cs c = 0 then some a
    else (contextTables ps a.2 c).map (fun x => (kput a.1 c x.1, x.2))) ([], ⟨[], pool⟩) (List.range 16)

/-! ## Verifying an image (R364–R366) -/

/-- The loader's whole plan of an image: its buffers placed and its tables built, with the copies of its initial user
tables, or the failure of check 12. -/
def planMemory (es : List DirEntry) : Sum Fail (List Placed × KMap Nat × Tables × List Nat) :=
  let e := pickedSec es 0x04 0
  match placeBuffers (memBuffers e.words) with
  | .inl b => .inl (12, codeResource, e.index, b)
  | .inr (ps, m) =>
    match buildTables ps (pickedSec es 0x02 0).words, placeCopies (copySizes (pickedSec es 0x20 0).words) m with
    | _, none => .inl (12, codeResource, e.index, 0)
    | none, _ => .inl (12, codeResource, e.index, ((ps.find? (fun p => bufKind p.words = 9)).map (fun p => p.id)).getD 0)
    | some t, some cs => .inr (ps, t.1, t.2, cs)

/-- R36: the cores fenced now, as a mask. -/
def State.fenceMask (s : State) : Nat := (s.reg 0x20).toNat + (s.reg 0x28).toNat * 2 ^ 64

/-- R179, R349: the traveller buffers: one KIND 5 entry for each direction in use, of TRK_BUFFERS instances, each of the size of
the largest traveller: K and V of its heads, in backward their return pages of twice the size too. -/
def trackBufsBad (es : List DirEntry) (q : SeqPlan) : List Fail :=
  let r := (pickedSec es 0x01 0).words
  let e := pickedSec es 0x04 0
  let bs := (memBuffers e.words).filter (fun w => bufKind w == 5)
  let dirs := [false, true].filter (fun d => bitAt (wd r 1) (if d then 23 else 22))
  let per := if q.travels.any (fun t => t.back) then 6 else 2
  failIf (bs.length != dirs.length) (12, codeResource, e.index, ((bs.head?).map bufId).getD 0) ++
  (bs.zip dirs).flatMap (fun x => failIf (bufCount x.1 != wfld r 1 43 40 ||
    bufSize x.1 < 65536 * (per * seqPages q * (if x.2 then q.down else q.up).length)) (12, codeResource, e.index, bufId x.1))

/-- R171, R180, R186, R188: what the loader refuses of the sequence plan of an image: S no multiple of 256 tokens (check 9), a
head dimension other than 64 and 128, a head ratio that is no integer from 1 to 64, scores under dropout that the 2^50 Philox
positions do not number (check 15). -/
def seqBad (es : List DirEntry) (q : SeqPlan) : List Fail :=
  let role := (pickedSec es 0x01 0).index
  let plan := (pickedSec es 0x10 0).index
  let len := 2 * (wfld (pickedSec es 0x01 0).words 1 63 54 + 1) * q.seg
  (if q.travels = [] then [] else trackBufsBad es q) ++ failIf (q.seg = 0 || q.seg % 256 != 0) (9, codeResource, role, 8) ++
  failIf (q.dim != 64 && q.dim != 128) (15, codeResource, plan, 0) ++
  failIf (q.kvHeads = 0 || q.qHeads % q.kvHeads != 0 || q.qHeads = 0 || 64 < q.qHeads / q.kvHeads) (15, codeResource, plan, 0) ++
  failIf (2 ^ 50 ≤ q.dropHeads * len ^ 2) (15, codeResource, plan, 0)

/-- R364: the first failing check of a load, if any: those that the model makes, those that the verdict reports, the
memory plan, and the fences at both samples. -/
def State.loadFail (s : State) (l : Load) (v : LoadVerdict) : Option Fail :=
  let f := l.image
  let es := imagePicked f
  let whole := check1 f ++ check2 f ++ check3 s.flash.owner f
  let head := whole ++ (if whole = [] then check4 s.flash.owner f else []) ++ check5 f ++ check6 f ++ v.failing.toList
  let body :=
    if (head.filter (fun x => x.1 < 7)) ≠ [] then []
    else check7 f ++ check9 es ++ seqBad es v.seq ++ check11 es ++ check12 es ++ checkFenced 13 es l.fence0 ++ check14 es ++ graphFails f ++
      checkFenced 23 es s.fenceMask
  let plan := if ((head ++ body).filter (fun x => x.1 < 12)) ≠ [] then []
    else match planMemory es with
      | .inl y => [y]
      | .inr _ => []
  firstFail (head ++ body ++ plan)

/-- R368, R465: the STATUS of a refusal, by its code. -/
def refusalStatus (code : Nat) : Nat :=
  match code with
  | 1 => 0x0C
  | 2 => 0x0D
  | 3 => 0x0E
  | 4 => 0x02
  | _ => 0x0F

/-- R364, R368, R370, R371: a refused image leaves nothing in effect; the refusal is shown, counted and answered. -/
def State.refuseLoad (s : State) (l : Load) (x : Fail) : State :=
  let s : State := { s with load := none }
  let s := s.setReg (bRig + 0x08) (packWord [(56, x.2.1), (48, x.1), (32, x.2.2.1), (0, x.2.2.2 % 2 ^ 32)])
  ((s.flag (bRig + 0x50) 1).count (bRig + 0x108) 1).respond l.env (if l.cached then 0x31 else 0x30) (refusalStatus x.2.1) []

/-! ## Applying an image (R204, R225, R313, R318, R332, R344, R350, R355, R358, R362, R449, R455) -/

/-- R318, R346: a context as its entry gives it. -/
def entryCtx (ws : List Word) (c : Nat) : Ctx :=
  let f := fun (w hi lo : Nat) => wfld ws (16 * c + w) hi lo
  if f 0 63 62 = 0 then {}
  else
    { cls := f 0 63 62, asid := f 0 61 46, primary := f 0 37 34, cores := entryCores ws c, csBase := f 3 63 48
      csSize := f 3 47 32, aeQueues := f 3 15 8, slots := f 3 7 4, cntBase := f 4 63 48, cntCount := f 4 47 32
      saveBuf := f 6 63 48, regions := f 6 47 35, state := 1 }

/-- R225, R332: a used context and its registers. -/
def State.installCtx (s : State) (ws : List Word) (roots : KMap Nat) (c : Nat) : State :=
  if entryClass ws c = 0 then s
  else
    let s := s.setCtx c (entryCtx ws c)
    let s := s.setReg (bXl + 0x100 + 8 * c) (packWord [(48, wfld ws (16 * c) 61 46), (46, entryClass ws c), (32, wfld ws (16 * c) 45 38)])
    let s := s.setReg (bXl + 0x180 + 8 * c) (BitVec.ofNat 64 (kget 0 roots c))
    let s := s.setReg (bXl + 0x300 + 8 * c) (BitVec.ofNat 64 (wfld ws (16 * c + 4) 31 0))
    s.setReg (bCache + 8 * c) (BitVec.ofNat 64 (entryWays ws c))

/-- R208, R209: the KV pool of a placed buffer. -/
def State.installPool (s : State) (p : Placed) : State :=
  match p.phys with
  | [] => s
  | x :: _ =>
    if bufKind p.words = 2 then
      let n := bufSize p.words / 65536
      (s.setReg (bLedger x.1) (packWord [(32, x.2 % 2 ^ 36 / 65536), (0, n)])).setReg (bLedger x.1 + 8)
        (packWord [(32, n), (0, n)])
    else s

/-- R313, R455: the host regions of a context. -/
def State.installRegions (s : State) (c : Nat) : State :=
  let ws := s.section 0x0005 0
  (List.range (wfld ws (16 + c) 63 51)).foldl (fun (t : State) r =>
    let row := t.regionRow c r
    let g : Region := ⟨(wd row 0).toNat, (wd row 1).toNat, wfld row 2 63 32, wfld row 2 31 20, wfld row 2 19 8⟩
    { t with regions := kset {} t.regions (c * 4096 + r) g }) s

/-- R452, R455: the queue pairs that the image gives to contexts, with their primary ports. -/
def State.installQps (s : State) : State :=
  let ws := s.section 0x0005 0
  ((ws.drop ((wd ws 1).toNat / 8)).take (wfld ws 0 63 51)).foldl (fun t w =>
    t.setQp (fld w 63 52) { ctx := fld w 51 48, primary := fld w 47 45 }) s

/-- R449, R460: the ports that the image enables, and MACsec on them; a disabled port holds its link down. -/
def State.installPort (s : State) (h : Nat) : State :=
  let r := wd s.roleSec 2
  let s := s.setRfld (bPort h) 3 3 (if bitAt r (48 + h) then 1 else 0)
  if bitAt r (56 + h) then s.setRfld (bPort h) 0 0 1 else (s.setRfld (bPort h) 0 0 0).portOff h

/-- R204, R344, R410: TRK_CFG and the stays' configuration. -/
def State.installRole (s : State) : State :=
  let r := s.roleSec
  let s := s.setReg bTrack (packWord [(40, wfld r 1 39 32), (32, wfld r 1 31 24), (28, wfld r 1 43 40), (26, wfld r 1 23 22),
    (16, wfld r 1 63 54), (0, wfld r 1 53 44)])
  let s := (List.range 12).foldl (fun t n => t.setReg (bStay n) (BitVec.ofNat 64 (wfld r (4 + n) 63 37 * 2 ^ 37))) s
  (List.range 8).foldl (fun t h => t.installPort h) s

/-- R350: zeros in every part of a placed buffer. -/
def State.zeroBuffer (s : State) (p : Placed) : State :=
  p.phys.foldl (fun t x => t.fillZero x.2 (ceilDiv (partBytes p.words) 65536)) s

/-- R362: one entry of a DATA section. -/
def State.placeData (s : State) (ws e : List Word) : State :=
  let len := (wd e 2).toNat
  let off := (wd e 1).toNat
  let bs := plain (((wordsBytes ws).drop (wd e 5).toNat).take len)
  if wfld e 0 63 62 = 0 then
    let b := wfld e 0 47 32
    s.savePut b (len / 4096 + 2) (s.flatOff b off) bs
  else
    let mask := (wd e 3).toNat + (wd e 4).toNat * 2 ^ 64
    (List.range 128).foldl (fun t n => if mask.testBit n then t.csWrite n off bs else t) s

/-- R362: every DATA section. -/
def State.placeAllData (s : State) (es : List DirEntry) : State :=
  (es.filter (fun e => e.type = 0x30)).foldl (fun t e =>
    (List.range (wfld e.words 0 63 48)).foldl (fun u i => u.placeData e.words ((e.words.drop (8 + 8 * i)).take 8)) t) s

/-- The image as it stands resident. -/
def residentImage (l : Load) (q : SeqPlan) (es : List DirEntry) (ps : List Placed) : Image :=
  { header := l.image.header, sections := es.map (fun e => (e.type, e.inst, e.words)), digest := imageDigest l.image
    placed := ps, fromCache := l.cached, seq := q }

/-- R365: the image is applied. -/
def State.applyImage (s : State) (l : Load) (q : SeqPlan) (es : List DirEntry) (ps : List Placed) (roots : KMap Nat) (t : Tables)
    (copies : List Nat) : State :=
  let cs := (pickedSec es 0x02 0).words
  let s : State := { s with
    load := none, image := some (residentImage l q es ps), ctxs := [], tackle := [], regions := [], opened := []
    hoists := [], chipCache := dropTags (fun _ => true) s.chipCache, step := {}, telemSeq := 0 }
  let s := (List.range 16).foldl (fun u c => u.installCtx cs roots c) s
  let s := ps.foldl (fun u p => u.installPool p) s
  let s := (ps.filter (fun p => bufKind p.words = 9 ∨ wfld p.words 0 28 28 = 1)).foldl (fun u p => u.zeroBuffer p) s
  let s := t.words.foldl (fun u e => u.writeWordPa 0 e.1 e.2) s
  let s := (List.range 16).foldl (fun u c => u.installRegions c) s
  let s := (s.installQps.installRole.placeAllData es).initTables copies
  s.startTrack

/-- R365, R463, R545: the flash cache keeps an image when its 4 GiB have room. -/
def State.storeImage (s : State) (f : ImageFile) : State :=
  let size := fun (x : ImageFile) => (wd x.header 1).toNat
  let used := (s.flash.cache.map (fun x => size x.2)).foldl (· + ·) 0
  if s.flash.cache.any (fun x => x.1 = imageDigest f) ∨ 2 ^ 32 < used + size f then s
  else { s with flash := { s.flash with cache := s.flash.cache ++ [(imageDigest f, f)] } }

/-- RIG_LOAD_COMPLETE (R36, R37, R364–R368): the checks end; the image is refused, or applied and the module LOADED. -/
def execRigLoadComplete (v : LoadVerdict) (s : State) : Res :=
  match s.load with
  | none => .next s
  | some l =>
    match s.loadFail l v with
    | some x => .next (s.refuseLoad l x)
    | none =>
      let es := imagePicked l.image
      match planMemory es with
      | .inl x => .next (s.refuseLoad l x)
      | .inr (ps, roots, t, copies) =>
        let s := s.applyImage l v.seq es ps roots t copies
        let s := if l.store then s.storeImage l.image else s
        let s := ((s.count (bRig + 0x100) 1).flag (bRig + 0x50) 0).enter .loaded
        .next (s.respond l.env (if l.cached then 0x31 else 0x30) 0 [])

/-! ## Load commands (R363, R366, R465) -/

/-- What a request comes to when it is answered at once; none when its answer comes later. -/
abbrev Answer := Option (Nat × List Word) × State

/-- RIG_LOAD: the transfer and the checks begin. -/
def State.rigLoadMsg (s : State) (e : Env) (f : ImageFile) (store : Bool) : Answer :=
  match s.load with
  | some _ => (some (0x0A, []), s)
  | none => (none, { s with load := some ⟨e, f, false, store, s.fenceMask⟩ })

/-- RIG_LOAD_CACHED: an image that the flash cache holds. -/
def State.rigLoadCachedMsg (s : State) (e : Env) (digest : Nat) : Answer :=
  match s.load, s.flash.cache.find? (fun x => x.1 = digest) with
  | none, some x => (none, { s with load := some ⟨e, x.2, true, false, s.fenceMask⟩ })
  | _, _ => (some (0x0A, []), s)

/-- The words of a digest of 48 bytes (R369). -/
def digestWords (d : Nat) : List Word := (List.range 6).map (fun i => BitVec.ofNat 64 (d >>> (64 * i)))

/-- RIG_CACHE_LIST: six words for each digest. -/
def State.rigCacheListMsg (s : State) : Reply := (0, s.flash.cache.flatMap (fun x => digestWords x.1), s)

/-- RIG_CACHE_DELETE: an entry other than the resident image. -/
def State.rigCacheDeleteMsg (s : State) (digest : Nat) : Reply :=
  if s.image.any (fun g => g.digest == digest) then (0x0A, [], s)
  else (0, [], { s with flash := { s.flash with cache := s.flash.cache.filter (fun x => x.1 ≠ digest) } })

/-! ## Starting a job (R343, R356, R386, R417–R420, R508) -/

/-- R356, R417, R438: the block that a job starts with. -/
def State.firstBlock (s : State) : JobBlock :=
  { step := wd s.jobSec 1, seed := wd s.jobSec 0, cursor := 0, accum := wfld s.jobSec 2 63 48
    lossScale := wfld s.tellSec 2 63 32, goodSteps := 0
    digest := jobDigest ((s.image.map (fun g => g.header)).getD []) }

/-- R386: each stay that the image uses sends this module's number and its own to its far end. -/
def State.sayStays (s : State) : State :=
  ((List.range 12).filter (fun t => s.stayUse t != 0)).foldl (fun u t => u.freeNear t) s

/-- JOB_START (R386, R420): a restored block must carry the image's digest; the job-start checks begin. -/
def State.jobStartMsg (s : State) (e : Env) (restored : Option JobBlock) : Answer :=
  if s.step.pendingStart.isSome then (some (0x0A, []), s)
  else if restored.any (fun b => b.digest != s.firstBlock.digest) then (some (0x0D, []), s)
  else (none, { s with step := { s.step with pendingStart := some (e, restored) } }.sayStays)

/-- R383, R386: does the far end of a torus stay sit at the coordinate that DIM and SIGN give. -/
def State.torusPeerOk (s : State) (t : Nat) : Bool :=
  let w := wd s.roleSec (4 + t)
  let d := fld w 39 38
  let n := s.torus d
  let x := s.coord s.moduleNo d
  let want := if fld w 37 37 = 0 then (x + 1) % n else (x + n - 1) % n
  (List.range 4).all (fun k => s.coord (s.stayPeer t) k == (if k = d then want else s.coord s.moduleNo k))

/-- R386: what the check of one stay finds: 0, or the STATUS that refuses the start. -/
def State.peerStatus (s : State) (peers : List (Nat × Nat × Nat × Nat)) (t : Nat) : Nat :=
  let x := s.stay t
  let p := peers.getD t (0, 0, 0, 0)
  if s.stayUse t = 0 then 0
  else if !x.up ∨ bitCount 8 x.lanes < 4 then 0x11
  else if p.1 ≠ s.stayPeer t ∨ p.2.1 ≠ s.stayPeerStay t then 5
  else if s.stayUse t = 1 ∧ !s.torusPeerOk t then 5
  else 0

/-- R386, R410, R411: what each stay saw at its far end, and PEER_MISMATCH where it is wrong. -/
def State.notePeers (s : State) (peers : List (Nat × Nat × Nat × Nat)) : State :=
  (List.range 12).foldl (fun t k =>
    if t.stayUse k = 0 ∨ !(t.stay k).up then t
    else
      let p := peers.getD k (0, 0, 0, 0)
      let u := t.modStay k (fun x => { x with seen := (p.1, p.2.1) })
      if u.peerStatus peers k = 5 then u.flag (bStay k + 0x18) 3 else u) s

/-- R343, R386, R508: the STATUS that a job start comes to; a check of its stays that fails at another module refuses it here. -/
def State.startStatus (s : State) (r : JobCheck) (b : JobBlock) : Nat :=
  let st := (List.range 12).map (s.peerStatus r.peers)
  if r.digests.any (fun d => d ≠ s.firstBlock.digest) then 5
  else if st.contains 0x11 ∨ r.refused = some 0x11 then 0x11
  else if st.contains 5 ∨ r.refused.isSome then 5
  else
    match r.join with
    | none => 0
    | some (top, halted) => if b.step ≠ top then 3 else if halted then 0 else 0x0A

/-- R123, R163: is an offset that of ME_PASS or VE_STATUS of a core: both show sequence numbers, 0 at a job's start. -/
def seqReg (off : Nat) : Bool :=
  let q := off % 0x100000
  0x10000000 ≤ off && off < 0x18000000 &&
    ((0x10000 ≤ q && q < 0x50000 && q % 0x10000 == 0x10) || q == 0x50008)

/-- R347, R356, R417, R444: the job runs: it waits for the STEP_OPEN of its first step. -/
def State.beginJob (s : State) (b : JobBlock) : State :=
  let s : State := { s with
    step := { job := true, block := b }
    telemSeq := 0
    tackle := []
    regs := s.regs.filter (fun p => !seqReg p.1)
    cores := s.cores.map (fun (p : Nat × Core) => (p.1, { p.2 with passSeq := 0, veSeq := 0, sfeSeq := 0, leSeq := 0 }))
    ctxs := s.ctxs.map (fun (x : Nat × Ctx) => (x.1, if x.2.cls = 2 then { x.2 with state := 2 } else x.2))
    masthead := { s.masthead with
      accum := b.accum, accumAt := [], published := [], opened := none, notices := [], noticeAt := none, settled := false
      releases := [], restagger := false } }
  let s := ((s.setReg bTell b.step).setReg (bTell + 0x10) (b.step - 1)).setReg (bTell + 0x18) (b.step - 1)
  let s := ((s.showBlock b).setStepState 1).setRfld (bTell + 8) 15 8 0
  s.startTrack.startStagger.enter .running

/-- JOB_START_CHECK (R37, R45, R343, R386, R508): the exchanges end; the job runs, or its start is refused. A job starts
in LOADED only. -/
def execJobStartCheck (r : JobCheck) (s : State) : Res :=
  match s.step.pendingStart with
  | none => .next s
  | some (e, restored) =>
    let s : State := { s with step := { s.step with pendingStart := none } }
    let s := s.notePeers r.peers
    let b := restored.getD s.firstBlock
    let st := if s.mode = .loaded then s.startStatus r b else 0x0A
    .next (if st = 0 then (s.beginJob b).respond e 0x40 0 [] else s.respond e 0x40 st [])

end Sys2Proof.Machine
end

