-- ==== Sys2Proof/Machine/Flash.lean ====
section
/-! DEFINITION. Module flash as commands see it: identity, attestation, the calibration block, firmware update, owner
keys (R490, R545–R557, R559, R560). -/
namespace Sys2Proof.Machine

/-! ## Identity and attestation (R465, R490, R535, R549, R552) -/

/-- IDENTITY: CHIP_ID, serial number, MAC base, SLOT_ID and the device chain. -/
def State.identityMsg (s : State) : Reply :=
  (0, [s.readReg 0, BitVec.ofNat 64 Config.serial, BitVec.ofNat 64 Config.macBase, BitVec.ofNat 64 s.pins.slotId] ++
    Config.deviceChain, s)

/-- R546: a calibration entry as 64 bytes. -/
def calEntryBytes (e : CalEntry) : List Byte :=
  leBytes 2 e.typ ++ leBytes 2 e.index ++ leBytes 4 e.writer ++ leBytes 8 e.time ++ leBytes 48 e.value

/-- R546: the entries of the block and zeros behind them, 65,280 bytes. -/
def calBody (es : List CalEntry) : List Byte :=
  let b := es.flatMap calEntryBytes
  b ++ List.replicate (65280 - b.length) 0

/-- R546: the whole block of 64 KiB. -/
def Flash.calBlock (f : Flash) : List Byte :=
  let b := calBody f.calEntries
  leBytes 4 0x4C414353 ++ leBytes 2 1 ++ leBytes 2 f.calEntries.length ++ leBytes 8 f.calWrites ++ sha384 b ++
    List.replicate 192 0 ++ b

/-- R547, R548: the block as it stands; what a damaged block holds is free. -/
def State.calBytes (s : State) : List Byte × State :=
  if s.flash.calDamaged then
    let f := s.takeFree
    (leBytes 65536 f.1, f.2)
  else (s.flash.calBlock, s)

/-- R490: the digest of the newest entry in flash. -/
def State.ledgerTip (s : State) : List Byte :=
  match lastOf s.flash.ledger with
  | some e => ledgerDigest e
  | none => List.replicate 48 0

/-- R336, R552: OWNER_KEY_ID, zero without an owner. -/
def State.ownerKeyId (s : State) : Nat := if s.flash.owner = 0 then 0 else ownerDigest s.flash.owner

/-- R552: bytes 0 to 415 of the report, over the bytes of the calibration block. -/
def State.reportBody (s : State) (nonce : Nat) (cal : List Byte) : List Byte :=
  let w := fun (x : Word) => leBytes 8 x.toNat
  leBytes 4 0x54535441 ++ leBytes 2 1 ++ leBytes 1 s.mode.code ++ leBytes 1 s.flash.runSlot ++ w (s.readReg 0) ++
    leBytes 8 Config.serial ++ leBytes 8 s.time.now ++ leBytes 48 nonce ++ leBytes 48 s.running.digest ++
    leBytes 4 s.running.version ++ leBytes 4 s.running.svn ++ leBytes 4 s.flash.fuseSvn ++ leBytes 4 s.calState ++
    leBytes 48 ((s.image.map (fun g => g.digest)).getD 0) ++ w (s.readReg (bRig + 0x18)) ++ sha384 cal ++
    leBytes 8 s.ledgerHead ++ s.ledgerTip ++ leBytes 48 s.ownerKeyId ++ w (s.reg 0x20) ++ w (s.reg 0x28) ++
    List.replicate 48 0

/-- ATTEST (R552): the report of 512 bytes, with the signature that the identity key gives. -/
def State.attestMsg (s : State) (nonce signature : Nat) : Reply :=
  let c := s.calBytes
  (0, bytesWords 64 (s.reportBody nonce c.1 ++ leBytes 96 signature), c.2)

/-! ## The calibration block (R546–R548) -/

/-- R546: may an entry of a type have an index. -/
def calIndexOk (typ index : Nat) : Bool :=
  match typ with
  | 1 => index < 96
  | 2 => index < 32
  | 3 => index < 16
  | 4 => index < 192
  | 5 => index == 0
  | 6 => index < 256
  | 7 => index < 8
  | _ => false

/-- R548: may an entry be written. -/
def calEntryOk (e : CalEntry) : Bool := calIndexOk e.typ e.index && Config.calInRange e.typ e.value

/-- R548: an entry replaces the one of its TYPE and INDEX, or is added. -/
def calPut (es : List CalEntry) (e : CalEntry) : List CalEntry :=
  let same := fun (x : CalEntry) => x.typ == e.typ && x.index == e.index
  if es.any same then es.map (fun x => if same x then e else x) else es ++ [e]

/-- R546: PTP seconds now; 0 when the module is not locked. -/
def State.calTime (s : State) : Nat := if s.ptpState = 2 then (s.ptpTime / 10 ^ 9).toNat else 0

/-- CAL_READ (R548): the block of 64 KiB. -/
def State.calReadMsg (s : State) : Reply :=
  let c := s.calBytes
  (0, bytesWords 8192 c.1, c.2)

/-- CAL_WRITE (R548, R557, R560): every entry replaces its like, by a user at the present time, and the block is
rewritten within 200 ms; a damaged block begins anew. -/
def State.calWriteMsg (s : State) (entries : List CalEntry) : Reply :=
  if s.load.isSome ∨ 127 < entries.length ∨ !entries.all calEntryOk then (0x0A, [], s)
  else
    let f := s.flash
    let old := if f.calDamaged then [] else f.calEntries
    let es := entries.foldl (fun l e => calPut l { e with writer := 1, time := s.calTime }) old
    let s : State := { s with flash := { f with
      calEntries := es, calWrites := f.calWrites + 1, calDamaged := false, calUntil := s.time.now + 200000000 } }
    (0, [], s.flag (bMod + 0x28) 2)

/-! ## Firmware update (R553–R556, R559) -/

/-- R555, R556: the slot that FW_STAGE writes: the one that does not run; slot A in recovery. -/
def Flash.stageSlot (f : Flash) : Nat := if f.recovery ∨ f.runSlot ≠ 0 then 0 else 1

/-- R553: a firmware slot replaced. -/
def Flash.setSlot (f : Flash) (n : Nat) (x : FwSlot) : Flash := if n = 0 then { f with slotA := x } else { f with slotB := x }

/-- R553, R559: what FW_STAGE finds wrong with an image, as FW_REFUSAL; 0 when it verifies. -/
def fwRefusal (fuseSvn : Nat) (f : FwImage) : Nat :=
  if !f.transferOk then 5
  else if 0x4000000 < f.size then 4
  else if !f.formatOk ∨ 64 < f.svn then 3
  else if !f.keyOk then 1
  else if f.svn < fuseSvn then 2
  else 0

/-- FW_STAGE (R555, R557, R560): the image is written into the slot that does not run and verified there. -/
def State.fwStageMsg (s : State) (f : FwImage) : Reply :=
  if s.load.isSome then (0x0A, [], s)
  else
    let n := s.flash.stageSlot
    let r := fwRefusal s.flash.fuseSvn f
    if r = 0 then
      let s : State := { s with flash := { s.flash.setSlot n ⟨true, f.version, f.svn, f.digest⟩ with staged := some n } }
      (0, [], s.flag (bMod + 0x28) 4)
    else
      let old := s.flash.slot n
      let s : State := { s with flash := s.flash.setSlot n { old with valid := false } }
      (0x0A, [], (s.setRfld (bMod + 0x18) 39 36 r).flag (bMod + 0x28) 5)

/-- FW_ACTIVATE (R555): the boot record prefers the staged slot, on trial. -/
def State.fwActivateMsg (s : State) : Reply :=
  match s.flash.staged with
  | none => (0x0A, [], s)
  | some n =>
    (0, [], { s with flash := s.flash.writeBoot { s.flash.bootRec with preferred := n, trial := true, attempted := false } })

/-! ## Owner keys (R550, R551, R557) -/

/-- R551: is the enrolment window open. -/
def State.windowStands (s : State) : Bool := s.time.now < s.enrollUntil

/-- R551: what the present owner signs to enrol a new key. -/
def State.enrollBytes (s : State) (key : Nat) : List Byte :=
  keyBytes key ++ leBytes 8 Config.serial ++ leBytes 8 s.flash.ownerCount

/-- R551: does the module accept a new owner key. -/
def State.mayEnroll (s : State) (key : Nat) (sig : Nat × Nat) : Bool :=
  (s.flash.owner == 0 && s.windowStands) ||
  (s.flash.owner != 0 && signedBy s.flash.owner (sha384 (s.enrollBytes key)) sig.1 sig.2) || (key == 0 && s.windowStands)

/-- OWNER_ENROLL (R551, R560): the owner record is written and the image cache erased; its sessions close once it is
answered. The first OWNER_ENROLL closes the window. -/
def State.ownerEnrollMsg (s : State) (key : Nat) (sig : Nat × Nat) : Reply :=
  let ok := s.mayEnroll key sig && s.load.isNone
  let s : State := { s with enrollUntil := 0 }
  if ok then
    let s : State := { s with flash := { s.flash with
      owner := key, ownerCount := s.flash.ownerCount + 1, ownerTime := (s.ptpTime / 10 ^ 9).toNat, cache := [] } }
    (0, [], s.flag (bMod + 0x28) 3)
  else (0x0A, [], s)

/-- ENROLL_WINDOW_OPEN (R536, R551): 0xA5 at hub offset 0x14 opens the window of a READY module for 600 s; other values
are ignored. -/
def execEnrollWindowOpen (value : Byte) (s : State) : Res :=
  .next (if s.mode = .ready ∧ value = 0xA5 then { s with enrollUntil := s.time.now + 600000000000 } else s)

/-- ENROLL_WINDOW_EXPIRY (R551): the window closes when its 600 s are over. -/
def execEnrollWindowExpiry (s : State) : Res :=
  .next (if s.enrollUntil ≤ s.time.now then { s with enrollUntil := 0 } else s)

end Sys2Proof.Machine
end

