-- ==== Sys2Proof/Machine/Ledger.lean ====
section
/-! DEFINITION. The fault ledger as commands see it, and plumb runs (R488, R489, R496–R499, R511–R513). -/
namespace Sys2Proof.Machine

/-! ## Reading and writing the ledger (R488, R489) -/

/-- LEDGER_READ (R489): the entries from a SEQ on, at most `count`, behind the SEQ of the first of them. -/
def State.ledgerReadMsg (s : State) (first count : Nat) : Reply :=
  if count = 0 ∨ 128 < count then (0x0A, [], s)
  else
    let es := (s.flash.ledger.filter (fun e => first ≤ e.seq)).take count
    (0, BitVec.ofNat 64 ((es.head?.map (fun e => e.seq)).getD 0) :: es.flatMap ledgerWords, s)

/-- LEDGER_COALESCE_EXPIRY (R488): the second of a buffered absorbed entry has passed: it is written. -/
def execLedgerCoalesceExpiry (n : Nat) (s : State) : Res :=
  match s.buffered[n]? with
  | some ⟨item, some t⟩ =>
    .next (if s.mode.powered ∧ t ≤ s.time.now then { s with buffered := s.buffered.eraseIdx n }.writeEntry item else s)
  | _ => .next s

/-- LEDGER_ENTRY_WRITTEN (R488): the oldest contained, module or information entry of the buffer is written. -/
def execLedgerEntryWritten (s : State) : Res :=
  match s.buffered.findIdx? (fun b => b.closes.isNone), s.buffered.find? (fun b => b.closes.isNone) with
  | some i, some b => .next (if s.mode.powered then { s with buffered := s.buffered.eraseIdx i }.writeEntry b.item else s)
  | _, _ => .next s

/-! ## Plumb runs (R496, R497) -/

/-- R497: the cores of a field in four groups of eight. -/
def plumbGroup (field group : Nat) : List Nat :=
  (((List.range 128).filter (fun n => coreField n = field)).drop (8 * group)).take 8

/-- R496: is a request refused. -/
def State.plumbRefused (s : State) (w : Word) : Bool :=
  let running := s.mode == .running
  let mode := fld w 2 2
  (mode == 0 && running) || (mode == 1 && !running) || decide (30 < fld w 7 3) || fld w 15 8 == 0 || s.plumb.isSome ||
    (mode == 1 && (List.range 16).all (fun p => !s.plumbPlan (fld w 1 0) p))

/-- PLUMB_SCHEDULE (R496, R514): runs begin, and a masthead passes the request on. -/
def State.plumbScheduleMsg (s : State) (w0 w1 : Word) : Reply :=
  if s.plumbRefused w0 then (0x0A, [], s)
  else
    let p : Plumb := { field := fld w0 1 0, mode := fld w0 2 2, left := fld w0 15 8, railMv := fld w0 7 3 }
    let s : State := { s with plumb := some p }
    (0, [], if s.isMasthead then s.toMembers 0x85 [w0, w1] else s)

/-! ## A core that cannot be saved or restored (R498) -/

/-- R318, R498: words of core `n` that lie in the partition of a used context. -/
def State.ownedWords (s : State) (n : Nat) : List Nat :=
  (List.range 1536).flatMap (fun (k : Nat) =>
    if s.ctxs.any (fun x => x.2.state ≠ 0 && x.2.cores.testBit n && x.2.csBase ≤ k && k < x.2.csBase + x.2.csSize) then
      (List.range 512).map (fun i => 512 * k + i)
    else [])

/-- R219, R498: the core store of `n`: zero, with every owned word poisoned. -/
def State.loseStore (s : State) (n : Nat) : State :=
  let lo := csAddr n 0
  let k0 := sramKey 1 n 0
  { s with
    mem := s.mem.filter (fun p => p.1 < lo || lo + 0x600000 ≤ p.1)
    sramErr := s.sramErr.filter (fun p => p.1 < k0) ++ (s.ownedWords n).map (fun w => (k0 + w, sramPoison)) ++
      s.sramErr.filter (fun p => k0 + 786432 ≤ p.1) }

/-- R497: what a run leaves in the engines of a core that no job uses. -/
def Core.reinit (k : Core) : Core :=
  { k with vregs := [], slices := [], fifos := [], fillDue := [], rsFifo := [], smFifo := [], stream := [], cache := [], tlb := [] }

/-- R498: the fallback path of a core: its engines are reset, what its store held is lost, and a failing memory BIST
fences it and classifies it permanent. -/
def State.loseCore (s : State) (n : Nat) (bistOk : Bool) : State :=
  let s := (s.modCore n Core.reinit).loseStore n
  if bistOk then s else (s.classify 1 n).fenceCore n 4

/-! ## A unit ends (R497–R499) -/

/-- R499: the code of a core's result. -/
def resultCode : PlumbResult → Nat
  | .pass => 0
  | .stressOnly => 1
  | .nominal => 2
  | .lost _ => 3

/-- R498, R499: what a core's result does at once. -/
def State.plumbCore (s : State) (n : Nat) (r : PlumbResult) : State :=
  match r with
  | .pass => s
  | .stressOnly => s.flag (bFault + 0x08) 6
  | .nominal => ((s.flag (bFault + 0x08) 6).classify 1 n).fenceCore n 4
  | .lost ok => s.loseCore n ok

/-- R497, R499: the results of a unit that count: those of cores of the group under test that are not fenced. -/
def State.unitResults (s : State) (p : Plumb) (r : PlumbUnit) : List (Fin 128 × PlumbResult) :=
  r.results.filter (fun x => (plumbGroup p.field p.group).contains x.1.val && !s.fenced x.1)

/-- R499: the run after a unit's results: of each core the worst one. -/
def Plumb.take (p : Plumb) (xs : List (Fin 128 × PlumbResult)) : Plumb :=
  { p with results := xs.foldl (fun m x => kmod 0 m x.1.val (fun c => max c (resultCode x.2))) p.results }

/-- R497, R499, R511: a run is complete: an entry for each tested core, PLUMB_STATUS, and the cores begin anew; in an
idle phase only what no result depends on is cleared. -/
def State.endRun (s : State) (p : Plumb) : State :=
  let cores := (List.range 128).filter (fun n => coreField n = p.field ∧ (!s.fenced n ∨ kget 0 p.results n ≠ 0))
  let s := cores.foldl (fun t n =>
    t.record { kind := 0x4B, cls := 3, unitType := 1, unit := n, d0 := BitVec.ofNat 64 (kget 0 p.results n) }) s
  let marginal := (p.results.filter (fun r => r.2 = 1)).length
  let r := s.reg (bFault + 0x20)
  let r := setFld (setFld r 63 48 ((fld r 63 48 + 1) % 65536)) 47 32 ((fld r 47 32 + marginal) % 65536)
  let s := s.setReg (bFault + 0x20) (setFld (setFld r 11 10 p.field) 4 0 31)
  let s := cores.foldl (fun t n => t.modCore n (fun k =>
    if s.mode ≠ .running then k.reinit else { k with cache := [], tlb := [] })) s
  { s with plumb := if p.left ≤ 1 then none else some { p with left := p.left - 1, step := 0, group := 0, results := [] } }

/-- R497: the next unit: the next group, the next rail step, or the end of the run. -/
def State.nextUnit (s : State) (p : Plumb) : State :=
  if p.group < 3 then { s with plumb := some { p with group := p.group + 1 } }
  else if p.step < 2 then { s with plumb := some { p with group := 0, step := p.step + 1 } }
  else s.endRun p

/-- PLUMB_UNIT_DONE (R497–R499): a unit of 30 ms ends. -/
def execPlumbUnitDone (r : PlumbUnit) (s : State) : Res :=
  match s.plumb with
  | none => .next s
  | some p =>
    if s.unitMayRun p then
      let xs := s.unitResults p r
      .next ((xs.foldl (fun t x => t.plumbCore x.1 x.2) s).nextUnit (p.take xs))
    else .next s

end Sys2Proof.Machine
end

