-- ==== Sys2Proof/Machine/Masthead.lean ====
section
/-! DEFINITION. What a masthead does beside the step (R466, R514–R518, R523, R528, R533): telemetry, the event intake,
the power budget, group and job battens, and messages to its members. -/
namespace Sys2Proof.Machine

/-! ## Telemetry records (R515) -/

/-- R515: a signed field of a record. -/
def recInt (r : List Word) (i hi lo n : Nat) : Int := signed n (wfld r i hi lo)

/-- R515: this module's record of an interval. -/
def State.ownRecord (s : State) (t : TelemSample) : List Word :=
  let th := s.reg (bMod + 0x10)
  [packWord [(48, s.moduleNo), (44, s.mode.code), (39, s.reefTarget), (0, s.telemSeq % 2 ^ 32)], BitVec.ofNat 64 s.time.now,
    packWord [(32, t.avgW % 2 ^ 32), (16, t.vin % 65536), (0, t.peakW % 65536)],
    packWord [(56, fld th 63 56), (48, fld th 55 48), (32, ((List.range 128).filter s.fenced).length)],
    s.reg (bPower + 0x100),
    packWord [(32, s.rfld (bTime + 0x18) 63 32), (28, s.ptpState)], BitVec.ofNat 64 s.ledgerHead, 0]

/-- Sum of a field over records. -/
def sumField (rs : List (List Word)) (i hi lo : Nat) : Nat := (rs.map (fun r => wfld r i hi lo)).foldl (· + ·) 0
/-- Least value of a field over records, not above `d`. -/
def leastField (d : Nat) (rs : List (List Word)) (i hi lo : Nat) : Nat := (rs.map (fun r => wfld r i hi lo)).foldl min d
/-- Greatest value of a field over records. -/
def mostField (rs : List (List Word)) (i hi lo : Nat) : Nat := (rs.map (fun r => wfld r i hi lo)).foldl max 0
/-- Greatest value of a signed byte over records. -/
def hotField (rs : List (List Word)) (i hi lo : Nat) : Nat :=
  unsigned 8 ((rs.map (fun r => recInt r i hi lo 8)).foldl max (-128))
/-- PTP_OFFSET of the largest magnitude over records. -/
def farOffset (rs : List (List Word)) : Nat :=
  int32 ((rs.map (fun r => recInt r 5 63 32 32)).foldl (fun (a b : Int) => if a.natAbs < b.natAbs then b else a) 0)

/-- R515: the aggregate of a group: its masthead's own record first. -/
def aggregateOf (own : List Word) (members : List (List Word)) : List Word :=
  let rs := own :: members
  [packWord [(48, wfld own 0 63 48), (44, leastField 15 rs 0 47 44), (39, leastField 31 rs 0 43 39), (0, wfld own 0 31 0)],
    wd own 1,
    packWord [(32, sumField rs 2 63 32 % 2 ^ 32), (16, leastField 65535 rs 2 31 16), (0, mostField rs 2 15 0)],
    packWord [(56, hotField rs 3 63 56), (48, hotField rs 3 55 48), (32, sumField rs 3 47 32 % 65536)],
    BitVec.ofNat 64 ((rs.map (fun r => (wd r 4).toNat)).foldl (· + ·) 0),
    packWord [(32, farOffset rs), (28, mostField rs 5 31 28)], 0, 0]

/-- R514: the newest records of the workers of this masthead's group. -/
def State.groupRecords (s : State) : List (List Word) :=
  (s.masthead.records.filter (fun p => p.1 / 512 = s.group)).map (fun p => p.2)

/-- R528, R529: the budget's step, once an interval: the group's ceiling goes down or up one level and is written again,
but not while a load step is staggered. -/
def State.budgetStep (s : State) (own : List Word) : State :=
  let budget := s.rfld bMh 63 32
  if budget = 0 then s
  else
    let sum := sumField (own :: s.groupRecords) 2 63 32
    let old := s.masthead.ceiling
    let new := if budget < sum then old - 1 else if sum * 100 < budget * 95 then min 16 (old + 1) else old
    let s : State := { s with masthead := { s.masthead with ceiling := new } }
    let s := if budget < sum then s.flag (bMh + 0x50) 3 else s
    if s.masthead.stagger.isSome then s else s.setCeilings s.groupModules new

/-- TELEMETRY_INTERVAL (R515, R528): the module's record leaves; a masthead works on its group's. -/
def execTelemetryInterval (t : TelemSample) (s : State) : Res :=
  if s.mode = .loaded ∨ s.mode = .running ∨ s.mode = .halted then
    let s : State := { s with telemSeq := if s.step.job then s.telemSeq + 1 else 0 }
    let own := s.ownRecord t
    let toM := fun (x : Session) => x.level == 3
    if s.isMasthead then
      let s := if s.isTop then s else s.notifyWhere toM 0x81 (aggregateOf own s.groupRecords)
      .next (s.budgetStep own)
    else .next (s.notifyWhere toM 0x81 own)
  else .next s

/-! ## Event intake (R516, R517) -/

/-- R516: does a key stand for the events of an entry. -/
def keyOf (e : LedgerItem) (k : Key) : Bool := k.kind == e.kind && k.unitType == e.unitType && k.unit == e.unit

/-- R516: an entry counts in its key, or in its KIND when the table of 1,024 keys is full. -/
def State.countKey (s : State) (bit : Nat) (e : LedgerItem) : State :=
  let m := s.masthead
  if m.keys.any (keyOf e) then
    { s with masthead := { m with
      keys := m.keys.map (fun k => if keyOf e k then { k with count := k.count + e.count, mask := k.mask ||| 1 <<< bit } else k) } }
  else if m.keys.length < 1024 then
    { s with masthead := { m with keys := m.keys ++ [⟨e.kind, e.unitType, e.unit, e.count, 1 <<< bit⟩] } }
  else
    ({ s with masthead := { m with overflow := kmod 0 m.overflow e.kind (fun n => n + e.count) } }.flag (bMh + 0x50) 1).count
      (bMh + 0x110) 1

/-- R516, R517: an entry enters the detail queue and goes to the host sessions subscribed to its class, or its details are
dropped. -/
def State.queueEntry (s : State) (e : LedgerItem) : State :=
  if s.masthead.queue.length < 4096 then
    { s with masthead := { s.masthead with queue := s.masthead.queue ++ [e] } }.notifyWhere
      (fun x => x.level != 3 && x.classes.testBit e.cls) 0x81 (ledgerWords e)
  else (s.flag (bMh + 0x50) 0).count (bMh + 0x108) 1

/-- R516, R517: an entry of member `m` is taken in; a group masthead passes contained and module entries on. -/
def State.intake (s : State) (m : Nat) (e : LedgerItem) : State :=
  let s := if e.cls = 2 then s.memberMissing m else s
  let s := (s.countKey (s.memberBit m) e).queueEntry e
  if !s.isTop ∧ (e.cls = 1 ∨ e.cls = 2) then s.notifyWhere (fun x => x.level == 3) 0x81 (ledgerWords e) else s

/-- R515, R533: a telemetry record of member `m` replaces its last; the first record of a job from a member marked missing
shows that its JOB_START has succeeded. -/
def State.takeRecord (s : State) (m : Nat) (ws : List Word) : State :=
  let s : State := { s with masthead := { s.masthead with
    records := kput s.masthead.records m ws, recordAt := kput s.masthead.recordAt m s.time.now } }
  let s := s.count (bMh + 0x118) 1
  let st := wfld ws 0 47 44
  if s.isMissing m ∧ wfld ws 0 31 0 = 1 ∧ (st = 5 ∨ st = 6) then s.memberBack m else s

/-- R461, R470: a datagram is dropped. -/
def State.dropGram (s : State) (h : Nat) : State := s.count (bPort h + 0x150) 1

/-- R461, R470: a datagram is accepted. -/
def State.takeGram (s : State) (h : Nat) : State := (s.frameIn h 48).count (bPort h + 0x148) 1

/-- R516: the masthead acknowledges a notification. -/
def State.ackEvent (s : State) (e : Env) : State :=
  (s.frameOut e.port 48).send { kind := .acknowledgement, dest := e.session, code := 0x81, words := [BitVec.ofNat 64 e.seq] }

/-- EVENT (R461, R515, R516, R533): every EVENT is acknowledged, a repeat too; it is taken in once. -/
def execEvent (e : Env) (payload : EventPayload) (s : State) : Res :=
  let heard := kget [] s.masthead.heard e.session
  if !s.mode.powered ∨ !s.isMasthead ∨ !e.good ∨ e.seq = 0 ∨ e.seq + 64 ≤ heard.foldl max 0 then
    .next (if s.mode.powered then s.dropGram e.port else s)
  else
    let s := (s.takeGram e.port).ackEvent e
    if heard.contains e.seq then .next s
    else
      let s : State := { s with masthead := { s.masthead with
        heard := kput s.masthead.heard e.session ((e.seq :: heard).take 64) } }
      match payload with
      | .entry m i => .next ((s.count (bMh + 0x100) 1).intake m i)
      | .record m ws => .next ((s.count (bMh + 0x100) 1).takeRecord m ws)

/-! ## TELEMETRY_READ (R518) -/

/-- R8, R9, R482, R518: device-space reads in order; a refusal or a poisoned word ends them with its STATUS. -/
def State.readAll (s : State) : List Nat → Reply
  | [] => (0, [], s)
  | a :: r =>
    match s.readDevice a with
    | (none, t) => (0x0A, [], t)
    | (some (_, true), t) => (6, [], t)
    | (some (w, false), t) =>
      let x := t.readAll r
      (x.1, w :: x.2.1, x.2.2)

/-- R518, R524: the batten shadow of an address. -/
def State.shadow (s : State) (a : Nat) : Word :=
  if a < 0x020000000000 then 0 else kget 0 s.time.shadows (a - 0x020000000000)

/-- R518: the response's header, with its items behind it. -/
def telemHeader (id items : Nat) (time : Word) (ws : List Word) : List Word :=
  packWord [(48, id), (40, items)] :: time :: ws

/-- R518: a key as ten words. -/
def keyWords (k : Key) : List Word :=
  [packWord [(56, k.kind % 256), (52, k.unitType % 16), (34, k.unit % 2 ^ 18)], BitVec.ofNat 64 k.count] ++
    (List.range 8).map (fun i => BitVec.ofNat 64 (k.mask >>> (64 * i)))

/-- R518: the sources that only a masthead has. -/
def State.mastheadItems (s : State) (source count first : Nat) : Nat × List Word × State :=
  let m := s.masthead
  match source with
  | 2 =>
    let rs := ((m.records.filter (fun p => first ≤ s.memberBit p.1)).map (fun p => p.2)).take count
    (rs.length, rs.flatten, s)
  | 3 =>
    let es := m.queue.take count
    (es.length, es.flatMap ledgerWords, { s with masthead := { m with queue := m.queue.drop count } })
  | 4 =>
    let n := min count 100
    let ks := (m.keys.drop first).take n
    (ks.length, ks.flatMap keyWords, { s with masthead := { m with keys := m.keys.take first ++ m.keys.drop (first + n) } })
  | _ =>
    let ks := ((List.range 256).drop first).take count
    (ks.length, ks.map (fun k => BitVec.ofNat 64 (kget 0 m.overflow k)),
      { s with masthead := { m with overflow := m.overflow.filter (fun p => !ks.contains p.1) } })

/-- TELEMETRY_READ (R518). -/
def State.telemetryReadMsg (s : State) (source count first : Nat) (addrs : List Nat) : Reply :=
  let now := BitVec.ofNat 64 s.time.now
  if count = 0 ∨ 127 < count ∨ 5 < source then (0x0A, [], s)
  else if source = 0 then
    if addrs.length ≠ count then (0x0A, [], s)
    else
      let r := s.readAll addrs
      (r.1, telemHeader 0 r.2.1.length now r.2.1, r.2.2)
  else if source = 1 then
    if addrs.length ≠ count then (0x0A, [], s)
    else (0, telemHeader (s.rfld (bTime + 0x20) 47 32) count (s.reg (bTime + 0x30)) (addrs.map s.shadow), s)
  else if !s.isMasthead then (0x0A, [], s)
  else
    let r := s.mastheadItems source count first
    (0, telemHeader 0 r.1 now r.2.1, r.2.2)

/-! ## BATTEN_SCHEDULE (R523) -/

/-- R523: the least lead; a batten that a masthead has passed on needs the lead of module time. -/
def battenLead (scope : Nat) (passedOn : Bool) : Nat :=
  if passedOn ∨ scope = 0 then 50000 else if scope = 1 then 1000000 else 2000000

/-- R523: does the module take a batten: its role, the lead, no batten pending, locked. -/
def State.battenOk (s : State) (passedOn : Bool) (scope at_ : Nat) : Bool :=
  (match scope with
    | 0 => true
    | 1 => passedOn || s.isMasthead
    | 2 => passedOn || s.isTop
    | _ => false) &&
  decide (s.time.now + battenLead scope passedOn ≤ at_) && s.time.batten.isNone && s.masthead.battenReply.isNone &&
  (scope == 0 || s.ptpState == 2)

/-- R514, R523: the members that a batten goes on to. -/
def State.battenMembers (s : State) (scope : Nat) : List Nat :=
  if !s.isMasthead ∨ scope = 0 then []
  else s.memberTable.filter (fun m => scope = 2 ∨ m / 512 = s.group)

/-- R523: the response of a masthead. -/
def battenWords (accepted refused : Nat) : List Word :=
  BitVec.ofNat 64 accepted :: (List.range 8).map (fun i => BitVec.ofNat 64 (refused >>> (64 * i)))

/-- BATTEN_SCHEDULE (R523, R530): the batten is set; a masthead passes it on and answers when its members have. -/
def State.battenMsg (s : State) (e : Env) (passedOn : Bool) (id scope : Nat) (t : Word) : Answer :=
  let at_ := if scope = 0 then t.toNat else s.toModuleTime t.toNat
  if s.battenOk passedOn scope at_ then
    let s : State := { s with time := { s.time with batten := some ⟨id, scope, t.toNat, at_⟩ } }
    let s := s.setReg (bTime + 0x28) (BitVec.ofNat 64 at_)
    if scope = 0 ∨ !s.isMasthead then (some (0, []), s)
    else
      let ms := s.battenMembers scope
      if ms = [] then (some (0, battenWords 0 0), s)
      else
        let s := ms.foldl (fun u m => u.mhRequest m 0x83 [packWord [(48, id % 65536), (46, scope % 4)], t]) s
        (none, { s with masthead := { s.masthead with battenReply := some (e, ms, 0, 0) } })
  else (some (0x0A, []), s)

/-- R523: member `m` has accepted or refused the batten, or is unreachable. -/
def State.battenAnswered (s : State) (m : Nat) (ok : Bool) : State :=
  match s.masthead.battenReply with
  | none => s
  | some (e, ms, accepted, refused) =>
    if ms.contains m then
      let ms := ms.filter (fun x => x ≠ m)
      let accepted := if ok then accepted + 1 else accepted
      let refused := if ok then refused else refused ||| 1 <<< s.memberBit m
      if ms = [] then
        { s with masthead := { s.masthead with battenReply := none } }.respond e 0x83 0 (battenWords accepted refused)
      else { s with masthead := { s.masthead with battenReply := some (e, ms, accepted, refused) } }
    else s

/-! ## Messages to members (R466, R507, R562) -/

/-- R466, R507: a member has answered none of four sends. -/
def State.unreachable (s : State) (r : Outgoing) : State :=
  (if r.code = 0x83 then s.battenAnswered r.session false else s).memberMissing r.session

/-- MASTHEAD_RESEND (R466): 4 µs without an answer: the n-th request goes to the member's other network address, up to
four sends; after that the member is unreachable. -/
def execMastheadResend (n : Nat) (s : State) : Res :=
  match s.masthead.requests[n]? with
  | none => .next s
  | some r =>
    let rs := s.masthead.requests
    if r.sends < 4 then
      let s : State := { s with masthead := { s.masthead with requests := rs.set n { r with sends := r.sends + 1 } } }
      .next ((s.gramOut r.words.length).send { kind := .mhRequest, dest := r.session, code := r.code, status := r.sends % 2, words := r.words })
    else .next ({ s with masthead := { s.masthead with requests := rs.eraseIdx n } }.unreachable r)

/-- R466, R523, R562: a member answers request `seq`; a step message that it refuses is recorded. -/
def State.memberAnswer (s : State) (m seq status : Nat) : State :=
  match s.masthead.requests.find? (fun r => r.session = m ∧ r.seq = seq) with
  | none => s
  | some r =>
    let s : State := { s with masthead := { s.masthead with
      requests := s.masthead.requests.filter (fun x => !(x.session = m ∧ x.seq = seq)) } }
    if r.code = 0x83 then s.battenAnswered m (status == 0)
    else if status = 3 ∧ 0x53 ≤ r.code ∧ r.code ≤ 0x55 then s.record { kind := 0x03, cls := 3 }
    else s

end Sys2Proof.Machine
end

