-- ==== Sys2Proof/Machine/Session.lean ====
section
/-! DEFINITION. Halyard sessions (R461–R466, R471, R556): opening and closing, which message a session may send, and the
order in which requests execute. -/
namespace Sys2Proof.Machine

/-! ## Messages and who may send them (R465) -/

/-- A message: its code, the lowest level that may send it (9: masthead sessions only), whether it is marked M, the states
it is permitted in, its envelope. -/
structure Msg where
  code   : Nat
  level  : Nat
  marked : Bool
  states : List ModState
  env    : Env

def sRun : List ModState := [.loaded, .running, .halted]
def sLoaded : List ModState := [.ready, .loaded, .running, .halted]
def sRead : List ModState := [.ready, .loaded, .running, .halted, .faulted]
def sAll : List ModState := [.selftest, .ready, .loaded, .running, .halted, .faulted]

/-- R465: the table of messages. A PLUMB_SCHEDULE that uses a reserved field is dropped (R461, R496). -/
def msgOf (i : Instr) : Option Msg :=
  match i with
  | .close e => some ⟨0x05, 0, false, sAll, e⟩
  | .keepalive e => some ⟨0x06, 0, false, sAll, e⟩
  | .identity e => some ⟨0x10, 0, false, sAll, e⟩
  | .attest e _ _ => some ⟨0x11, 0, false, sAll, e⟩
  | .regRead e _ => some ⟨0x20, 1, true, sRead, e⟩
  | .regWrite e _ => some ⟨0x21, 2, true, sLoaded, e⟩
  | .rigLoad e _ _ => some ⟨0x30, 2, false, [.ready], e⟩
  | .rigLoadCached e _ => some ⟨0x31, 2, false, [.ready], e⟩
  | .rigCacheList e => some ⟨0x32, 2, false, sLoaded, e⟩
  | .rigCacheDelete e _ => some ⟨0x33, 2, false, sLoaded, e⟩
  | .jobStart e _ => some ⟨0x40, 2, false, [.loaded], e⟩
  | .jobHalt e => some ⟨0x41, 2, true, [.running], e⟩
  | .jobResume e => some ⟨0x42, 2, true, [.halted], e⟩
  | .unload e => some ⟨0x43, 2, false, [.loaded, .halted], e⟩
  | .reset e => some ⟨0x44, 2, false, sRead, e⟩
  | .snapshot e _ _ _ => some ⟨0x45, 2, false, [.running, .halted], e⟩
  | .published e _ => some ⟨0x50, 2, false, [.running], e⟩
  | .rollbackRequest e _ => some ⟨0x51, 2, false, [.running], e⟩
  | .setAccum e _ _ => some ⟨0x52, 2, false, sRun, e⟩
  | .stepOpen e _ _ _ => some ⟨0x53, 9, true, sRun, e⟩
  | .closed e _ _ => some ⟨0x54, 9, true, sRun, e⟩
  | .rollback e _ => some ⟨0x55, 9, true, sRun, e⟩
  | .mapPages e _ _ => some ⟨0x60, 2, false, sRun, e⟩
  | .unmapPages e _ _ => some ⟨0x61, 2, false, sRun, e⟩
  | .setRegion e _ _ _ _ => some ⟨0x62, 2, false, sRun, e⟩
  | .qpConnect e _ _ _ _ => some ⟨0x63, 2, false, sLoaded, e⟩
  | .qpClose e _ => some ⟨0x64, 2, false, sLoaded, e⟩
  | .openRegion e _ => some ⟨0x65, 2, false, sRun, e⟩
  | .setAddr e _ _ => some ⟨0x70, 2, false, sLoaded, e⟩
  | .linkRetrain e => some ⟨0x71, 2, false, [.ready, .loaded, .halted], e⟩
  | .macsecCak e _ _ => some ⟨0x72, 2, false, [.ready, .loaded, .halted], e⟩
  | .subscribe e _ => some ⟨0x80, 1, true, sRead, e⟩
  | .telemetryRead e _ _ _ _ => some ⟨0x82, 1, true, sRead, e⟩
  | .battenSchedule e _ _ _ => some ⟨0x83, 2, true, sLoaded, e⟩
  | .ledgerRead e _ _ => some ⟨0x84, 1, true, sRead, e⟩
  | .plumbSchedule e w0 w1 => some ⟨0x85, 2, true, sRun, { e with good := e.good && fld w0 63 16 == 0 && w1 == 0 }⟩
  | .calRead e => some ⟨0x90, 1, false, sRead, e⟩
  | .calWrite e _ => some ⟨0x91, 2, false, [.ready], e⟩
  | .fwStage e _ => some ⟨0xA0, 2, false, [.ready], e⟩
  | .fwActivate e => some ⟨0xA1, 2, false, [.ready], e⟩
  | .ownerEnroll e _ _ => some ⟨0xB0, 0, false, [.ready], e⟩
  | _ => none

/-- R463: may a session of a level send a message; a masthead session sends those marked M and those of level 0. -/
def levelMay (level : Nat) (m : Msg) : Bool :=
  m.level == 0 || if level = 3 then m.marked else m.level ≤ level

/-- R556: the messages of the boot ROM recovery service. -/
def inRecovery (code : Nat) : Bool := code == 0x10 || code == 0x11 || code == 0xA0 || code == 0xA1 || code == 0x44

/-- R465, R556: is a message permitted. -/
def State.permits (s : State) (level : Nat) (m : Msg) : Bool :=
  levelMay level m && if s.flash.recovery then inRecovery m.code else m.states.contains s.mode

/-! ## Opening a session (R462, R463) -/

def State.sessionOf (s : State) (id : Nat) : Option Session := s.sessions.find? (fun x => x.id = id)

/-- Changes the session `id`. -/
def State.modSession (s : State) (id : Nat) (f : Session → Session) : State :=
  { s with sessions := s.sessions.map (fun x => if x.id = id then f x else x) }

/-- R37: the states in which halyard messages are taken at all. -/
def State.listens (s : State) : Bool := sAll.contains s.mode

/-- HELLO (R462, R463): HELLO_M opens a handshake; with 16 sessions open it carries E_PERM and no session. -/
def execHello (h : Hello) (s : State) : Res :=
  if s.listens then
    let s := (s.takeGram h.port).frameOut h.port 4096
    if 16 ≤ s.sessions.length then .next (s.send { kind := .helloM, status := 0x0A })
    else
      let id := s.nextSession
      let s : State := { s with nextSession := id + 1, shakes := s.shakes ++ [⟨id, h, s.time.now⟩] }
      .next (s.send { kind := .helloM, dest := id, words := [BitVec.ofNat 64 id] })
  else .next s

/-- R463: the level that a handshake is granted; none when it fails. A client gets the level it requests, or the lower one
that its certificate supports. -/
def State.grant (s : State) (h : Hello) (a : Auth) : Option Nat :=
  if !a.sigOk || !h.chainOk then none
  else if h.level = 3 then
    if h.silileRoot && h.module == s.myMasthead && a.digestOk && s.image.isSome && sRun.contains s.mode then some 3 else none
  else if h.ownerSigned && s.flash.owner != 0 then some (min h.level (if h.readOnly then 1 else 2))
  else some 0

/-- R471: a handshake fails. -/
def State.authFailed (s : State) : State := (s.count (bHly + 0x108) 1).flag (bHly + 0x08) 1

/-- AUTH (R462, R463, R471): within 1 s of HELLO_M, the session opens at the level granted and AUTH_OK leaves as its first
message. -/
def execAuth (a : Auth) (s : State) : Res :=
  if s.listens then
    match s.shakes.find? (fun x => x.id = a.session) with
    | none => .next (s.dropGram a.port)
    | some k =>
      let s : State := { s with shakes := s.shakes.filter (fun x => x.id ≠ a.session) }
      if k.since + 10 ^ 9 < s.time.now then .next (s.dropGram a.port)
      else
        let s := s.takeGram a.port
        match s.grant k.hello a, decide (s.sessions.length < 16) with
        | some level, true =>
          let x : Session := { id := k.id, level := level, module := k.hello.module, lastUse := s.time.now
                               openedAt := s.time.now, outSeq := 2 }
          let s : State := { s with sessions := s.sessions ++ [x] }
          let s := ((s.count (bHly + 0x100) 1).flag (bHly + 0x08) 0).frameOut a.port 48
          .next (s.send { kind := .authOk, dest := k.id, words := [BitVec.ofNat 64 level] })
        | _, _ => .next s.authFailed
  else .next s

/-- HANDSHAKE_TIMEOUT (R462): 1 s has passed: the handshake is discarded. -/
def execHandshakeTimeout (session : Nat) (s : State) : Res :=
  .next { s with shakes := s.shakes.filter (fun x => !(x.id = session ∧ x.since + 10 ^ 9 ≤ s.time.now)) }

/-! ## Closing (R462, R463) -/

/-- R462: the module closes a session with CLOSE and E_PERM. -/
def State.closeOut (s : State) (id : Nat) : State :=
  (s.gramOut 0).send { kind := .notification, dest := id, code := 0x05, status := 0x0A } |>.closeSession id

/-- SESSION_IDLE_TIMEOUT (R463): 60 s without a message. -/
def execSessionIdleTimeout (session : Nat) (s : State) : Res :=
  match s.sessionOf session with
  | some x => .next (if x.lastUse + 60 * 10 ^ 9 ≤ s.time.now then s.closeSession session else s)
  | none => .next s

/-- SESSION_LIMIT_EXPIRY (R462): 24 h, or 2^32 messages of the module. -/
def execSessionLimitExpiry (session : Nat) (s : State) : Res :=
  match s.sessionOf session with
  | some x =>
    .next (if x.openedAt + day ≤ s.time.now ∨ 2 ^ 32 < x.outSeq then s.closeOut session else s)
  | none => .next s

/-! ## What single messages do -/

/-- R8, R9, R482: what a REG_READ answers an address: E_PERM where the access is refused, E_POISON for a poisoned word, and
the value. -/
def readAnswer : Option (Word × Bool) → Nat × Word
  | none => (0x0A, 0)
  | some (_, true) => (6, 0)
  | some (w, false) => (0, w)

/-- R465, R482: every address is answered with its STATUS and its value; the response carries the first STATUS that is
not 0. -/
def State.readEach (s : State) : List Nat → Reply
  | [] => (0, [], s)
  | a :: r =>
    let x := s.readDevice a
    let v := readAnswer x.1
    let y := x.2.readEach r
    (if v.1 = 0 then y.1 else v.1, BitVec.ofNat 64 v.1 :: v.2 :: y.2.1, y.2.2)

/-- REG_READ (R465): 1 to 64 addresses. -/
def State.regReadMsg (s : State) (addrs : List Nat) : Reply :=
  if addrs = [] ∨ 64 < addrs.length then (0x0A, [], s) else s.readEach addrs

/-- R465: writes in order up to the first that is refused: how many were applied. -/
def State.writeAll (s : State) (src : Sender) : Nat → List (Nat × Word) → Nat × Bool × State
  | n, [] => (n, true, s)
  | n, p :: r =>
    match s.writeDevice src p.1 p.2 with
    | none => (n, false, s)
    | some t => t.writeAll src (n + 1) r

/-- REG_WRITE (R465): 1 to 64 pairs; the response says how many were applied. -/
def State.regWriteMsg (s : State) (src : Sender) (pairs : List (Nat × Word)) : Reply :=
  if pairs = [] ∨ 64 < pairs.length then (0x0A, [0], s)
  else
    let r := s.writeAll src 0 pairs
    (if r.2.1 then 0 else 0x0A, [BitVec.ofNat 64 r.1], r.2.2)

/-- R309: where the 64 KiB entry of each address lies and what it holds; none when one has no entry. -/
def State.entriesOf (s : State) (c : Nat) : List Nat → Option (List (Nat × Word)) × State
  | [] => (some [], s)
  | va :: r =>
    match s.entryOfVa c va with
    | (.fault _ _, t) => (none, t)
    | (.at a e, t) =>
      let x := t.entriesOf c r
      (x.1.map (fun l => (a, e) :: l), x.2)

/-- R312: the entries written, and the invalidation that the request waits for. -/
def State.writeEntries (s : State) (e : Env) (code c : Nat) (vas : List Nat) (ws : List (Nat × Word)) : Answer :=
  match vas with
  | [] => (some (0, []), s)
  | v :: _ =>
    let s := ws.foldl (fun (t : State) p => t.writeWordPa 0 p.1 p.2) s
    let at_ := vas.map (fun a => a % 2 ^ 57 / 65536 * 65536)
    let lo := at_.foldl min (v % 2 ^ 57 / 65536 * 65536)
    let hi := at_.foldl max 0 + 65536
    let i : Inval := { asid := (s.ctx c).asid, lo := lo, hi := hi, reply := some (e, code) }
    (none, { s with invals := s.invals ++ [i] })

/-- MAP_PAGES (R309, R312): invalid entries become valid ones; anything else is refused whole. -/
def State.mapPagesMsg (s : State) (e : Env) (c : Nat) (entries : List (Nat × Word)) : Answer :=
  let r := s.entriesOf c (entries.map (fun p => p.1))
  match r.1 with
  | some l =>
    if (s.ctx c).state ≠ 0 ∧ l.all (fun p => !bitAt p.2 0) ∧ entries.all (fun p => bitAt p.2 0) then
      r.2.writeEntries e 0x60 c (entries.map (fun p => p.1)) ((l.zip entries).map (fun x => (x.1.1, x.2.2)))
    else (some (0x0A, []), r.2)
  | none => (some (0x0A, []), r.2)

/-- UNMAP_PAGES (R309, R312): entries become invalid, of a saved context or in HALTED. -/
def State.unmapPagesMsg (s : State) (e : Env) (c : Nat) (vas : List Nat) : Answer :=
  if (s.ctx c).state = 4 ∨ (s.mode = .halted ∧ (s.ctx c).state ≠ 0) then
    let r := s.entriesOf c vas
    match r.1 with
    | some l => r.2.writeEntries e 0x61 c vas (l.map (fun p => (p.1, clearBit p.2 0)))
    | none => (some (0x0A, []), r.2)
  else (some (0x0A, []), s)

/-- SET_REGION (R456): BASE and RKEY of a region entry. -/
def State.setRegionMsg (s : State) (c region base rkey : Nat) : Reply :=
  let x := s.ctx c
  if region < x.regions ∧ base % 65536 = 0 ∧ base < 2 ^ 64 ∧ (s.mode = .loaded ∨ s.mode = .halted ∨ x.state = 4) then
    let g : Region := kget {} s.regions (c * 4096 + region)
    let g : Region := { g with base := base, rkey := rkey % 2 ^ 32 }
    (0, [], { s with regions := kset {} s.regions (c * 4096 + region) g })
  else (0x0A, [], s)

/-- R452, R455: the context and primary port of a queue pair: of CTX0 for 0 to 15, as the image gives it for the others. -/
def State.qpHome (s : State) (q : Nat) : Option (Nat × Nat) :=
  if q < 16 then some (0, Config.ctx0Port q % 8) else (s.qpEntry q).map (fun w => (fld w 51 48, fld w 47 45))

/-- R457, R458: a queue pair begins on its primary path, or on the alternate one while that port is down. -/
def State.startsOnAlt (s : State) (primary : Nat) : Bool := !s.portUp primary && s.portUp (partner primary)

/-- QP_CONNECT (R452, R457, R458, R465): a queue pair is connected or re-armed; what it has not got acknowledged leaves
again under the new PSNs. -/
def State.qpConnectMsg (s : State) (q remote sendPsn recvPsn : Nat) : Reply :=
  match s.qpHome q with
  | none => (0x0A, [], s)
  | some (c, h) =>
    if (s.ctx c).state = 2 then (0x0A, [], s)
    else
      let old := (s.qp q).unacked
      let wait := (s.qp q).waiting
      let p : Qp := { connected := true, ctx := c, primary := h, onAlt := s.startsOnAlt h, remote := remote % 2 ^ 24
                      nextPsn := sendPsn % 2 ^ 24, ackPsn := sendPsn % 2 ^ 24, recvPsn := recvPsn % 2 ^ 24, waiting := wait }
      (0, [], old.foldl (fun (t : State) u => t.sendQp q u) (s.setQp q p))

/-- QP_CLOSE (R454, R465). -/
def State.qpCloseMsg (s : State) (q : Nat) : Reply :=
  match s.qpHome q with
  | none => (0x0A, [], s)
  | some (c, _) => if (s.ctx c).state = 2 then (0x0A, [], s) else (0, [], s.qpLost q)

/-- OPEN_REGION (R452): a buffer with memory is exposed; its RKEY is free. -/
def State.openRegionMsg (s : State) (b : Nat) : Reply :=
  match s.buffer b with
  | some w =>
    if hasMemory w then
      let f := s.takeFree
      let k := f.1 % 2 ^ 32
      (0, [BitVec.ofNat 64 k], { f.2 with opened := f.2.opened ++ [(k, b)] })
    else (0x0A, [], s)
  | none => (0x0A, [], s)

/-- R450: is an address of 128 bits an IPv4 address in IPv4-mapped form. -/
def isV4 (a : Nat) : Bool := a / 2 ^ 32 == 0xFFFF

/-- R450: one global address of each family per port. -/
def putAddr (l : List (Nat × Nat)) (x : Nat × Nat) : List (Nat × Nat) :=
  l.filter (fun y => !(y.1 = x.1 ∧ isV4 y.2 = isV4 x.2)) ++ [x]

/-- SET_ADDR (R450, R471). -/
def State.setAddrMsg (s : State) (addrs : List (Nat × Nat)) (udp : Option Nat) : Reply :=
  if addrs.any (fun x => 8 ≤ x.1 || 2 ^ 128 ≤ x.2) || udp.any (fun p => p == 0 || 65536 ≤ p) then (0x0A, [], s)
  else
    let s : State := { s with addrs := addrs.foldl putAddr s.addrs }
    (0, [], match udp with
      | some p => s.setRfld bHly 63 48 p
      | none => s)

/-- JOB_RESUME (R33, R528): RESUME_REQ; a masthead staggers the load step. -/
def State.jobResume (s : State) : State := s.startStagger.resumeReq

/-- R465: what a permitted message does; none in place of the answer when it comes later. -/
def State.perform (s : State) (x : Session) (i : Instr) : Answer :=
  let src := if x.level = 3 then Sender.masthead else .owner
  let now := fun (r : Reply) => (some (r.1, r.2.1), r.2.2)
  let done := fun (t : State) => (some (0, []), t)
  match i with
  | .identity _ => now s.identityMsg
  | .attest _ nonce sig => now (s.attestMsg nonce sig)
  | .regRead _ addrs => now (s.regReadMsg addrs)
  | .regWrite _ pairs => now (s.regWriteMsg src pairs)
  | .rigLoad e f store => s.rigLoadMsg e f store
  | .rigLoadCached e d => s.rigLoadCachedMsg e d
  | .rigCacheList _ => now s.rigCacheListMsg
  | .rigCacheDelete _ d => now (s.rigCacheDeleteMsg d)
  | .jobStart e b => s.jobStartMsg e b
  | .jobHalt _ => done s.haltReq
  | .jobResume _ => done s.jobResume
  | .unload _ => done s.unloadReq
  | .snapshot _ qp rkey addr => now (s.snapshotMsg qp rkey addr)
  | .published _ v => now (s.publishedMsg v)
  | .rollbackRequest _ n => now (s.rollbackRequestMsg n)
  | .setAccum _ n k => now (s.setAccumMsg n k)
  | .stepOpen _ n a ls => now (s.stepOpenMsg n a ls)
  | .closed _ n k => now (s.closedMsg n k)
  | .rollback _ n => now (s.rollbackMsg n)
  | .mapPages e c l => s.mapPagesMsg e c l
  | .unmapPages e c l => s.unmapPagesMsg e c l
  | .setRegion _ c r b k => now (s.setRegionMsg c r b k)
  | .qpConnect _ q r a b => now (s.qpConnectMsg q r a b)
  | .qpClose _ q => now (s.qpCloseMsg q)
  | .openRegion _ b => now (s.openRegionMsg b)
  | .setAddr _ l p => now (s.setAddrMsg l p)
  | .linkRetrain _ => done s.retrainAll
  | .macsecCak _ h k => done (s.modPort h (fun p => { p with cak := some k }))
  | .subscribe _ k => done (s.modSession x.id (fun y => { y with classes := k.val }))
  | .telemetryRead _ src n k l => now (s.telemetryReadMsg src n k l)
  | .battenSchedule e id sc t => s.battenMsg e (x.level == 3) id sc t
  | .ledgerRead _ k n => now (s.ledgerReadMsg k n)
  | .plumbSchedule _ a b => now (s.plumbScheduleMsg a b)
  | .calRead _ => now s.calReadMsg
  | .calWrite _ l => now (s.calWriteMsg l)
  | .fwStage _ f => now (s.fwStageMsg f)
  | .fwActivate _ => now s.fwActivateMsg
  | .ownerEnroll _ k ok => now (s.ownerEnrollMsg k ok)
  | _ => done s

/-! ## Execution in SEQ order (R443, R461, R464) -/

/-- R443: a STEP_OPEN or CLOSED waits while the module halts or stands halted at its boundary. -/
def State.holds (s : State) (code : Nat) : Bool :=
  (code == 0x53 || code == 0x54) && s.halting && (s.stepState == 1 || s.stepState == 3)

/-- R551: an accepted enrolment closes the sessions of levels 1 and 2. -/
def State.closeOwners (s : State) : State :=
  ((s.sessions.filter (fun x => x.level = 1 ∨ x.level = 2)).map (fun x => x.id)).foldl (fun t k => t.closeSession k) s

/-- R464, R465, R471: a permitted request executes and is answered; RESET and CLOSE are answered before they act. -/
def State.execute (s : State) (x : Session) (m : Msg) (i : Instr) : State :=
  let s := s.count (bHly + 0x110) 1
  if m.code = 0x44 then (s.respond m.env m.code 0 []).resetReq
  else if m.code = 0x05 then (s.respond m.env m.code 0 []).closeSession x.id
  else
    match s.perform x i with
    | (none, t) => t
    | (some (st, ws), t) =>
      let t := if (t.sessionOf x.id).isSome then t.respond m.env m.code st ws else t
      if m.code = 0xB0 ∧ st = 0 then t.closeOwners else t

/-- R443, R464, R465: the next request of a session: refused, held, or executed. -/
def State.runRequest (s : State) (m : Msg) (i : Instr) : State :=
  match s.sessionOf m.env.session with
  | none => s
  | some x =>
    let s := s.modSession x.id (fun y => { y with received := m.env.seq })
    if !s.permits x.level m then s.respond m.env m.code 0x0A []
    else if s.holds m.code then { s with held := s.held ++ [i] }
    else s.execute x m i

/-- SEQ of a request. -/
def seqOf (i : Instr) : Nat := ((msgOf i).map (fun m => m.env.seq)).getD 0

/-- R464: what came early and is now due: acknowledgements pass, requests run. -/
def State.catchUp (s : State) (id : Nat) : Nat → State
  | 0 => s
  | n + 1 =>
    match s.sessionOf id with
    | none => s
    | some x =>
      let k := x.received + 1
      if x.ahead.contains k then
        (s.modSession id (fun y => { y with received := k, ahead := y.ahead.filter (fun a => a ≠ k) })).catchUp id n
      else
        match x.early.find? (fun i => seqOf i = k) with
        | none => s
        | some i =>
          let s := s.modSession id (fun y => { y with early := y.early.filter (fun j => seqOf j ≠ k) })
          match msgOf i with
          | some m => (s.runRequest m i).catchUp id n
          | none => s

/-- How often `catchUp` may go on for a session. -/
def Session.waiting (x : Session) : Nat := x.early.length + x.ahead.length + 1

/-- R461: the highest SEQ received. -/
def Session.highest (x : Session) : Nat := (x.early.map seqOf ++ x.ahead).foldl max x.received

/-- R461: has the SEQ come before. -/
def Session.repeats (x : Session) (seq : Nat) : Bool :=
  decide (seq ≤ x.received) || x.ahead.contains seq || (x.early.map seqOf).contains seq

/-- R463: a message resets the idle timer. -/
def State.touch (s : State) (id : Nat) : State := s.modSession id (fun y => { y with lastUse := s.time.now })

/-- R464, R471: a repeat gets its stored response again. -/
def State.answerAgain (s : State) (e : Env) (r : Response) : State :=
  let s := ((s.takeGram e.port).touch e.session).count (bHly + 0x118) 1
  (s.frameOut e.port (48 + 8 * r.words.length)).send
    { kind := .response, dest := e.session, code := r.code, status := r.status, words := r.words }

/-- R461, R462, R464, R470: a request arrives on a session: dropped, answered again, kept for its turn, or run. -/
def State.arrive (s : State) (m : Msg) (i : Instr) : State :=
  let e := m.env
  match s.sessionOf e.session with
  | none => if s.listens then s.dropGram e.port else s
  | some x =>
    if !e.good ∨ e.seq = 0 ∨ e.seq + 64 ≤ x.highest then s.dropGram e.port
    else if 2 ^ 32 < e.seq then (s.takeGram e.port).closeOut x.id
    else if x.repeats e.seq then
      match x.responses.find? (fun r => r.seq = e.seq ∧ r.tag = e.tag) with
      | some r => s.answerAgain e r
      | none => s.dropGram e.port
    else
      let s := (s.takeGram e.port).touch x.id
      if e.seq = x.received + 1 then (s.runRequest m i).catchUp x.id x.waiting
      else s.modSession x.id (fun y => { y with early := y.early ++ [i] })

/-- A halyard request comes in (R461–R465). -/
def State.halyard (s : State) (i : Instr) : State :=
  match msgOf i with
  | some m => s.arrive m i
  | none => s

/-! ## Notifications and acknowledgements (R464, R466) -/

/-- NOTIFY_REPEAT (R464, R471): 100 µs without an acknowledgement: the n-th notification leaves again, 16 times at most,
and is then dropped. -/
def execNotifyRepeat (n : Nat) (s : State) : Res :=
  match s.notes[n]? with
  | none => .next s
  | some o =>
    if o.sends ≤ 16 then
      let s : State := { s with notes := s.notes.set n { o with sends := o.sends + 1 } }
      .next ((s.gramOut o.words.length).send { kind := .notification, dest := o.session, code := o.code, words := o.words })
    else .next ({ s with notes := s.notes.eraseIdx n }.flag (bHly + 0x08) 3)

/-- R461, R464: an acknowledgement takes its SEQ among the session's messages; the notification it names is done. -/
def State.ackCame (s : State) (id seq refSeq : Nat) : State :=
  let f := s.takeFree
  let h := f.1 % 8
  match s.sessionOf id with
  | none => if s.listens then f.2.dropGram h else s
  | some x =>
    if seq = 0 ∨ seq + 64 ≤ x.highest ∨ x.repeats seq then f.2.dropGram h
    else
      let s := (f.2.takeGram h).touch id
      let s : State := { s with notes := s.notes.filter (fun o => !(o.session = id ∧ o.seq = refSeq)) }
      if seq = x.received + 1 then (s.modSession id (fun y => { y with received := seq })).catchUp id x.waiting
      else s.modSession id (fun y => { y with ahead := y.ahead ++ [seq] })

/-- HALYARD_RESPONSE_RECEIVED (R464, R466): an acknowledgement of a client, or the answer of a member. -/
def execHalyardResponseReceived (member : Bool) (peer seq refSeq status : Nat) (s : State) : Res :=
  if member then
    if s.listens then
      let f := s.takeFree
      .next ((f.2.takeGram (f.1 % 8)).memberAnswer peer refSeq status)
    else .next s
  else .next (s.ackCame peer seq refSeq)

end Sys2Proof.Machine
end

