-- ==== Sys2Proof/Machine/Halyard.lean ====
section
/-! DEFINITION. The halyard messages (R465): each comes in on its session and executes in its turn; what each does is its
case of `State.perform`. -/
namespace Sys2Proof.Machine

/-- CLOSE (R463, R465). -/
def execClose (e : Env) (s : State) : Res :=
  .next (s.halyard (.close e))

/-- KEEPALIVE (R463). -/
def execKeepalive (e : Env) (s : State) : Res :=
  .next (s.halyard (.keepalive e))

/-- IDENTITY (R465, R535, R549). -/
def execIdentity (e : Env) (s : State) : Res :=
  .next (s.halyard (.identity e))

/-- ATTEST (R552). -/
def execAttest (e : Env) (nonce : Nat) (signature : Nat) (s : State) : Res :=
  .next (s.halyard (.attest e nonce signature))

/-- REG_READ (R8, R9, R465). -/
def execRegRead (e : Env) (addrs : List Nat) (s : State) : Res :=
  .next (s.halyard (.regRead e addrs))

/-- REG_WRITE (R8–R11, R465, R500). -/
def execRegWrite (e : Env) (pairs : List (Nat × Word)) (s : State) : Res :=
  .next (s.halyard (.regWrite e pairs))

/-- RIG_LOAD (R363, R366). -/
def execRigLoad (e : Env) (image : ImageFile) (store : Bool) (s : State) : Res :=
  .next (s.halyard (.rigLoad e image store))

/-- RIG_LOAD_CACHED (R363, R366). -/
def execRigLoadCached (e : Env) (digest : Nat) (s : State) : Res :=
  .next (s.halyard (.rigLoadCached e digest))

/-- RIG_CACHE_LIST (R465). -/
def execRigCacheList (e : Env) (s : State) : Res :=
  .next (s.halyard (.rigCacheList e))

/-- RIG_CACHE_DELETE (R465). -/
def execRigCacheDelete (e : Env) (digest : Nat) (s : State) : Res :=
  .next (s.halyard (.rigCacheDelete e digest))

/-- JOB_START (R420, R508). -/
def execJobStart (e : Env) (restored : Option JobBlock) (s : State) : Res :=
  .next (s.halyard (.jobStart e restored))

/-- JOB_HALT (R33, R465). -/
def execJobHalt (e : Env) (s : State) : Res :=
  .next (s.halyard (.jobHalt e))

/-- JOB_RESUME (R33, R465, R528). -/
def execJobResume (e : Env) (s : State) : Res :=
  .next (s.halyard (.jobResume e))

/-- UNLOAD (R33, R465). -/
def execUnload (e : Env) (s : State) : Res :=
  .next (s.halyard (.unload e))

/-- RESET (R33, R465). -/
def execReset (e : Env) (s : State) : Res :=
  .next (s.halyard (.reset e))

/-- SNAPSHOT (R420). -/
def execSnapshot (e : Env) (qp : Fin 16) (rkey addr : Nat) (s : State) : Res :=
  .next (s.halyard (.snapshot e qp rkey addr))

/-- PUBLISHED (R418). -/
def execPublished (e : Env) (version : Word) (s : State) : Res :=
  .next (s.halyard (.published e version))

/-- ROLLBACK_REQUEST (R436). -/
def execRollbackRequest (e : Env) (step : Word) (s : State) : Res :=
  .next (s.halyard (.rollbackRequest e step))

/-- SET_ACCUM (R437). -/
def execSetAccum (e : Env) (count : Nat) (step : Word) (s : State) : Res :=
  .next (s.halyard (.setAccum e count step))

/-- STEP_OPEN (R418, R562). -/
def execStepOpen (e : Env) (step : Word) (accum : Nat) (lossScale : Nat) (s : State) : Res :=
  .next (s.halyard (.stepOpen e step accum lossScale))

/-- CLOSED (R433, R562). -/
def execClosed (e : Env) (step : Word) (skipped : Bool) (s : State) : Res :=
  .next (s.halyard (.closed e step skipped))

/-- ROLLBACK (R434, R562). -/
def execRollback (e : Env) (step : Word) (s : State) : Res :=
  .next (s.halyard (.rollback e step))

/-- MAP_PAGES (R309, R312). -/
def execMapPages (e : Env) (ctx : Fin 16) (entries : List (Nat × Word)) (s : State) : Res :=
  .next (s.halyard (.mapPages e ctx entries))

/-- UNMAP_PAGES (R309, R312). -/
def execUnmapPages (e : Env) (ctx : Fin 16) (vas : List Nat) (s : State) : Res :=
  .next (s.halyard (.unmapPages e ctx vas))

/-- SET_REGION (R456). -/
def execSetRegion (e : Env) (ctx : Fin 16) (region : Nat) (base : Nat) (rkey : Nat) (s : State) : Res :=
  .next (s.halyard (.setRegion e ctx region base rkey))

/-- QP_CONNECT (R452, R458). -/
def execQpConnect (e : Env) (qp : Fin 4096) (remote : Nat) (sendPsn recvPsn : Nat) (s : State) : Res :=
  .next (s.halyard (.qpConnect e qp remote sendPsn recvPsn))

/-- QP_CLOSE (R465). -/
def execQpClose (e : Env) (qp : Fin 4096) (s : State) : Res :=
  .next (s.halyard (.qpClose e qp))

/-- OPEN_REGION (R452). -/
def execOpenRegion (e : Env) (buffer : Nat) (s : State) : Res :=
  .next (s.halyard (.openRegion e buffer))

/-- SET_ADDR (R450). -/
def execSetAddr (e : Env) (addrs : List (Nat × Nat)) (udpPort : Option Nat) (s : State) : Res :=
  .next (s.halyard (.setAddr e addrs udpPort))

/-- LINK_RETRAIN (R380). -/
def execLinkRetrain (e : Env) (s : State) : Res :=
  .next (s.halyard (.linkRetrain e))

/-- MACSEC_CAK (R460). -/
def execMacsecCak (e : Env) (port : Fin 8) (cak : Nat) (s : State) : Res :=
  .next (s.halyard (.macsecCak e port cak))

/-- SUBSCRIBE (R465, R517). -/
def execSubscribe (e : Env) (classes : Fin 16) (s : State) : Res :=
  .next (s.halyard (.subscribe e classes))

/-- TELEMETRY_READ (R518). -/
def execTelemetryRead (e : Env) (source count first : Nat) (addrs : List Nat) (s : State) : Res :=
  .next (s.halyard (.telemetryRead e source count first addrs))

/-- BATTEN_SCHEDULE (R523). -/
def execBattenSchedule (e : Env) (id : Nat) (scope : Nat) (t : Word) (s : State) : Res :=
  .next (s.halyard (.battenSchedule e id scope t))

/-- LEDGER_READ (R489). -/
def execLedgerRead (e : Env) (first : Nat) (count : Nat) (s : State) : Res :=
  .next (s.halyard (.ledgerRead e first count))

/-- PLUMB_SCHEDULE (R496). -/
def execPlumbSchedule (e : Env) (word0 word1 : Word) (s : State) : Res :=
  .next (s.halyard (.plumbSchedule e word0 word1))

/-- CAL_READ (R548). -/
def execCalRead (e : Env) (s : State) : Res :=
  .next (s.halyard (.calRead e))

/-- CAL_WRITE (R548). -/
def execCalWrite (e : Env) (entries : List CalEntry) (s : State) : Res :=
  .next (s.halyard (.calWrite e entries))

/-- FW_STAGE (R555). -/
def execFwStage (e : Env) (f : FwImage) (s : State) : Res :=
  .next (s.halyard (.fwStage e f))

/-- FW_ACTIVATE (R555). -/
def execFwActivate (e : Env) (s : State) : Res :=
  .next (s.halyard (.fwActivate e))

/-- OWNER_ENROLL (R551). -/
def execOwnerEnroll (e : Env) (key : Nat) (sig : Nat × Nat) (s : State) : Res :=
  .next (s.halyard (.ownerEnroll e key sig))

end Sys2Proof.Machine
end

