-- ==== Sys2Proof/Machine/Dispatch.lean ====
section
/-! DEFINITION. What each command does to everything but the queue: one arm per command. -/
namespace Sys2Proof.Machine

/-- The effect of a command. -/
def exec (i : Instr) (s : State) : Host.Outcome State Fault Refusal :=
  match i with
  | .powerOn inRange => Sys2Proof.Machine.execPowerOn inRange s
  | .railsGood fuses => Sys2Proof.Machine.execRailsGood fuses s
  | .firmwareVerified => Sys2Proof.Machine.execFirmwareVerified s
  | .selftestDone r => Sys2Proof.Machine.execSelftestDone r s
  | .powerOff inputHolds => Sys2Proof.Machine.execPowerOff inputHolds s
  | .inputOutOfRange high => Sys2Proof.Machine.execInputOutOfRange high s
  | .modReset => Sys2Proof.Machine.execModReset s
  | .moduleClassEvent cause => Sys2Proof.Machine.execModuleClassEvent cause s
  | .fwWatchdogExpiry => Sys2Proof.Machine.execFwWatchdogExpiry s
  | .leakDetected => Sys2Proof.Machine.execLeakDetected s
  | .thermalSample t => Sys2Proof.Machine.execThermalSample t s
  | .regulatorPhaseFault rail phase => Sys2Proof.Machine.execRegulatorPhaseFault rail phase s
  | .powerLimiterSample milliamps millivolts => Sys2Proof.Machine.execPowerLimiterSample milliamps millivolts s
  | .reefLevelChange core => Sys2Proof.Machine.execReefLevelChange core s
  | .resetReq => Sys2Proof.Machine.execResetReq s
  | .unloadReq => Sys2Proof.Machine.execUnloadReq s
  | .resumeReq => Sys2Proof.Machine.execResumeReq s
  | .haltReq => Sys2Proof.Machine.execHaltReq s
  | .coreFenceWrite upper value => Sys2Proof.Machine.execCoreFenceWrite upper value s
  | .registerWrite src addr value => Sys2Proof.Machine.execRegisterWrite src addr value s
  | .timeOffsetWrite value => Sys2Proof.Machine.execTimeOffsetWrite value s
  | .reefCtlWrite value => Sys2Proof.Machine.execReefCtlWrite value s
  | .injMem value => Sys2Proof.Machine.execInjMem value s
  | .injSram value => Sys2Proof.Machine.execInjSram value s
  | .injLink value => Sys2Proof.Machine.execInjLink value s
  | .injCheck value => Sys2Proof.Machine.execInjCheck value s
  | .matrixPass d => Sys2Proof.Machine.execMatrixPass d s
  | .preemptSave core save => Sys2Proof.Machine.execPreemptSave core save s
  | .preloadShift core => Sys2Proof.Machine.execPreloadShift core s
  | .passStreamStart core => Sys2Proof.Machine.execPassStreamStart core s
  | .passDrain core chk => Sys2Proof.Machine.execPassDrain core chk s
  | .passReplay core => Sys2Proof.Machine.execPassReplay core s
  | .passRetire core => Sys2Proof.Machine.execPassRetire core s
  | .add v => Sys2Proof.Machine.execAdd v s
  | .sub v => Sys2Proof.Machine.execSub v s
  | .mul v => Sys2Proof.Machine.execMul v s
  | .fma v => Sys2Proof.Machine.execFma v s
  | .fms v => Sys2Proof.Machine.execFms v s
  | .div v => Sys2Proof.Machine.execDiv v s
  | .sqrt v => Sys2Proof.Machine.execSqrt v s
  | .min v => Sys2Proof.Machine.execMin v s
  | .max v => Sys2Proof.Machine.execMax v s
  | .abs v => Sys2Proof.Machine.execAbs v s
  | .neg v => Sys2Proof.Machine.execNeg v s
  | .scalb v => Sys2Proof.Machine.execScalb v s
  | .cmp v => Sys2Proof.Machine.execCmp v s
  | .sel v => Sys2Proof.Machine.execSel v s
  | .cvt v => Sys2Proof.Machine.execCvt v s
  | .rint v => Sys2Proof.Machine.execRint v s
  | .iadd v => Sys2Proof.Machine.execIadd v s
  | .isub v => Sys2Proof.Machine.execIsub v s
  | .imul v => Sys2Proof.Machine.execImul v s
  | .and v => Sys2Proof.Machine.execAnd v s
  | .or v => Sys2Proof.Machine.execOr v s
  | .xor v => Sys2Proof.Machine.execXor v s
  | .shl v => Sys2Proof.Machine.execShl v s
  | .shr v => Sys2Proof.Machine.execShr v s
  | .imin v => Sys2Proof.Machine.execImin v s
  | .imax v => Sys2Proof.Machine.execImax v s
  | .ldq v => Sys2Proof.Machine.execLdq v s
  | .stq v => Sys2Proof.Machine.execStq v s
  | .bcast v => Sys2Proof.Machine.execBcast v s
  | .mov v => Sys2Proof.Machine.execMov v s
  | .rsvec v => Sys2Proof.Machine.execRsvec v s
  | .rsum v => Sys2Proof.Machine.execRsum v s
  | .rmax v => Sys2Proof.Machine.execRmax v s
  | .rmin v => Sys2Proof.Machine.execRmin v s
  | .ssum v => Sys2Proof.Machine.execSsum v s
  | .smax v => Sys2Proof.Machine.execSmax v s
  | .nstat v => Sys2Proof.Machine.execNstat v s
  | .smxstep v => Sys2Proof.Machine.execSmxstep v s
  | .smcvt v => Sys2Proof.Machine.execSmcvt v s
  | .exp2 v => Sys2Proof.Machine.execExp2 v s
  | .log2 v => Sys2Proof.Machine.execLog2 v s
  | .rcp v => Sys2Proof.Machine.execRcp v s
  | .rsqrt v => Sys2Proof.Machine.execRsqrt v s
  | .sqrtS v => Sys2Proof.Machine.execSqrtS v s
  | .tanh v => Sys2Proof.Machine.execTanh v s
  | .logistic v => Sys2Proof.Machine.execLogistic v s
  | .utab v => Sys2Proof.Machine.execUtab v s
  | .tableLoad v => Sys2Proof.Machine.execTableLoad v s
  | .tableSwap core slot => Sys2Proof.Machine.execTableSwap core slot s
  | .exp v => Sys2Proof.Machine.execExp v s
  | .ln v => Sys2Proof.Machine.execLn v s
  | .pow v => Sys2Proof.Machine.execPow v s
  | .geluTanh v => Sys2Proof.Machine.execGeluTanh v s
  | .geluErf v => Sys2Proof.Machine.execGeluErf v s
  | .silu v => Sys2Proof.Machine.execSilu v s
  | .softplus v => Sys2Proof.Machine.execSoftplus v s
  | .erf v => Sys2Proof.Machine.execErf v s
  | .smallLu d => Sys2Proof.Machine.execSmallLu d s
  | .smallCholesky d => Sys2Proof.Machine.execSmallCholesky d s
  | .lowerSolve d => Sys2Proof.Machine.execLowerSolve d s
  | .upperSolve d => Sys2Proof.Machine.execUpperSolve d s
  | .unitLowerSolve d => Sys2Proof.Machine.execUnitLowerSolve d s
  | .alloc d => Sys2Proof.Machine.execAlloc d s
  | .share d => Sys2Proof.Machine.execShare d s
  | .release d => Sys2Proof.Machine.execRelease d s
  | .load d => Sys2Proof.Machine.execLoad d s
  | .store d => Sys2Proof.Machine.execStore d s
  | .fillFifo d => Sys2Proof.Machine.execFillFifo d s
  | .drainFifo d => Sys2Proof.Machine.execDrainFifo d s
  | .gather d => Sys2Proof.Machine.execGather d s
  | .atomicAdd d => Sys2Proof.Machine.execAtomicAdd d s
  | .atomicMin d => Sys2Proof.Machine.execAtomicMin d s
  | .atomicMax d => Sys2Proof.Machine.execAtomicMax d s
  | .atomicAnd d => Sys2Proof.Machine.execAtomicAnd d s
  | .atomicOr d => Sys2Proof.Machine.execAtomicOr d s
  | .atomicXor d => Sys2Proof.Machine.execAtomicXor d s
  | .hoist d => Sys2Proof.Machine.execHoist d s
  | .hoistExpert d => Sys2Proof.Machine.execHoistExpert d s
  | .hoistLanded core hoist => Sys2Proof.Machine.execHoistLanded core hoist s
  | .furl d => Sys2Proof.Machine.execFurl d s
  | .unfurl d => Sys2Proof.Machine.execUnfurl d s
  | .deepFurl d => Sys2Proof.Machine.execDeepFurl d s
  | .deepUnfurl d => Sys2Proof.Machine.execDeepUnfurl d s
  | .remoteRead d => Sys2Proof.Machine.execRemoteRead d s
  | .aeDescriptorRetire core queue => Sys2Proof.Machine.execAeDescriptorRetire core queue s
  | .runAheadPrefetch d => Sys2Proof.Machine.execRunAheadPrefetch d s
  | .streamPrefetch core queue va => Sys2Proof.Machine.execStreamPrefetch core queue va s
  | .fencedWriteRelease core queue => Sys2Proof.Machine.execFencedWriteRelease core queue s
  | .transpose d => Sys2Proof.Machine.execTranspose d s
  | .bitrev d => Sys2Proof.Machine.execBitrev d s
  | .stride d => Sys2Proof.Machine.execStride d s
  | .layoutCopy d => Sys2Proof.Machine.execLayoutCopy d s
  | .wait d => Sys2Proof.Machine.execWait d s
  | .waitSatisfied core ctx => Sys2Proof.Machine.execWaitSatisfied core ctx s
  | .signal d => Sys2Proof.Machine.execSignal d s
  | .signalIncrement core ctx => Sys2Proof.Machine.execSignalIncrement core ctx s
  | .loop d => Sys2Proof.Machine.execLoop d s
  | .endloop d => Sys2Proof.Machine.execEndloop d s
  | .phaseEnd d => Sys2Proof.Machine.execPhaseEnd d s
  | .nop d => Sys2Proof.Machine.execNop d s
  | .phaseComplete => Sys2Proof.Machine.execPhaseComplete s
  | .rigLoadComplete v => Sys2Proof.Machine.execRigLoadComplete v s
  | .jobStartCheck r => Sys2Proof.Machine.execJobStartCheck r s
  | .walkComplete n => Sys2Proof.Machine.execWalkComplete n s
  | .cowServiceDone n => Sys2Proof.Machine.execCowServiceDone n s
  | .invalidationComplete n => Sys2Proof.Machine.execInvalidationComplete n s
  | .parkLimitExpiry n => Sys2Proof.Machine.execParkLimitExpiry n s
  | .ctxPreempt ctx => Sys2Proof.Machine.execCtxPreempt ctx s
  | .ctxResume ctx => Sys2Proof.Machine.execCtxResume ctx s
  | .ctxRetry ctx => Sys2Proof.Machine.execCtxRetry ctx s
  | .ctxEnd ctx => Sys2Proof.Machine.execCtxEnd ctx s
  | .contextSaved ctx => Sys2Proof.Machine.execContextSaved ctx s
  | .contextRestored ctx => Sys2Proof.Machine.execContextRestored ctx s
  | .bubbleWindowOpen window => Sys2Proof.Machine.execBubbleWindowOpen window s
  | .bubbleWindowClose window => Sys2Proof.Machine.execBubbleWindowClose window s
  | .fillerCreditRefill => Sys2Proof.Machine.execFillerCreditRefill s
  | .barrier op => Sys2Proof.Machine.execBarrier op s
  | .scalarAllreduce op => Sys2Proof.Machine.execScalarAllreduce op s
  | .allReduce op => Sys2Proof.Machine.execAllReduce op s
  | .reduceScatter op => Sys2Proof.Machine.execReduceScatter op s
  | .allGather op => Sys2Proof.Machine.execAllGather op s
  | .broadcast op => Sys2Proof.Machine.execBroadcast op s
  | .reduce op => Sys2Proof.Machine.execReduce op s
  | .allToAll op => Sys2Proof.Machine.execAllToAll op s
  | .moeDispatch op => Sys2Proof.Machine.execMoeDispatch op s
  | .moeCombine op => Sys2Proof.Machine.execMoeCombine op s
  | .send op => Sys2Proof.Machine.execSend op s
  | .recv op => Sys2Proof.Machine.execRecv op s
  | .phase0Complete op r => Sys2Proof.Machine.execPhase0Complete op r s
  | .chunkReceived m => Sys2Proof.Machine.execChunkReceived m s
  | .resendRequest op chunk dest => Sys2Proof.Machine.execResendRequest op chunk dest s
  | .collectiveOpComplete op => Sys2Proof.Machine.execCollectiveOpComplete op s
  | .flitReceived stay f => Sys2Proof.Machine.execFlitReceived stay f s
  | .controlSlotReceived stay c => Sys2Proof.Machine.execControlSlotReceived stay c s
  | .laneDrop stay lane => Sys2Proof.Machine.execLaneDrop stay lane s
  | .stayDown stay => Sys2Proof.Machine.execStayDown stay s
  | .peerSilenceTimeout stay => Sys2Proof.Machine.execPeerSilenceTimeout stay s
  | .travellerPageSend down => Sys2Proof.Machine.execTravellerPageSend down s
  | .travellerPageReceived down p => Sys2Proof.Machine.execTravellerPageReceived down p s
  | .travellerPageAck down page => Sys2Proof.Machine.execTravellerPageAck down page s
  | .pageResendRequest down page => Sys2Proof.Machine.execPageResendRequest down page s
  | .read codeword source => Sys2Proof.Machine.execRead codeword source s
  | .write codeword data mask poison => Sys2Proof.Machine.execWrite codeword data mask poison s
  | .stackCopy src dst units => Sys2Proof.Machine.execStackCopy src dst units s
  | .fillZero dst units => Sys2Proof.Machine.execFillZero dst units s
  | .ledger stack frame write => Sys2Proof.Machine.execLedger stack frame write s
  | .furlPack granule sizeAt data => Sys2Proof.Machine.execFurlPack granule sizeAt data s
  | .furlUnpack granule sizeAt => Sys2Proof.Machine.execFurlUnpack granule sizeAt s
  | .rawRead granule sizeAt => Sys2Proof.Machine.execRawRead granule sizeAt s
  | .rawWrite granule sizeAt size units => Sys2Proof.Machine.execRawWrite granule sizeAt size units s
  | .scrub codeword => Sys2Proof.Machine.execScrub codeword s
  | .refresh stack channel bank waiting => Sys2Proof.Machine.execRefresh stack channel bank waiting s
  | .gatherWindowIssue stack => Sys2Proof.Machine.execGatherWindowIssue stack s
  | .stepBoundary checks => Sys2Proof.Machine.execStepBoundary checks s
  | .releaseNotice sender => Sys2Proof.Machine.execReleaseNotice sender s
  | .closeNotice n => Sys2Proof.Machine.execCloseNotice n s
  | .closeWaitExpiry => Sys2Proof.Machine.execCloseWaitExpiry s
  | .hello h => Sys2Proof.Machine.execHello h s
  | .auth a => Sys2Proof.Machine.execAuth a s
  | .handshakeTimeout session => Sys2Proof.Machine.execHandshakeTimeout session s
  | .close e => Sys2Proof.Machine.execClose e s
  | .keepalive e => Sys2Proof.Machine.execKeepalive e s
  | .sessionIdleTimeout session => Sys2Proof.Machine.execSessionIdleTimeout session s
  | .sessionLimitExpiry session => Sys2Proof.Machine.execSessionLimitExpiry session s
  | .identity e => Sys2Proof.Machine.execIdentity e s
  | .attest e nonce signature => Sys2Proof.Machine.execAttest e nonce signature s
  | .regRead e addrs => Sys2Proof.Machine.execRegRead e addrs s
  | .regWrite e pairs => Sys2Proof.Machine.execRegWrite e pairs s
  | .rigLoad e image store => Sys2Proof.Machine.execRigLoad e image store s
  | .rigLoadCached e digest => Sys2Proof.Machine.execRigLoadCached e digest s
  | .rigCacheList e => Sys2Proof.Machine.execRigCacheList e s
  | .rigCacheDelete e digest => Sys2Proof.Machine.execRigCacheDelete e digest s
  | .jobStart e restored => Sys2Proof.Machine.execJobStart e restored s
  | .jobHalt e => Sys2Proof.Machine.execJobHalt e s
  | .jobResume e => Sys2Proof.Machine.execJobResume e s
  | .unload e => Sys2Proof.Machine.execUnload e s
  | .reset e => Sys2Proof.Machine.execReset e s
  | .snapshot e qp rkey addr => Sys2Proof.Machine.execSnapshot e qp rkey addr s
  | .published e version => Sys2Proof.Machine.execPublished e version s
  | .rollbackRequest e step => Sys2Proof.Machine.execRollbackRequest e step s
  | .setAccum e count step => Sys2Proof.Machine.execSetAccum e count step s
  | .stepOpen e step accum lossScale => Sys2Proof.Machine.execStepOpen e step accum lossScale s
  | .closed e step skipped => Sys2Proof.Machine.execClosed e step skipped s
  | .rollback e step => Sys2Proof.Machine.execRollback e step s
  | .mapPages e ctx entries => Sys2Proof.Machine.execMapPages e ctx entries s
  | .unmapPages e ctx vas => Sys2Proof.Machine.execUnmapPages e ctx vas s
  | .setRegion e ctx region base rkey => Sys2Proof.Machine.execSetRegion e ctx region base rkey s
  | .qpConnect e qp remote sendPsn recvPsn => Sys2Proof.Machine.execQpConnect e qp remote sendPsn recvPsn s
  | .qpClose e qp => Sys2Proof.Machine.execQpClose e qp s
  | .openRegion e buffer => Sys2Proof.Machine.execOpenRegion e buffer s
  | .setAddr e addrs udpPort => Sys2Proof.Machine.execSetAddr e addrs udpPort s
  | .linkRetrain e => Sys2Proof.Machine.execLinkRetrain e s
  | .macsecCak e port cak => Sys2Proof.Machine.execMacsecCak e port cak s
  | .subscribe e classes => Sys2Proof.Machine.execSubscribe e classes s
  | .event e payload => Sys2Proof.Machine.execEvent e payload s
  | .telemetryRead e source count first addrs => Sys2Proof.Machine.execTelemetryRead e source count first addrs s
  | .battenSchedule e id scope t => Sys2Proof.Machine.execBattenSchedule e id scope t s
  | .ledgerRead e first count => Sys2Proof.Machine.execLedgerRead e first count s
  | .plumbSchedule e word0 word1 => Sys2Proof.Machine.execPlumbSchedule e word0 word1 s
  | .plumbUnitDone r => Sys2Proof.Machine.execPlumbUnitDone r s
  | .calRead e => Sys2Proof.Machine.execCalRead e s
  | .calWrite e entries => Sys2Proof.Machine.execCalWrite e entries s
  | .fwStage e f => Sys2Proof.Machine.execFwStage e f s
  | .fwActivate e => Sys2Proof.Machine.execFwActivate e s
  | .ownerEnroll e key sig => Sys2Proof.Machine.execOwnerEnroll e key sig s
  | .enrollWindowOpen value => Sys2Proof.Machine.execEnrollWindowOpen value s
  | .enrollWindowExpiry => Sys2Proof.Machine.execEnrollWindowExpiry s
  | .notifyRepeat n => Sys2Proof.Machine.execNotifyRepeat n s
  | .mastheadResend n => Sys2Proof.Machine.execMastheadResend n s
  | .telemetryInterval t => Sys2Proof.Machine.execTelemetryInterval t s
  | .loadStaggerWave wave => Sys2Proof.Machine.execLoadStaggerWave wave s
  | .portDown port => Sys2Proof.Machine.execPortDown port s
  | .autonegRetry port => Sys2Proof.Machine.execAutonegRetry port s
  | .roceNak qp psn => Sys2Proof.Machine.execRoceNak qp psn s
  | .roceTimeout qp => Sys2Proof.Machine.execRoceTimeout qp s
  | .roceRemoteNak qp core queue => Sys2Proof.Machine.execRoceRemoteNak qp core queue s
  | .hostRdmaWrite qp rkey offset data => Sys2Proof.Machine.execHostRdmaWrite qp rkey offset data s
  | .hostRdmaRead qp rkey offset length => Sys2Proof.Machine.execHostRdmaRead qp rkey offset length s
  | .cnpReceived qp => Sys2Proof.Machine.execCnpReceived qp s
  | .cnpRateRestore qp => Sys2Proof.Machine.execCnpRateRestore qp s
  | .mkaSakInstall port => Sys2Proof.Machine.execMkaSakInstall port s
  | .ptpSync port offset rate => Sys2Proof.Machine.execPtpSync port offset rate s
  | .syncLossTimeout => Sys2Proof.Machine.execSyncLossTimeout s
  | .ppsInEdge timestamp => Sys2Proof.Machine.execPpsInEdge timestamp s
  | .ppsLostTimeout => Sys2Proof.Machine.execPpsLostTimeout s
  | .ppsOutEdge => Sys2Proof.Machine.execPpsOutEdge s
  | .ref10mLost => Sys2Proof.Machine.execRef10mLost s
  | .battenFire => Sys2Proof.Machine.execBattenFire s
  | .ledgerCoalesceExpiry n => Sys2Proof.Machine.execLedgerCoalesceExpiry n s
  | .inputInRange => Sys2Proof.Machine.execInputInRange s
  | .modResetRelease => Sys2Proof.Machine.execModResetRelease s
  | .stayTrained stay lanes => Sys2Proof.Machine.execStayTrained stay lanes s
  | .portLinkUp port speed => Sys2Proof.Machine.execPortLinkUp port speed s
  | .roceAckReceived qp psn data => Sys2Proof.Machine.execRoceAckReceived qp psn data s
  | .halyardResponseReceived member peer seq refSeq status => Sys2Proof.Machine.execHalyardResponseReceived member peer seq refSeq status s
  | .layoutTileDone core chk => Sys2Proof.Machine.execLayoutTileDone core chk s
  | .routineGroupDone core chk => Sys2Proof.Machine.execRoutineGroupDone core chk s
  | .remoteReadRequestReceived r => Sys2Proof.Machine.execRemoteReadRequestReceived r s
  | .remoteReadResponse core r => Sys2Proof.Machine.execRemoteReadResponse core r s
  | .ptpSyncTransmit announce => Sys2Proof.Machine.execPtpSyncTransmit announce s
  | .ptpDelayRequest port peer => Sys2Proof.Machine.execPtpDelayRequest port peer s
  | .ref10mLock => Sys2Proof.Machine.execRef10mLock s
  | .ledgerEntryWritten => Sys2Proof.Machine.execLedgerEntryWritten s
  | .pfcPauseFrame port quanta => Sys2Proof.Machine.execPfcPauseFrame port quanta s

end Sys2Proof.Machine
end

