-- ==== Sys2Proof/Safety.lean ====
section
/-! DEFINITION. What the statements speak of: what holds in every state of a run, what a command leaves alone, and the
conditions under which a command has its effect. -/
namespace Sys2Proof.Machine

/-! ## What holds in every state -/

/-- R487: each entry of the written ledger follows the one before it: SEQ counts by one, PREV is the first 8 bytes
of the digest of the entry before. -/
def ledgerChain : List LedgerItem → Prop
  | [] => True
  | [_] => True
  | a :: b :: r => b.seq = a.seq + 1 ∧ b.prev = ofLeBytes ((ledgerDigest a).take 8) ∧ ledgerChain (b :: r)

/-- What every step keeps: memory and registers in canonical form, FAULT_N low exactly in FAULTED (R535), the ledger
a chain (R487), the enrolment window open in READY only (R557). -/
structure State.Inv (s : State) : Prop where
  mem    : Memory.wf s.mem = true
  regs   : kwf regReset s.regs = true
  faultN : s.pins.faultN = (s.mode != .faulted)
  ledger : ledgerChain s.flash.ledger
  window : s.enrollUntil ≠ 0 → s.mode = .ready

/-! ## Frames -/

/-- Every stored register but the listed ones reads as before. -/
def State.regsBut (s t : State) (as : List Nat) : Prop := ∀ a, a ∉ as → t.reg a = s.reg a

/-- Every core but `n` is as before. -/
def State.coresBut (s t : State) (n : Nat) : Prop := ∀ m, m ≠ n → t.core m = s.core m

/-- `s` with its cores and its registers replaced. -/
def State.withCR (s : State) (cores : KMap Core) (regs : KMap Word) : State := { s with cores := cores, regs := regs }

/-- Registers and cores apart, nothing changed: memory, contexts, links, sessions, the ledger and all else. -/
def State.onlyCoresRegs (s t : State) : Prop := t = s.withCR t.cores t.regs

/-- A core with its vector registers and step numbers replaced. -/
def Core.withVe (c : Core) (vregs : KMap VReg) (veSeq sfeSeq : Nat) : Core :=
  { c with vregs := vregs, veSeq := veSeq, sfeSeq := sfeSeq }

/-- Every byte outside [a, a + n) reads as before. -/
def State.memBut (s t : State) (a n : Nat) : Prop := ∀ j, j < a ∨ a + n ≤ j → kget 0 t.mem j = kget 0 s.mem j

/-- `t` is `s` with core `n` replaced by `c`, read core by core: no other core and no other state changes. -/
def State.coreIs (s t : State) (n : Nat) (c : Core) : Prop :=
  ∃ C, t = s.withCR C s.regs ∧ kget {} C n = c ∧ ∀ m, m ≠ n → kget {} C m = s.core m

/-! ## The vector engines -/

/-- R353, R157: the instruction issues at once and its checks pass: its context may issue on its core, no routine
runs there, the checker saw nothing and no injection is armed. -/
structure State.veFree (s : State) (v : VeOp) : Prop where
  issue   : s.mayIssue v.core v.ctx = true
  routine : (s.core v.core).routine = none
  checks  : v.chk.fails = 0
  inject  : s.armed = false

/-- As `veFree`, and no stream reduction is in progress on the core. -/
structure State.veCan (s : State) (v : VeOp) : Prop extends s.veFree v where
  stream  : (s.core v.core).stream = []

/-- R157, R163, R167, R170: the counts after `steps` steps of an instruction with opcode `opc`. -/
def State.veCounts (s t : State) (n : Nat) (sfe : Bool) (opc steps : Nat) : Prop :=
  if sfe then
    (t.core n).sfeSeq = ((s.core n).sfeSeq + steps) % 2 ^ 32 ∧ (t.core n).veSeq = (s.core n).veSeq ∧
    t.reg (bSfe n + 0x100) = s.reg (bSfe n + 0x100) + 256 ∧ s.regsBut t [bSfe n + 0x100]
  else
    (t.core n).veSeq = ((s.core n).veSeq + steps) % 2 ^ 32 ∧ (t.core n).sfeSeq = (s.core n).sfeSeq ∧
    t.reg (bVe n + 0x08) = packWord [(32, ((s.core n).veSeq + steps) % 2 ^ 32), (24, opc)] ∧
    t.reg (bVe n + 0x100) = s.reg (bVe n + 0x100) + 1 ∧ s.regsBut t [bVe n + 0x08, bVe n + 0x100]

/-- An instruction of `steps` steps ran and wrote exactly `ws`: each named register holds its value, every other vector register, the
rest of its core, every other core and all else stand as before. -/
structure State.veRan (s t : State) (v : VeOp) (sfe : Bool) (steps : Nat) (ws : List (Nat × VReg)) :
    Prop where
  wrote  : ∀ p ∈ ws, t.vreg v.core p.1 = p.2
  vregs  : ∀ k, k ∉ ws.map (fun p => p.1) → t.vreg v.core k = s.vreg v.core k
  counts : s.veCounts t v.core sfe (fld v.word 63 56) steps
  core   : t.core v.core =
    { (s.core v.core).withVe (t.core v.core).vregs (t.core v.core).veSeq (t.core v.core).sfeSeq with veCtx := v.ctx }
  cores  : s.coresBut t v.core
  rest   : s.onlyCoresRegs t

/-! ## Halyard requests -/

/-- R461, R462, R464: request `i` is the next of an open session: its datagram is good, its SEQ follows the last one
executed, and it has not come before. -/
structure State.inTurn (s : State) (i : Instr) (m : Msg) (x : Session) : Prop where
  msg     : msgOf i = some m
  session : s.sessionOf m.env.session = some x
  good    : m.env.good = true
  next    : m.env.seq = x.received + 1
  range   : m.env.seq ≤ 2 ^ 32
  window  : x.highest < m.env.seq + 64
  fresh   : x.repeats m.env.seq = false

/-- R443, R463, R465: a request that executes when its turn comes: permitted, and not held while the module halts. -/
structure State.served (s : State) (i : Instr) (m : Msg) (x : Session) : Prop extends s.inTurn i m x where
  permits : s.permits x.level m = true
  free    : s.holds m.code = false

/-- R461, R463, R464, R471: the state in which a request executes: its datagram is counted, its session's idle timer
reset, its SEQ the last received, and the request counted. -/
def State.taken (s : State) (e : Env) : State :=
  (((s.takeGram e.port).touch e.session).modSession e.session (fun y => { y with received := e.seq })).count
    (bHly + 0x110) 1

/-- R464: what a request leaves when it has executed: its response, where its session is still open; then what had come
ahead of its turn goes on. -/
def State.answered (t : State) (x : Session) (e : Env) (code status : Nat) (ws : List Word) : State :=
  (if (t.sessionOf x.id).isSome then t.respond e code status ws else t).catchUp x.id x.waiting

end Sys2Proof.Machine
end

