-- ==== Sys2Proof/Certificates/Slice0/Obligations.lean ====
section
/-! DEFINITION. The statements for the provers. -/

open Sys2Proof Sys2Proof.Machine

namespace Sys2Proof.Machine.Rows

/-! Rows of the opcode tables: a command with what its rule computes. -/

/-- R135, R136: two sources. -/
def veTwo : List ((VeOp → Instr) × (VeF → Nat → Nat → Nat)) :=
  [(.add, fun w => addBits w.fmt), (.sub, fun w => subBits w.fmt), (.mul, fun w => mulBits w.fmt),
   (.div, fun w => divBits w.fmt), (.min, fun w => minBits w.fmt), (.max, fun w => maxBits w.fmt),
   (.cmp, fun w => cmpBits w.fmt (w.imm % 8)), (.iadd, fun _ => iaddBits), (.isub, fun _ => isubBits),
   (.imul, fun _ => imulBits), (.and, fun _ a b => a &&& b), (.or, fun _ a b => a ||| b),
   (.xor, fun _ a b => a ^^^ b), (.shl, fun _ => shlBits), (.shr, fun _ => shrBits),
   (.imin, fun _ => minBits .int32), (.imax, fun _ => maxBits .int32)]

/-- R135, R136: one source. -/
def veOne : List ((VeOp → Instr) × (VeF → Nat → Nat)) :=
  [(.sqrt, fun w => sqrtBits w.fmt), (.abs, fun w => absBits w.fmt), (.neg, fun w => negBits w.fmt),
   (.rint, fun w => rintBits w.fmt)]

/-- R135: three sources. -/
def veThree : List ((VeOp → Instr) × (VeF → Nat → Nat → Nat → Nat)) :=
  [(.fma, fun w => fmaBits w.fmt), (.fms, fun w => fmsBits w.fmt)]

/-- R138: across-lane reductions. -/
def veReductions : List ((VeOp → Instr) × (Fmt → Nat → Nat → Nat)) :=
  [(.rsum, addBits), (.rmax, maxBits), (.rmin, minBits)]

/-- R149, R156: FP32 functions of one source, by profile. -/
def sfeOne : List ((VeOp → Instr) × (Nat → Nat → Nat)) :=
  [(.exp2, fun p => primBits p .exp2), (.log2, fun p => primBits p .log2), (.rcp, fun p => primBits p .rcp),
   (.rsqrt, fun p => primBits p .rsqrt), (.sqrtS, fun p => primBits p .sqrtS), (.tanh, fun p => primBits p .tanh),
   (.logistic, fun p => primBits p .logistic), (.exp, expBits), (.ln, lnBits), (.geluTanh, geluTanhBits),
   (.geluErf, geluErfBits), (.silu, siluBits), (.softplus, softplusBits), (.erf, erfBits)]

end Sys2Proof.Machine.Rows

open Sys2Proof.Machine.Rows

/-! ## The vector and special-function engines -/

/-- R135, R136: an elementwise instruction with two sources whose registers hold no poison completes: each element of
DST is the operation on the elements of SRC1 and SRC2, for every format and register, and nothing else of the vector
registers, of other cores, of memory or of any other state changes but the engine's step number, status and count. R135,
R136: elementwise instructions with one source and with three. R135: SCALB, SEL, BCAST and MOV; a MOV copies poison with
the lanes (R131). R132: CVT writes the converted elements and its telltale counts at site 4, and nothing else of the
step. -/
def Obligations.VeElementwiseResult : Prop :=
  (
    ∀ p ∈ veTwo, ∀ (v : VeOp) (s : State), s.veCan v →
      let w := veFields v.word
      s.poisonIn v.core (regsOf w.fmt w.src1 ++ regsOf w.fmt w.src2) = false →
      ∃ t, exec (p.1 v) s = .next t ∧
        s.veRan t v false 1 (regWrites w.fmt w.dst (List.zipWith (fun a b => bfSat w [a, b] (p.2 w a b))
          (s.elems v.core w.fmt w.src1) (s.elems v.core w.fmt w.src2)))) ∧
  (
    (∀ p ∈ veOne, ∀ (v : VeOp) (s : State), s.veCan v →
      let w := veFields v.word
      s.poisonIn v.core (regsOf w.fmt w.src1) = false →
      ∃ t, exec (p.1 v) s = .next t ∧
        s.veRan t v false 1 (regWrites w.fmt w.dst ((s.elems v.core w.fmt w.src1).map (fun a => bfSat w [a] (p.2 w a))))) ∧
    (∀ p ∈ veThree, ∀ (v : VeOp) (s : State), s.veCan v →
      let w := veFields v.word
      s.poisonIn v.core (regsOf w.fmt w.src1 ++ regsOf w.fmt w.src2 ++ regsOf w.fmt w.src3) = false →
      ∃ t, exec (p.1 v) s = .next t ∧
        s.veRan t v false 1 (regWrites w.fmt w.dst (List.zipWith (fun g c => g c)
          (List.zipWith (fun a b c => bfSat w [a, b, c] (p.2 w a b c)) (s.elems v.core w.fmt w.src1)
            (s.elems v.core w.fmt w.src2))
          (s.elems v.core w.fmt w.src3))))) ∧
  (
    ∀ (v : VeOp) (s : State), s.veCan v →
      let w := veFields v.word
      (s.poisonIn v.core (regsOf w.fmt w.src1 ++ [w.src2]) = false →
        ∃ t, exec (.scalb v) s = .next t ∧
          s.veRan t v false 1 (regWrites w.fmt w.dst ((s.elems v.core w.fmt w.src1).zipIdx.map (fun e =>
            bfSat w [e.1] (scalbBits w.fmt e.1
              ((s.vreg v.core w.src2).lanes.getD (if w.fmt = .bf16 then e.2 / 2 else e.2) 0)))))) ∧
      (s.selPoison v.core w = false →
        ∃ t, exec (.sel v) s = .next t ∧
          s.veRan t v false 1 (regWrites (selFmt w.fmt) w.dst
            ((List.zipWith (fun a b => (a, b)) (s.elems v.core (selFmt w.fmt) w.src1)
              (s.elems v.core (selFmt w.fmt) w.src2)).zipIdx.map (fun e =>
                if selector (selFmt w.fmt) (s.vreg v.core w.src3).lanes e.2 then e.1.1 else e.1.2)))) ∧
      (s.poisonIn v.core (regsOf w.fmt w.src1) = false →
        ∃ t, exec (.bcast v) s = .next t ∧
          s.veRan t v false 1 (List.zipWith (fun d k =>
            (d, cleanReg (List.replicate 256 ((s.vreg v.core k).lanes.getD (w.imm % 256) 0))))
            (regsOf w.fmt w.dst) (regsOf w.fmt w.src1))) ∧
      (∃ t, exec (.mov v) s = .next t ∧
          s.veRan t v false 1 (List.zipWith (fun d k => (d, s.vreg v.core k)) (regsOf w.fmt w.dst) (regsOf w.fmt w.src1)))) ∧
  (
    ∀ (v : VeOp) (s : State), s.veCan v →
      let w := veFields v.word
      let o := s.cvtKeep v.core w (s.cvtOut v.core w)
      s.poisonIn v.core (regsOf w.sfmt w.src1 ++ (if w.sfmt.isMx then [w.src2] else [])) = false →
      ∃ t, exec (.cvt v) s = .next t ∧ s.veRan { t with step := s.step } v false 1 o.writes ∧
        t.step = { s.step with telltales := t.step.telltales } ∧
        (o.tally ≠ {} → kget {} t.step.telltales (4 * 32 + w.fmt.code) =
          (kget {} s.step.telltales (4 * 32 + w.fmt.code)).add o.tally) ∧
        ∀ k, (k ≠ 4 * 32 + w.fmt.code ∨ o.tally = {}) → kget {} t.step.telltales k = kget {} s.step.telltales k)

/-- R135, R253, R109: the queue instructions. LDQ pops one vector, two for an FP64 pair, in order and with their poison, and
the counts of the fills they came with join the telltales (R251);
STQ pushes SRC1 with its poison while the FIFO of eight has room; RSVEC pushes SRC1 to the row-scale FIFO while that
holds fewer than four vectors. The access-engine queues of the core then go on with the FIFO as it stands. R161, R163:
an instruction that finds its FIFO empty, or the row-scale FIFO full, waits: it counts the wait, shows it in the status,
and changes nothing else. -/
def Obligations.VeQueueResult : Prop :=
  (
    ∀ (v : VeOp) (s : State), s.veCan v →
      let w := veFields v.word
      let n := v.core.val
      ((regsOf w.fmt w.dst).length ≤ (s.fifo n w.imm).length →
        let p := s.popFifo n w.imm (regsOf w.fmt w.dst).length
        ∃ x : State, exec (.ldq v) s = .next (x.runCore n) ∧
          p.2.veRan { x with step := s.step } v false 1
            (List.zipWith (fun k r => (k, r)) (regsOf w.fmt w.dst) (s.fifo n w.imm)) ∧
          x.step = (s.addDues p.1).step) ∧
      ((s.fifo n w.imm).length + (regsOf w.fmt w.src1).length ≤ 8 →
        ∃ x : State, exec (.stq v) s = .next (x.runCore n) ∧
          (s.setFifo n w.imm (s.fifo n w.imm ++ (regsOf w.fmt w.src1).map (s.vreg n))).veRan x v false 1 []) ∧
      ((s.core n).rsFifo.length < 4 → s.poisonIn n [w.src1] = false →
        ∃ t, exec (.rsvec v) s = .next t ∧
          (s.modCore n (fun c => { c with rsFifo := c.rsFifo ++ [((s.vreg n w.src1).lanes, false)] })).veRan t v false 1 [])) ∧
  (
    ∀ (v : VeOp) (s : State), s.veCan v →
      let w := veFields v.word
      let n := v.core.val
      ((s.fifo n w.imm).length < (regsOf w.fmt w.dst).length →
        ∃ t, exec (.ldq v) s = .next t ∧ t.reg (bVe n + 0x110) = s.reg (bVe n + 0x110) + 1 ∧
          t.rfld (bVe n + 0x08) 1 1 = 1 ∧ s.regsBut t [bVe n + 0x110, bVe n + 0x08] ∧ { t with regs := s.regs } = s) ∧
      (8 < (s.fifo n w.imm).length + (regsOf w.fmt w.src1).length → exec (.stq v) s = .next s) ∧
      (4 ≤ (s.core n).rsFifo.length → ∀ c ∈ [Instr.rsvec, Instr.smxstep],
        ∃ t, exec (c v) s = .next t ∧ t.reg (bVe n + 0x118) = s.reg (bVe n + 0x118) + 1 ∧
          t.rfld (bVe n + 0x08) 2 2 = 1 ∧ s.regsBut t [bVe n + 0x118, bVe n + 0x08] ∧ { t with regs := s.regs } = s))

/-- R138: RSUM, RMAX and RMIN reduce each group of 2^GROUP elements of SRC1 by the fixed tree. R139, R140: a stream
reduction whose vectors are all there, those taken before it was pre-empted included, pops what it still needs and
writes the fixed tree of all of them, whatever their arrival was. R141, R142: SMXSTEP writes the running maximum and the
correction, which also enters the row-scale FIFO, and a primary's maxima are held for the step record (R189, R440; log 97
says for which entry); SMCVT takes the oldest drained column and adds it to the FP64 pair
SRC1. R251: the counts of the fills that a stream's vectors came with join the telltales. -/
def Obligations.VeReductionResult : Prop :=
  (
    ∀ p ∈ veReductions, ∀ (v : VeOp) (s : State), s.veCan v →
      let w := veFields v.word
      s.poisonIn v.core (regsOf w.fmt w.src1) = false →
      ∃ t, exec (p.1 v) s = .next t ∧
        s.veRan t v false 1 (regWrites w.fmt w.dst (reduceLanes (p.2 w.fmt) w.group (s.elems v.core w.fmt w.src1)))) ∧
  (
    ∀ (v : VeOp) (s : State), s.veFree v →
      let w := veFields v.word
      let n := v.core.val
      let old := (s.core n).stream
      let more := fun need => (s.fifo n w.src1).take (need - old.length)
      let pop := fun need => s.popFifo n w.src1 (more need).length
      let start := fun need => (pop need).2.setStream n [] []
      let counted := fun need => (s.addDues (kget [] (s.core n).fillDue 16 ++ (pop need).1)).step
      let ready := fun need => old.length + (more need).length = need ∧
        (more need).all (fun r => r.poison.all (fun b => !b)) = true
      let k := (w.imm + 1) * (regsOf w.fmt 0).length
      (ready k → ∀ p ∈ [(Instr.ssum, addBits), (Instr.smax, maxBits)],
        ∃ t, exec (p.1 v) s = .next t ∧ (start k).veRan { t with step := s.step } v false
          ((w.imm + 1) - old.length * (w.imm + 1) / k)
          (regWrites w.fmt w.dst (streamTree (p.2 w.fmt) (streamElems w.fmt (old ++ more k)))) ∧ t.step = counted k) ∧
      (let m := w.imm + 1
       let need := if w.src3 % 2 = 0 then 2 * m else m
       ready need →
        ∃ t, exec (.nstat v) s = .next t ∧
          let rs := (List.range 256).map (fun i =>
            nstatOf (w.src3 % 2) m (s.constFp32 w.src2) (columnOf (((old ++ more need).take m).map (fun r => r.lanes)) i)
              (columnOf (((old ++ more need).drop m).map (fun r => r.lanes)) i))
          t.step = counted need ∧ (start need).veRan { t with step := s.step } v false (need - old.length)
            [(w.dst, cleanReg (rs.map (fun r => r.1))),
             (w.dst + 1, cleanReg (rs.map (fun r => primBits s.profile .rsqrt r.2.1))),
             (w.dst + 2, cleanReg (rs.map (fun r => r.2.2)))])) ∧
  (
    ∀ (v : VeOp) (s : State), s.veCan v →
      let w := veFields v.word
      let n := v.core.val
      ((s.core n).rsFifo.length < 4 → s.poisonIn n [w.src1, w.src2] = false →
        let rs := List.zipWith (smxStep s.profile) (s.vreg n w.src1).lanes (s.vreg n w.src2).lanes
        let l := if (s.ctx v.ctx).cls = 2 then rs.map (fun r => r.1) else []
        ∃ t, exec (.smxstep v) s = .next t ∧
          (s.modCore n (fun c => { c with
            rsFifo := c.rsFifo ++ [(rs.map (fun r => r.2), false)]
            logits := c.noted s.step.phase n v.ctx l
            seqs := c.stepped v.ctx l })).veRan
              t v false 1 [(w.dst, cleanReg (rs.map (fun r => r.1))), (w.dst + 1, cleanReg (rs.map (fun r => r.2)))]) ∧
      (∀ col r, (s.core n).smFifo = col :: r → s.poisonIn n (regsOf .fp64 w.src1) = false →
        ∃ t, exec (.smcvt v) s = .next t ∧
          (s.modCore n (fun c => { c with smFifo := r })).veRan t v false 1
            (regWrites .fp64 w.dst (List.zipWith (fun a b => addBits .fp64 a b.1) (s.elems n .fp64 w.src1)
              (col.vals.map smValue)))))

/-- R131, R161, R472: an instruction that reads poison writes nothing: its context faults with E_POISON (6), the event
flag is set, and no vector register, no byte of memory and no other context changes. -/
def Obligations.VePoisonFaults : Prop :=
  ∀ p ∈ veTwo, ∀ (v : VeOp) (s : State), s.veCan v →
    let w := veFields v.word
    s.poisonIn v.core (regsOf w.fmt w.src1 ++ regsOf w.fmt w.src2) = true →
    ∃ t, exec (p.1 v) s = .next t ∧ (t.ctx v.ctx).state = 6 ∧ (t.ctx v.ctx).code = 0x06 ∧
      (∀ n k, t.vreg n k = s.vreg n k) ∧ t.mem = s.mem ∧ bitAt (t.reg (bVe v.core + 0x18)) 4 = true

/-- R149, R156: the special-function instructions with one FP32 source, and POW with two, by the profile of the image. -/
def Obligations.SfeResult : Prop :=
  ∀ (v : VeOp) (s : State), s.veCan v →
    let w := veFields v.word
    (s.poisonIn v.core [w.src1] = false → ∀ p ∈ sfeOne,
      ∃ t, exec (p.1 v) s = .next t ∧
        s.veRan t v true 1 [(w.dst, cleanReg ((s.vreg v.core w.src1).lanes.map (p.2 s.profile)))]) ∧
    (s.poisonIn v.core [w.src1, w.src2] = false →
      ∃ t, exec (.pow v) s = .next t ∧
        s.veRan t v true 1 [(w.dst, cleanReg (List.zipWith (powBits s.profile) (s.vreg v.core w.src1).lanes
          (s.vreg v.core w.src2).lanes))])

/-- R154, R155: UTAB evaluates the active table of its slot; while a shadow waits for its swap the instruction waits and
counts it. R155: TABLE_SWAP makes the shadow active under the next epoch modulo 2^16, releases the fence of the table's
range, counts the swap and sets its flag; a slot with no shadow stays as it is. R153, R155, R254: TABLE_LOAD puts the
header and coefficients of its descriptor into the slot's shadow and fences the range it read; the active table stays
until the swap. -/
def Obligations.UserTableResult : Prop :=
  (
    ∀ (v : VeOp) (s : State), s.veCan v →
      let w := veFields v.word
      let slot := (s.core v.core).slot w.group
      (∀ u, slot.shadow = none → slot.active = some u → s.poisonIn v.core [w.src1] = false →
        ∃ t, exec (.utab v) s = .next t ∧
          s.veRan t v true 1 [(w.dst, cleanReg ((s.vreg v.core w.src1).lanes.map (utabBits u)))]) ∧
      (slot.shadow.isSome = true →
        ∃ t, exec (.utab v) s = .next t ∧ (∀ k, t.vreg v.core k = s.vreg v.core k) ∧
          t.reg (bSfe v.core + 0x108) = s.reg (bSfe v.core + 0x108) + 1)) ∧
  (
    ∀ (core : Fin 128) (slot : Fin 4) (s : State), s.fenced core = false →
      let x := (s.core core).slot slot
      (x.shadow = none → exec (.tableSwap core slot) s = .next s) ∧
      (∀ u, x.shadow = some u →
        ∃ t, exec (.tableSwap core slot) s = .next t ∧
          (t.core core).slot slot =
            { x with active := some u, shadow := none, epoch := (x.epoch + 1) % 65536, waiting := 0 } ∧
          (∀ k, k ≠ slot.val → (t.core core).slot k = (s.core core).slot k) ∧
          (t.core core).fence = (s.core core).fence.filter (fun r => !(r.kind == ownTable && r.owner == slot.val)) ∧
          t.reg (bSfe core + 0x120) = s.reg (bSfe core + 0x120) + 1 ∧ bitAt (t.reg (bSfe core + 0x20)) 4 = true ∧
          s.regsBut t [bSfe core + 0x120, bSfe core + 0x20] ∧ s.coresBut t core ∧ s.onlyCoresRegs t)) ∧
  (
    ∀ (v : VeOp) (s : State), s.veCan v → s.sramErr = [] →
      let w := veFields v.word
      let n := v.core.val
      let ws := s.tableDesc s.plan w.imm
      let view := s.view s.plan (wfld ws 3 63 48)
      let r := s.csElems n view ((List.range (4 * 2 ^ wfld ws 1 3 0)).map (indexOf view.sizes))
      ((s.core n).slot w.group).shadow = none → s.fenceRoom n 1 = true → s.viewAllowed v.ctx view = true →
      ∃ t, exec (.tableLoad v) s = .next t ∧
        s.coreIs t n { s.core n with
          sfeSeq := ((s.core n).sfeSeq + 1) % 2 ^ 32
          fence := (s.core n).fence ++ [⟨view.footprint.1, view.footprint.2, v.ctx, ownTable, w.group⟩]
          slots := kset {} (s.core n).slots w.group
            { (s.core n).slot w.group with shadow := some (tableOf ws (r.1.map (fun e => e.code))) } })

/-! ## The matrix engines -/

/-- R93, R123, R254, R355: a matrix pass whose shape is in its planned bounds and not zero, whose views lie in its
context's partition and whose ranges fit the fence table, queues with the next sequence number and fences its operands.
`r` reads the run-time shape. R106: a run-time shape above the planned shape, M, N or K, is refused: the context faults
with E_SHAPE_OVER (1), nothing queues, nothing is counted and nothing written. -/
def Obligations.MatrixPassIssues : Prop :=
  (
    ∀ (d : Desc) (s : State),
      let n := d.core.val
      let ws := s.issueWords d [(2, 48), (2, 32), (2, 16), (2, 0)]
      let r := s.shapeOf d.ctx s.plan (wfld ws 1 47 40) [wfld ws 1 63 55, wfld ws 1 54 48, pK ws]
      let m := r.1.1.getD 0 0
      let c := r.1.1.getD 1 0
      let kk := if wfld ws 1 47 40 = 0 then some (pK ws) else r.2.passK n d.words (r.1.1.getD 2 0)
      s.mayIssue n d.ctx = true → r.1.2 = false → m ≤ wfld ws 1 63 55 → c ≤ wfld ws 1 54 48 →
      ∀ k, kk = some k →
        ((m ≠ 0 ∧ c ≠ 0 ∧ k ≠ 0) → r.2.passAllowed d.ctx ws = true →
          r.2.fenceRoom n (r.2.passRanges ws).length = true →
          ∃ t, exec (.matrixPass d) s = .next t ∧
            let q := ((r.2.core n).passSeq + 1) % 2 ^ 32
            let x := kget {} (r.2.core n).seqs d.ctx
            r.2.coreIs t n { r.2.core n with
              passSeq := q
              seqs := kset {} (r.2.core n).seqs d.ctx { x with passes := x.passes + 1 }
              passes := (r.2.core n).passes ++
                [{ seq := q, ctx := d.ctx, plan := r.2.plan, words := ws, m := m, n := c, k := k
                   micro := microOf x, ord := (r.2.step.phase, x.passes + 1) }]
              fence := (r.2.core n).fence ++
                (r.2.passRanges ws).map (fun x => ⟨x.1, x.2, d.ctx, ownPass, q⟩) }) ∧
        ((m = 0 ∨ c = 0 ∨ k = 0) →
          ∃ t, exec (.matrixPass d) s = .next t ∧
            (let x := kget {} (r.2.core n).seqs d.ctx
             t.core n = { r.2.core n with
               passSeq := ((r.2.core n).passSeq + 1) % 2 ^ 32
               seqs := kset {} (r.2.core n).seqs d.ctx { x with passes := x.passes + 1 } }) ∧ r.2.coresBut t n ∧
            (pCnt ws < 4096 → t.tackleOf (pCnt ws) = (r.2.tackleOf (pCnt ws) + 1) % 2 ^ 64) ∧
            (∀ k, k ≠ pCnt ws → t.tackleOf k = r.2.tackleOf k) ∧ t.mem = r.2.mem ∧
            ∀ e, e < 4 → t.reg (bMe n e + 0x120) = r.2.reg (bMe n e + 0x120) + 1)) ∧
  (
    ∀ (d : Desc) (s : State),
      let n := d.core.val
      let ws := s.issueWords d [(2, 48), (2, 32), (2, 16), (2, 0)]
      let r := s.shapeOf d.ctx s.plan (wfld ws 1 47 40) [wfld ws 1 63 55, wfld ws 1 54 48, pK ws]
      let kk := if wfld ws 1 47 40 = 0 then some (pK ws) else r.2.passK n d.words (r.1.1.getD 2 0)
      s.mayIssue n d.ctx = true → r.1.2 = false → (r.2.ctx d.ctx).state = 2 →
      (wfld ws 1 63 55 < r.1.1.getD 0 0 ∨ wfld ws 1 54 48 < r.1.1.getD 1 0 ∨ kk = none) →
      ∃ t, exec (.matrixPass d) s = .next t ∧ (t.ctx d.ctx).state = 6 ∧ (t.ctx d.ctx).code = 0x01 ∧
        t.tackle = r.2.tackle ∧ t.mem = r.2.mem ∧ (t.core n).passSeq = (r.2.core n).passSeq ∧
        (∀ p ∈ (t.core n).passes, p ∈ (r.2.core n).passes))

/-- R96, R108–R110: PRELOAD_SHIFT takes the first queued pass that preloads, once its bank has drained: the pass holds its
preload buffer and, where ROWSCALE is set, the next row-scale vector, which leaves its FIFO; each cell then starts at its
preload times its row's factor, rounded once. R95, R96,
R115, R123: PASS_STREAM_START streams the first pass that has not started, once it is ready and its bank has drained;
PASS_REPLAY streams the failed pass again and counts a retry on each of the four engines. The tile then stands finished
and ME_PASS of each engine names the pass. -/
def Obligations.PassStreamResult : Prop :=
  (
    ∀ (core : Fin 128) (s : State) (x : List Pass × Pass × List Pass),
      let n := core.val
      let k := s.core n
      firstPass (fun p => p.phase == .queued && pPreload p.words && !p.resumed) [] k.passes = some x →
      s.fenced n = false → bankFree x.1 x.2.1 = true →
      (pRowScale x.2.1.words = false →
        let v := s.preloadOf n x.2.1
        ∃ t, exec (.preloadShift core) s = .next t ∧
          v.2.coreIs t n { v.2.core n with passes := (v.2.core n).passes.map (fun q =>
            if q.seq = x.2.1.seq then
              { q with phase := .shifted, pre := v.1.1, poison := q.poison || v.1.2 } else q) }) ∧
      (pRowScale x.2.1.words = true → ∀ f r, k.rsFifo = f :: r →
        let v := (s.modCore n (fun c => { c with rsFifo := r })).preloadOf n x.2.1
        ∃ t, exec (.preloadShift core) s = .next t ∧
          v.2.coreIs t n { v.2.core n with passes := (v.2.core n).passes.map (fun q =>
            if q.seq = x.2.1.seq then
              { q with phase := .shifted, rowScale := some f.1, pre := v.1.1, poison := q.poison || v.1.2 || f.2 }
            else q) }) ∧
      (pRowScale x.2.1.words = true → k.rsFifo = [] → exec (.preloadShift core) s = .next s)) ∧
  (
    ∀ (p : Pass) (cell : Nat) (fs : List Nat), pSplit p.words = false → p.rowScale = some fs →
      p.start cell = (layout32.rne ((layout32.decode (kget 0 p.pre cell).toNat).mul
        (layout32.decode (fs.getD (cell / 64) 0))) : Nat)) ∧
  (
    ∀ (core : Fin 128) (s : State) (x : List Pass × Pass × List Pass),
      let n := core.val
      s.fenced n = false →
      (firstPass (fun p => p.phase != .streamed && p.phase != .drained) [] (s.core n).passes = some x →
        streamReady x.2.1 = true → bankFree x.1 x.2.1 = true →
        let h := (s.countReplay n x.2.1).hurtWords 4 n
        let r := h.2.streamTo n x.2.1 x.2.1.k
        ∃ t, exec (.passStreamStart core) s = .next t ∧
          t.core n = { r.2.core n with passes := (r.2.core n).passes.map (fun q =>
            if q.seq = x.2.1.seq then { r.1 with phase := .streamed, poison := r.1.poison || h.1 } else q) } ∧
          r.2.coresBut t n ∧ r.2.onlyCoresRegs t ∧
          (∀ e, e < 4 → t.reg (bMe n e + 0x10) = packWord [(32, x.2.1.seq % 2 ^ 32), (0, x.2.1.kFrom % 2 ^ 32)]) ∧
          r.2.regsBut t ((List.range 4).map (fun e => bMe n e + 0x10))) ∧
      (firstPass (fun p => p.phase == .failed) [] (s.core n).passes = some x →
        ∃ t, exec (.passReplay core) s = .next t ∧
          (s.sramErr = [] → ∀ e, e < 4 → t.reg (bMe n e + 0x128) = s.reg (bMe n e + 0x128) + 1) ∧
          let r := (eachMe (fun u e => u.count (bMe n e + 0x128) 1) s).streamTo n x.2.1 x.2.1.k
          t.core n = { r.2.core n with passes := (r.2.core n).passes.map (fun q =>
            if q.seq = x.2.1.seq then { r.1 with phase := .streamed } else q) } ∧
          r.2.coresBut t n ∧ r.2.onlyCoresRegs t))

/-- R97, R112: a pass whose checks pass drains once the drain buffer is empty. R114, R127, R128: the comparisons skipped,
the stream cycles of each engine with a valid row and the entries of the fed columns are counted. R115, R126: the first failed check of a
pass abandons every later pass in progress and calls for a replay; nothing of it leaves; the log names it. -/
def Obligations.PassDrainResult : Prop :=
  (
    ∀ (core : Fin 128) (chk : Chk) (s : State) (x : List Pass × Pass × List Pass),
      let n := core.val
      firstPass (fun p => p.phase == .streamed) [] (s.core n).passes = some x →
      s.fenced n = false → (s.core n).drainBusy = false → s.armed = false → passFails x.2.1 chk = [] →
      ∃ t, exec (.passDrain core chk) s = .next t ∧
        t.core n = { s.core n with
          drainBusy := true
          passes := (s.core n).passes.map (fun q =>
            if q.seq = x.2.1.seq then { q with phase := .drained } else q) } ∧
        s.coresBut t n ∧ s.onlyCoresRegs t ∧
        (∀ e, e < 4 → t.reg (bMe n e + 0x140) =
          s.reg (bMe n e + 0x140) + BitVec.ofNat 64 (skippedColumns x.2.1 e)) ∧
        (∀ e, e < 4 → x.2.1.rows.any (fun r => r / 64 = e) = true → t.reg (bMe n e + 0x100) =
          s.reg (bMe n e + 0x100) + BitVec.ofNat 64 (streamCycles (pFmtA x.2.1.words) (pFmtB x.2.1.words)
            (fedK x.2.1.words x.2.1.k - x.2.1.kFrom))) ∧
        t.reg (bMe n 0 + 0x208) = s.reg (bMe n 0 + 0x208) + BitVec.ofNat 64
          (x.2.1.cols.length * ((fedK x.2.1.words x.2.1.k - x.2.1.kFrom) / entryK (pFmtB x.2.1.words))) ∧
        s.regsBut t ((bMe n 0 + 0x208) :: (List.range 4).flatMap (fun e => [bMe n e + 0x100, bMe n e + 0x140]))) ∧
  (
    ∀ (core : Fin 128) (chk : Chk) (s : State) (x : List Pass × Pass × List Pass),
      let n := core.val
      let fs := passFails x.2.1 chk
      firstPass (fun p => p.phase == .streamed) [] (s.core n).passes = some x →
      s.fenced n = false → (s.core n).drainBusy = false → s.armed = false → chk.fails < 2 → fs ≠ [] → x.2.1.replay = [] →
      ∃ t, exec (.passDrain core chk) s = .next t ∧
        t.core n = { s.core n with passes := (s.core n).passes.map (fun q =>
          if q.seq = x.2.1.seq then { q with phase := .failed, replay := failEngines fs } else abandon q) } ∧
        s.coresBut t n ∧ t.mem = s.mem ∧ t.tackle = s.tackle ∧
        ∀ f, fs = [f] → let e := f.2.1 / 4096 % 4
          t.reg (bMe n e + 0x28) = passLog x.2.1 { kind := f.1, unit := f.2.1, block := f.2.2 } ∧
          t.reg (bMe n e + 0x30) = BitVec.ofNat 64 s.time.now)

/-- R95, R99, R104, R118: a drained pass that met no poison retires: its result is written, or in split-mantissa mode its
columns go to the drain path, its fence is released, the drain buffer is free unless a restored tile stands in it, and its tackle counter counts one. Every
byte of memory outside the words its output view covers stays. -/
def Obligations.PassRetireResult : Prop :=
  ∀ (core : Fin 128) (s : State) (x : List Pass × Pass × List Pass),
    let n := core.val
    let p := x.2.1
    let ws := p.words
    firstPass (fun p => p.phase == .drained) [] (s.core n).passes = some x →
    s.fenced n = false → s.sramErr = [] → p.poison = false →
    let left := (s.core n).passes.filter (fun q => q.seq ≠ p.seq)
    let base := (s.modCore n (fun c => { c with
        passes := left, drainBusy := left.any (fun q => q.phase == .drained) })).fenceRetire n ownPass p.seq
    let mk := (base.passMasks n ws).1
    let rows := validIdx mk.1 p.m
    let cols := validIdx mk.2.1 p.n
    let v := base.view p.plan (wfld ws 2 31 16)
    let outs := (rows.flatMap (fun r => cols.map (fun c => (r, c)))).map (fun y =>
      (tileIdx v (wfld ws 5 31 0 + y.2) (wfld ws 5 63 32 + y.1),
        ({ code := (drainConvert (pFmtOut ws) (bitAt (wd ws 0) 40) (kget 0 p.cells (y.1 * 64 + y.2)).toNat).1 } : Elem)))
    ∃ t, exec (.passRetire core) s = .next t ∧
      (t.core n).passes = left ∧ (t.core n).drainBusy = left.any (fun q => q.phase == .drained) ∧
      (t.core n).fence = (s.core n).fence.filter (fun r => !(r.kind == ownPass && r.owner == p.seq)) ∧
      (pCnt ws < 4096 → t.tackleOf (pCnt ws) = (s.tackleOf (pCnt ws) + 1) % 2 ^ 64) ∧
      (∀ k, k ≠ pCnt ws → t.tackleOf k = s.tackleOf k) ∧
      (pSplit ws = true → t.mem = s.mem ∧
        (t.core n).smFifo = (s.core n).smFifo ++ splitColumns base n p rows cols) ∧
      (pSplit ws = false → t.mem = (base.csPut n (v.writes outs)).mem ∧
        ∀ j, (∀ w ∈ v.writes outs, j < csAddr n (8 * w.1) ∨ csAddr n (8 * w.1) + 8 ≤ j) →
          kget 0 t.mem j = kget 0 s.mem j)

/-! ## Small-matrix routines and the layout engine -/

/-- R143, R106, R254: each routine descriptor whose batch count is in bounds and not zero, whose views lie in its
partition and which finds fence entries, becomes its core's routine and fences its first group; a count of zero is a
no-op that counts CNT_ID. `r` reads the run-time count. R144, R146, R148, R157: a group whose operands hold no poison
and whose check passes writes the results of its elements, at most four, from the state its check leaves; the last group
retires the routine and counts CNT_ID, any other goes on to the next. -/
def Obligations.RoutineResult : Prop :=
  (
    ∀ c ∈ [Instr.smallLu, Instr.smallCholesky, Instr.lowerSolve, Instr.upperSolve, Instr.unitLowerSolve],
    ∀ (d : Desc) (s : State),
      let n := d.core.val
      let ws := s.issueWords d [(2, 48), (2, 32), (2, 16), (2, 0)]
      let r := s.shapeOf d.ctx s.plan (wfld ws 1 31 24) [wfld ws 1 63 32]
      let b := r.1.1.getD 0 0
      s.veReady n d.ctx = true → (s.core n).stream = [] → r.1.2 = false → b ≤ wfld ws 1 63 32 →
      (b = 0 → ∃ t, exec (c d) s = .next t ∧ (t.core n).routine = (r.2.core n).routine ∧ t.mem = r.2.mem ∧
        (wfld ws 3 63 48 < 4096 → t.tackleOf (wfld ws 3 63 48) = (r.2.tackleOf (wfld ws 3 63 48) + 1) % 2 ^ 64)) ∧
      (b ≠ 0 → (r.2.routineViews r.2.plan ws).all (fun v => r.2.viewAllowed d.ctx v.2) = true →
        r.2.fenceRoom n 3 = true →
        ∃ t, exec (c d) s = .next t ∧
          let x : Routine := { ctx := d.ctx, plan := r.2.plan, words := ws, batch := b, num := (r.2.core n).aeNum }
          r.2.coreIs t n { r.2.core n with
            routine := some x
            aeNum := (r.2.core n).aeNum + 1
            fence := (r.2.core n).fence.filter (fun y => !(y.kind == ownRoutine && y.owner == 0)) ++
              (r.2.groupRanges x.plan ws b 0).map (fun y => ⟨y.1, y.2, d.ctx, ownRoutine, 0⟩) })) ∧
  (
    ∀ (core : Fin 128) (chk : Chk) (s : State) (r : Routine),
      let n := core.val
      (s.core n).routine = some r → s.sramErr = [] → s.armed = false → chk.fails = 0 →
      let bs := (List.range 4).filterMap (fun i => if 4 * r.group + i < r.batch then some (4 * r.group + i) else none)
      let es := (s.routineElems n r bs).1
      let base := (s.checkGroup n chk).2
      let done := (List.zipWith (fun b x => (b, x.1)) bs es).foldl (fun t x => t.writeElim n r x.1 x.2) base
      ∃ t, exec (.routineGroupDone core chk) s = .next t ∧ t.mem = done.mem ∧
        (∀ k, t.vreg n k = s.vreg n k) ∧
        (r.batch ≤ 4 * (r.group + 1) → (t.core n).routine = none ∧
          (wfld r.words 3 63 48 < 4096 →
            t.tackleOf (wfld r.words 3 63 48) = (s.tackleOf (wfld r.words 3 63 48) + 1) % 2 ^ 64)) ∧
        (4 * (r.group + 1) < r.batch → (t.core n).routine = some { r with group := r.group + 1 } ∧
          t.tackle = s.tackle))

/-- R295, R254: each layout descriptor whose shape is in bounds, not zero and acceptable queues behind those of its core
and fences its source. `r` reads the run-time shape. R296, R298, R301: the tile in progress, its checks passed and no
fenced range in its way, is written element by element from the source elements R296 names; no byte outside the words
those elements cover changes; the last tile retires the operation and counts CNT_ID. -/
def Obligations.LayoutResult : Prop :=
  (
    ∀ c ∈ [Instr.transpose, Instr.bitrev, Instr.stride, Instr.layoutCopy], ∀ (d : Desc) (s : State),
      let n := d.core.val
      let ws := s.issueWords d [(1, 48), (1, 32)]
      let src := s.view s.plan (wfld ws 1 63 48)
      let dst := s.view s.plan (wfld ws 1 47 32)
      let r := s.shapeOf d.ctx s.plan (wfld ws 1 15 8) src.shape
      let sizes := src.opSizes r.1.1
      s.mayIssue n d.ctx = true → r.1.2 = false →
      (List.zipWith (fun a b => decide (b < a)) r.1.1 src.shape).any (fun b => b) = false →
      sizes.any (· = 0) = false → layoutSizeOk ws sizes = true →
      r.2.viewAllowed d.ctx src = true → r.2.viewAllowed d.ctx dst = true → r.2.fenceRoom n 1 = true →
      ∃ t, exec (c d) s = .next t ∧
        let q := ((r.2.core n).leSeq + 1) % 2 ^ 32
        r.2.coreIs t n { r.2.core n with
          leSeq := q
          leWaits := false
          layouts := (r.2.core n).layouts ++
            [{ seq := q, ctx := d.ctx, plan := r.2.plan, words := ws, sizes := sizes, edge := src.opEdge r.1.1 }]
          fence := (r.2.core n).fence ++ [⟨src.footprint.1, src.footprint.2, d.ctx, ownLayout, q⟩] }) ∧
  (
    ∀ (core : Fin 128) (chk : Chk) (s : State) (op : LayoutOp) (rest : List LayoutOp),
      let n := core.val
      let ws := op.words
      let dst := s.view op.plan (wfld ws 1 47 32)
      let sizes := layoutDst ws op.sizes
      let idx := tileIndices (lFmt ws) sizes op.tile
      (s.core n).layouts = op :: rest → s.sramErr = [] → s.armed = false → chk.fails = 0 →
      (runsOf (dst.writes (idx.map (fun i => (i, { code := 0 }))))).any
        (fun r => s.fenceHitBy n r.1 r.2 (fun x => x.kind != ownLayout)) = false →
      let w := dst.writes (List.zipWith (fun i e => (i, e)) idx
        (s.csElems n ((s.view op.plan (wfld ws 1 63 48)).edged op.edge) (idx.map (layoutSource ws op.sizes))).1)
      ∃ t, exec (.layoutTileDone core chk) s = .next t ∧ t.mem = (s.csPut n w).mem ∧
        (∀ j, (∀ x ∈ w, j < csAddr n (8 * x.1) ∨ csAddr n (8 * x.1) + 8 ≤ j) → kget 0 t.mem j = kget 0 s.mem j) ∧
        t.reg (bLe n + 0x108) = s.reg (bLe n + 0x108) + BitVec.ofNat 64 (idx.length * (lFmt ws).width / 8) ∧
        ((op.tile + 1) * tileElems (lFmt ws) < volume sizes →
          (t.core n).layouts = { op with tile := op.tile + 1 } :: rest ∧ t.tackle = s.tackle) ∧
        (volume sizes ≤ (op.tile + 1) * tileElems (lFmt ws) →
          (t.core n).layouts = rest ∧ t.reg (bLe n + 0x100) = s.reg (bLe n + 0x100) + 1 ∧
          (lCnt ws < 4096 → t.tackleOf (lCnt ws) = (s.tackleOf (lCnt ws) + 1) % 2 ^ 64)))

namespace Sys2Proof.Machine.Rows

/-- R246: the access-engine descriptors. -/
def aeDescs : List (Desc → Instr) :=
  [.load, .store, .fillFifo, .drainFifo, .gather, .atomicAdd, .atomicMin, .atomicMax, .atomicAnd, .atomicOr, .atomicXor,
   .hoist, .hoistExpert, .furl, .unfurl, .deepFurl, .deepUnfurl, .remoteRead]

end Sys2Proof.Machine.Rows

/-! ## The access engine -/

/-- R244–R248, R254, R106: a descriptor whose queue has room, whose run-time shape `r` is in bounds and not zero, whose
core-store views lie in its partition and which finds fence entries joins the tail of its queue with the next number, a
LOAD with a hoist after trying to confirm it (R266), its source range fenced; the queue then runs. A size of zero, but for the row
count of a GATHER (R293), is a no-op that counts CNT_ID; one above the planned shape faults the context with E_SHAPE_OVER and reads and writes nothing. -/
def Obligations.AeDescriptorQueues : Prop :=
  ∀ c ∈ aeDescs, ∀ (d : Desc) (s : State),
    let n := d.core.val
    let ws := s.issueWords d [(1, 48), (1, 32), (1, 16)]
    let q := aQueue ws
    let v := s.shapedView ws
    let r := s.shapeOf d.ctx s.plan (wfld ws 3 55 48) v.shape
    let sizes := v.opSizes r.1.1
    let num := (r.2.core n).aeNum
    let item : AeItem := { num := num, ctx := d.ctx, plan := r.2.plan, words := ws, sizes := sizes, edge := v.opEdge r.1.1
                           cuts := if slices ws then r.2.sliceCuts n else [] }
    let above := (List.zipWith (fun a b => decide (b < a)) r.1.1 v.shape).any (fun b => b)
    s.mayIssue n d.ctx = true → (s.queue n q).length < 32 → r.1.2 = false →
    (above = true → (r.2.ctx d.ctx).state = 2 → ∃ t, exec (c d) s = .next t ∧ (t.ctx d.ctx).state = 6 ∧
      (t.ctx d.ctx).code = 0x01 ∧ t.mem = r.2.mem ∧ t.tackle = r.2.tackle ∧ t.sent = r.2.sent ∧
      (t.core n).aeNum = num ∧ ∀ p, ∀ i ∈ t.queue n p, i ∈ r.2.queue n p) ∧
    (above = false → (clampedOut ws sizes).any (· = 0) = true → exec (c d) s = .next (r.2.tackleAdd (aCnt ws) 1)) ∧
    (above = false → (clampedOut ws sizes).any (· = 0) = false → r.2.aeAllowed d.ctx ws = true →
      r.2.fenceRoom n (r.2.aeRanges ws).length = true →
      ∃ x, r.2.coreIs x n { r.2.core n with
          aeNum := num + 1
          fence := (r.2.core n).fence ++ (r.2.aeRanges ws).map (fun y => ⟨y.1, y.2, d.ctx, ownQueue, num⟩) } ∧
        let h := if aOp ws = 0x20 ∧ aHoist ws ≠ 0 then x.confirmHoist n item else (item, x)
        ∃ y : State, exec (c d) s = .next (y.runQueue n q) ∧
          h.2.coreIs y n { h.2.core n with queues := kmod [] (h.2.core n).queues q (fun l => l ++ [h.1]) })

/-- R260, R395, R397, R398: what is summed and combined does not depend on its order: two atomic operations on an element,
two exponent words or special marks, two contributions to the elements of a collective's result. -/
def Obligations.CombinationOrderFree : Prop :=
  (∀ (op a b c : Nat), a < 2 ^ 32 → b < 2 ^ 32 → c < 2 ^ 32 →
    atomicOp op (atomicOp op a b) c = atomicOp op (atomicOp op a c) b) ∧
  (∀ a b c : Nat, expoJoin a b = expoJoin b a ∧ expoJoin (expoJoin a b) c = expoJoin a (expoJoin b c)) ∧
  (∀ a b c : Nat, specialJoin a b = specialJoin b a ∧
    specialJoin (specialJoin a b) c = specialJoin a (specialJoin b c)) ∧
  (∀ (o : CollOp) (i j : Nat) (p q : Int) (a b : Nat) (x y : Bool),
    let l := (o.addFixed i p a x).addFixed j q b y
    let r := (o.addFixed j q b y).addFixed i p a x
    ∀ k, kget 0 l.sums k = kget 0 r.sums k ∧ kget 0 l.specials k = kget 0 r.specials k ∧ (k ∈ l.bad ↔ k ∈ r.bad))

/-- R247, R251, R254: once the queue has run, a finished head of a context that runs retires: it leaves the queue, its
fence is released, CNT_ID counts one; the queue then runs on. A head that is not finished stays. R254:
FENCED_WRITE_RELEASE: the device-space writes to the core that no fence entry holds land; the fenced writes of the queue
may go on; the queue runs. R265, R266, R272: a hoist whose reads have all returned lands unconfirmed: where the retire
fence does not hold it, its entry is marked landed, a core-store destination takes the converted elements, and its LOADs
decide. -/
def Obligations.AeRetireAndReleaseResult : Prop :=
  (
    ∀ (core : Fin 128) (queue : Fin 8) (s : State) (i : AeItem) (r : List AeItem),
      let n := core.val
      let u := s.runQueue n queue
      u.queue n queue = i :: r →
      (i.phase = .finished → (u.ctx i.ctx).state = 2 →
        ∃ x : State, exec (.aeDescriptorRetire core queue) s = .next (x.runQueue n queue) ∧
          x.queue n queue = r ∧ (∀ p, p ≠ queue.val → x.queue n p = u.queue n p) ∧
          (x.core n).fence = (u.core n).fence.filter (fun f => !(f.kind == ownQueue && f.owner == i.num)) ∧
          (aCnt i.words < 4096 → x.tackleOf (aCnt i.words) = (u.tackleOf (aCnt i.words) + 1) % 2 ^ 64) ∧
          (∀ k, k ≠ aCnt i.words → x.tackleOf k = u.tackleOf k) ∧ x.mem = u.mem ∧ x.regs = u.regs) ∧
      (i.phase ≠ .finished → exec (.aeDescriptorRetire core queue) s = .next u)) ∧
  (
    ∀ (core : Fin 128) (queue : Fin 8) (s : State),
      let n := core.val
      let u := s.landWrites n
      ∃ x : State, exec (.fencedWriteRelease core queue) s = .next (x.runQueue n queue) ∧
        x.queue n queue = (u.queue n queue).map (fun i => if i.phase = .fenced then { i with phase := .ready } else i) ∧
        (∀ p, p ≠ queue.val → x.queue n p = u.queue n p) ∧ x.mem = u.mem ∧ u.coresBut x n) ∧
  (
    ∀ (core : Fin 128) (hoist : Nat) (s : State) (h : Hoist),
      s.hoists.find? (fun h => h.core == core.val && h.id == hoist && !h.landed) = some h →
      (s.ctx h.ctx).state = 2 → h.need = [] → h.wait = 0 → h.usable = true → (s.view h.plan h.dst).space = 1 →
      let r := s.hoistBits h
      (runsOf r.1.1).any (fun x => s.fenceHit h.core x.1 x.2) = false →
      ∃ x : State, exec (.hoistLanded core hoist) s = .next ((x.decideConfirms h.ctx h.id).runEngines) ∧
        x.mem = (r.2.csPut h.core r.1.1).mem ∧
        (∃ y ∈ x.hoists, y.order = h.order ∧ y.landed = true ∧ y.version = s.hoistVersion h))

/-- R256, R257: a LOAD or FILL_FIFO that waits on a counter prefetches at most 2^RA_LOG2 bytes of its source; run-ahead
stops at a page that permits none and at a host page, and a piece that misses the TLB is dropped and counted. Any other
descriptor prefetches nothing, and none does while fewer than 128 of the 640 read trackers are free. R258, R262: with the
stream prefetcher on, the head of the queue running and enough trackers free, two misses of the queue at consecutive lines
fetch the next SPF_DEPTH lines from the line after the second; off, with nothing queued, with fewer trackers free or with
other misses, nothing happens. -/
def Obligations.PrefetchResult : Prop :=
  (
    ∀ (d : Desc) (s : State),
      let n := d.core.val
      let c := d.ctx.val
      let ws := s.issueWords d [(1, 48), (1, 32), (1, 16)]
      let v := s.view s.plan (aSrc ws)
      let ra := wfld ws 3 31 27
      let is := (List.range (min (volume v.plan) (2 ^ ra * 8 / v.fmt.width))).map (indexOf v.plan)
      ((s.ctx c).state = 2 → s.fenced n = false → s.trackers n ≤ 512 → (kget {} (s.core n).seqs c).waitCnt.isSome = true →
        (aOp ws = 0x20 ∨ aOp ws = 0x22) → ra ≠ 0 → v.space = 0 →
        exec (.runAheadPrefetch d) s = .next (s.runAhead n c (2 ^ ra) (cutRuns (runsOf (v.reads is)))) ∧
        (∀ p l pa policy, cutRuns (runsOf (v.reads is)) = p :: l → s.translate n c p.1 false = .stack pa policy false →
          exec (.runAheadPrefetch d) s = .next s) ∧
        (∀ p l a b, cutRuns (runsOf (v.reads is)) = p :: l → s.translate n c p.1 false = .host a b →
          exec (.runAheadPrefetch d) s = .next s) ∧
        (∀ p, cutRuns (runsOf (v.reads is)) = [p] → s.translate n c p.1 false = .miss →
          ∃ t, exec (.runAheadPrefetch d) s = .next t ∧
            t.reg (bAe n + 0x118) = s.reg (bAe n + 0x118) + 1 ∧ bitAt (t.reg (bAe n + 0x18)) 0 = true ∧
            s.regsBut t [bAe n + 0x118, bAe n + 0x18] ∧ t.mem = s.mem)) ∧
      ((wfld ws 3 31 27 = 0 ∨ 512 < s.trackers n) → exec (.runAheadPrefetch d) s = .next s)) ∧
  (
    ∀ (core : Fin 128) (queue : Fin 8) (va : Nat) (s : State),
      let n := core.val
      let ctl := s.reg (bAe n + 0x10)
      (∀ i r pa ra, s.queue n queue = i :: r → bitAt ctl 0 = true → (s.ctx i.ctx).state = 2 → s.trackers n ≤ 512 →
        s.translate n i.ctx va false = .stack pa 0 ra → kget (0, 0) (s.core n).misses queue = (pa / 128 - 1, pa / 128) →
        128 ≤ pa →
        exec (.streamPrefetch core queue va) s =
          .next (s.streamAhead n i.ctx (s.pageOf n i.ctx va) ((va / 128 + 1) * 128) (max 1 (fld ctl 4 1))) ∧
        ((s.translate n i.ctx ((va / 128 + 1) * 128) false = .miss) →
          ∃ t, exec (.streamPrefetch core queue va) s = .next t ∧
            t.reg (bAe n + 0x118) = s.reg (bAe n + 0x118) + 1 ∧ t.mem = s.mem)) ∧
      ((s.queue n queue = [] ∨ bitAt ctl 0 = false ∨ 512 < s.trackers n ∨
          (kget (0, 0) (s.core n).misses queue).2 ≠ (kget (0, 0) (s.core n).misses queue).1 + 1) →
        exec (.streamPrefetch core queue va) s = .next s))

/-- R280, R281: the owner of a region answers a remote read with the bytes and poison of the range, and refuses one that
it does not export or in a state without a job image; a response without a route faults the reader's context with
E_NO_ROUTE (0x11), a refused one with E_PERM (0x0A), and a good one hands its bytes with their poison to the descriptor
that waits. -/
def Obligations.RemoteReadResult : Prop :=
  (∀ (r : RemoteReq) (s : State) (b : List Word), (s.mode = .running ∨ s.mode = .halted) →
    s.exportedAt r.va r.length = some b →
    let x := s.readVa b (r.length / 4096 + 2) r.va r.length
    let y : Sent := { kind := .remoteResponse, dest := r.module, bytes := x.1.map (fun y => y.1),
                      words := x.1.map (fun y => if y.2 then 1 else 0) }
    ∃ t, exec (.remoteReadRequestReceived r) s = .next t ∧ t = (x.2.send y).freeMsg r.module 3 ∧ y ∈ t.sent ∧
      t.mem = x.2.mem) ∧
  (∀ (r : RemoteReq) (s : State), (s.mode ≠ .running ∧ s.mode ≠ .halted ∨ s.exportedAt r.va r.length = none) →
    exec (.remoteReadRequestReceived r) s =
      .next ((s.send { kind := .remoteResponse, dest := r.module, status := 0x0A }).freeMsg r.module 3)) ∧
  (∀ (core : Fin 128) (r : RemoteResp) (s : State) (i : AeItem),
    let n := core.val
    (s.queue n r.queue).find? (fun i => aOp i.words == 0x2E && i.vstage == 1) = some i →
    (r.noRoute = false → r.refused = false → r.crcOk = true →
      ∃ x : State, exec (.remoteReadResponse core r) s = .next x.runEngines ∧
        x.queue n r.queue = (s.queue n r.queue).map (fun y => if y.num = i.num then
          { i with vstage := 2, host := [(0, r.data.zipIdx.map (fun b => (b.1, r.poison.getD (b.2 / 8) false)))] }
          else y) ∧ x.mem = s.mem) ∧
    ((s.ctx i.ctx).state = 2 → r.noRoute = true →
      ∃ t, exec (.remoteReadResponse core r) s = .next t ∧ (t.ctx i.ctx).state = 6 ∧ (t.ctx i.ctx).code = 0x11 ∧
        t.mem = s.mem) ∧
    ((s.ctx i.ctx).state = 2 → r.noRoute = false → r.refused = true →
      ∃ t, exec (.remoteReadResponse core r) s = .next t ∧ (t.ctx i.ctx).state = 6 ∧ (t.ctx i.ctx).code = 0x0A ∧
        t.mem = s.mem))

/-! ## Page operations, walks and invalidation -/

/-- R197, R198, R106: a page operation whose count `r` reads is in bounds and not zero takes the next number of its core
and runs page by page from its first page; a count of zero is a no-op that counts CNT_ID. R198, R202: one page: ALLOC
takes the lowest free frame with count 1; SHARE counts one more on the source's frame; RELEASE counts one less, or gives
the frame back once its invalidation is complete; a requirement that fails refuses the page and changes no count. Of one
planned page each operation completes: ALLOC with its frame counted once, SHARE with one mapping more, RELEASE with one less, the
operation finished and its invalidation asked for; on a mapped page ALLOC parks at it with E_PERM (0x0A) and COUNT_FAULT. R201,
R202: COW_SERVICE_DONE of a copy gives the old frame one mapping less without BUSY, leaves the new frame counted once,
counts the copy, sets E_COW's flag and ends the service; its writers go on. A service that keeps its frame clears COW, counts
where the frame is a pool's, and ends; one that waits for BUSY walks again once it is clear. -/
def Obligations.PageOperationResult : Prop :=
  (
    ∀ c ∈ [Instr.alloc, Instr.share, Instr.release], ∀ (d : Desc) (s : State),
      let n := d.core.val
      let r := s.shapeOf d.ctx s.plan (wfld d.words 1 31 24) [wfld d.words 3 63 44]
      let count := r.1.1.getD 0 0
      let num := (r.2.core n).aeNum
      let o : PageOp := { ctx := d.ctx, words := d.words, count := count, num := num }
      s.mayIssue n d.ctx = true → r.1.2 = false → count ≤ wfld d.words 3 63 44 →
      (count ≠ 0 → ∃ x : State, exec (c d) s = .next (x.runPageOp n o) ∧
        r.2.coreIs x n { r.2.core n with aeNum := num + 1, pageOps := (r.2.core n).pageOps ++ [o] }) ∧
      (count = 0 → ∃ t, exec (c d) s = .next t ∧ t.mem = r.2.mem ∧ (t.core n).pageOps = (r.2.core n).pageOps ∧
        (pCntId d.words < 4096 →
          t.tackleOf (pCntId d.words) = (r.2.tackleOf (pCntId d.words) + 1) % 2 ^ 64))) ∧
  (
    ∀ (d : Desc) (s : State), s.mayIssue d.core d.ctx = true → wfld d.words 1 31 24 = 0 → wfld d.words 3 63 44 = 1 →
      let n := d.core.val
      let c := d.ctx.val
      let num := (s.core n).aeNum
      let o : PageOp := { ctx := c, words := d.words, count := 1, num := num }
      let u := s.modCore n (fun k => { k with aeNum := num + 1, pageOps := k.pageOps ++ [o] })
      let v := u.pageVas o 0
      let ends := fun (t : State) (va : Nat) => { o with page := 1, phase := .finished } ∈ (t.core n).pageOps ∧
        ∃ i ∈ t.invals, i.asid = (s.ctx c).asid ∧ i.lo = va % 2 ^ 57 ∧ i.hi = va % 2 ^ 57 + 65536 ∧ i.op = some (n, num)
      let e := u.pageEntry n c v.1
      (pOp d.words = 0 → ∀ a pte f, e.1 = .at a pte → bitAt pte 0 = false → e.2.freeFrame (pStack d.words) = some f →
        ∃ t, exec (.alloc d) s = .next t ∧ t.ledgerOf (pStack d.words) f = 1 ∧ ends t v.1) ∧
      (pOp d.words = 2 → ∀ a pte k f, e.1 = .at a pte → bitAt pte 0 = true →
        e.2.poolFrame (fld pte 47 16 * 65536) = some (k, f) → ledgerBusy (e.2.ledgerOf k f) = false →
        ∃ t, exec (.release d) s = .next t ∧ ends t v.1 ∧
          (1 < ledgerCount (e.2.ledgerOf k f) → t.ledgerOf k f = e.2.ledgerOf k f - 1)) ∧
      (pOp d.words = 1 → ∀ a pte b old k f, (u.pageEntry n c v.2).1 = .at a pte →
        let w := (u.pageEntry n c v.2).2.pageEntry n c v.1
        w.1 = .at b old → bitAt pte 0 = true → bitAt old 0 = false →
        w.2.poolFrame (fld pte 47 16 * 65536) = some (k, f) → ledgerCount (w.2.ledgerOf k f) < 65535 →
        ledgerBusy (w.2.ledgerOf k f) = false →
        ∃ t, exec (.share d) s = .next t ∧ ends t v.1 ∧ t.ledgerOf k f = w.2.ledgerOf k f + 1) ∧
      (pOp d.words = 0 → ∀ a pte, e.1 = .at a pte → bitAt pte 0 = true →
        ∃ t, exec (.alloc d) s = .next t ∧ { o with phase := .parked } ∈ (t.core n).pageOps ∧
          (∃ p ∈ t.parks, p.core = n ∧ p.ctx = c ∧ p.engine = 1 ∧ p.granule = 0 ∧ p.va = v.1 ∧ p.code = 0x0A) ∧
          bitAt (t.reg (bLedger (pStack d.words) + 0x10)) 3 = true ∧ bitAt (t.reg (bXl + 0x10)) 1 = true)) ∧
  (
    ∀ (s : State) (n : Nat) (o : PageOp) (va : Nat) (a : Nat) (pte : Word),
      let e := s.pageEntry n o.ctx va
      e.1 = .at a pte →
      let k := pStack o.words
      (bitAt pte 0 = false → ∀ f, e.2.freeFrame k = some f →
        (s.allocPage n o va).1 = .done [] ∧ (s.allocPage n o va).2.ledgerOf k f = 1 ∧
        ∀ g, g ≠ f → (s.allocPage n o va).2.ledgerOf k g = e.2.ledgerOf k g) ∧
      (bitAt pte 0 = true → (s.allocPage n o va) = (.refused k va, e.2)) ∧
      (bitAt pte 0 = false → (s.releasePage n o va) = (.refused k va, e.2)) ∧
      (bitAt pte 0 = true → ∀ j f, e.2.poolFrame (fld pte 47 16 * 65536) = some (j, f) →
        let x := e.2.ledgerOf j f
        ledgerBusy x = false →
        (ledgerCount x ≤ 1 → (s.releasePage n o va).1 = .done [(j, f)] ∧ (s.releasePage n o va).2.ledgerOf j f = x) ∧
        (1 < ledgerCount x → (s.releasePage n o va).1 = .done [] ∧ (s.releasePage n o va).2.ledgerOf j f = x - 1))) ∧
  (
    ∀ (m : Nat) (s : State) (w : Cow) (f g : Nat), s.cows[m]? = some w → w.stage = .copy g → w.frame = some f →
      let k := w.stack
      ∃ x : State, exec (.cowServiceDone m) s = .next (x.endCow w) ∧
        (f ≠ g → x.ledgerOf k f = (s.ledgerOf k f % 2 ^ 31 - 1) % 2 ^ 32 ∧ x.ledgerOf k g = s.ledgerOf k g) ∧
        bitAt (x.reg (bLedger k + 0x10)) 0 = true) ∧
  (
    ∀ (m : Nat) (s : State) (w : Cow), s.cows[m]? = some w →
      let k := w.stack
      let u := s.cowEntry w.ctx w.va (fun p => clearBit p 5)
      (w.stage = .keep → exec (.cowServiceDone m) s =
        .next ((if w.frame.isSome then u.count (bLedger k + 0x108) 1 else u).endCow w)) ∧
      (∀ f, w.stage = .busy → w.frame = some f →
        (ledgerBusy (s.ledgerOf k f) = true → exec (.cowServiceDone m) s = .next s) ∧
        (ledgerBusy (s.ledgerOf k f) = false → ∃ t, exec (.cowServiceDone m) s = .next t ∧
          t.cows = s.cows.eraseIdx m ∧ t.mem = s.mem ∧ (∃ x ∈ t.walks, x.ctx = w.ctx ∧ x.va = w.va))))

/-- R308, R310, R311, R314, R316: a walk that runs and finds a leaf enters it in the TLB of every core whose descriptors
wait for the page or stand parked on it; the others go on; one that finds a fault parks those that wait. A walk that is only queued does nothing yet, and one that
meets a poisoned table word faults its context with E_POISON. R312: an acknowledged invalidation leaves no TLB entry of
its address space that touches its range in any core, counts, returns its frames with count 0, and leaves the queue of
invalidations. R317: a park that outlasts the limit of its running context completes its expiry: the context faults with the code of the park;
before that, or with a limit of 0, nothing happens. -/
def Obligations.TranslationResult : Prop :=
  (
    ∀ (m : Nat) (s : State) (w : Walk), s.walks[m]? = some w →
      (w.running = false → exec (.walkComplete m) s = .next s) ∧
      (w.running = true →
        let u := State.count { s with walks := runWalks (s.walks.eraseIdx m) } (bXl + 0x808) 1
        let r := u.walk w.ctx (w.va * 65536)
        (∀ pte level base size at_, r.1 = .leaf pte level base size at_ →
          ∃ x : State, exec (.walkComplete m) s = .next (x.retryPages w.ctx).runEngines ∧
            (∀ y ∈ r.2.walkers w.ctx w.va,
              (⟨(r.2.ctx w.ctx).asid, base, size, pte, level⟩ : TlbEntry) ∈ (x.core y.1).tlb) ∧
            x.tackle = r.2.tackle ∧ x.ctxs = r.2.ctxs) ∧
        (let ws := r.2.walkers w.ctx w.va
         let ps := r.2.parks.filter (fun p => p.ctx = w.ctx ∧ p.va / 65536 = w.va)
         (∀ pte level base size at_, r.1 = .leaf pte level base size at_ →
           let ns := (ws.map (fun x => x.1) ++ ps.map (fun p => p.core)).eraseDups
           let a := ns.foldl (fun t k => t.enterLeaf w.ctx k pte level base size) r.2
           let b := ws.foldl (fun t x => t.takeLeaf x.1 x.2.1 x.2.2 pte level) a
           exec (.walkComplete m) s = .next ((ps.foldl (fun t p => t.unpark p pte level) b).retryPages w.ctx).runEngines ∧
             u.reg (bXl + 0x808) = s.reg (bXl + 0x808) + 1 ∧ u.mem = s.mem ∧ u.cores = s.cores) ∧
         (∀ kind code level, r.1 = .fault kind code level →
           exec (.walkComplete m) s =
             .next ((ws.foldl (fun t x => t.parkItem x.1 x.2.1 x.2.2 kind code level) r.2).retryPages w.ctx))) ∧
        (r.1 = .poison → (r.2.ctx w.ctx).state = 2 →
          ∃ t, exec (.walkComplete m) s = .next t ∧ (t.ctx w.ctx).state = 6 ∧ (t.ctx w.ctx).code = 0x06))) ∧
  (
    ∀ (m : Nat) (s : State) (i : Inval), s.invals[m]? = some i →
      let u := (State.invalidate { s with invals := s.invals.eraseIdx m } i.asid i.lo i.hi).returnFrames i.frees
      let v := ((List.range 16).filter (fun c => ((u.entryChanged i.asid).ctx c).asid = i.asid ∧
        ((u.entryChanged i.asid).ctx c).state = 2)).foldl (fun t c => t.retryPages c) (u.entryChanged i.asid)
      let y := match i.op with | some (k, num) => v.retirePageOp k num | none => v
      exec (.invalidationComplete m) s =
        .next (match i.reply with | some (e, code) => y.respond e code 0 [] | none => y) ∧
      u.invals = s.invals.eraseIdx m ∧
      (∀ n, ∀ e ∈ (u.core n).tlb, ¬ (e.asid = i.asid ∧ e.base < i.hi ∧ i.lo < e.base + e.size)) ∧
      (∀ n, ∀ e ∈ (s.core n).tlb, ¬ (e.asid = i.asid ∧ e.base < i.hi ∧ i.lo < e.base + e.size) →
        e ∈ (u.core n).tlb) ∧
      (∀ x ∈ i.frees, u.ledgerOf x.1 x.2 = 0) ∧
      u.reg (bXl + 0x818) = s.reg (bXl + 0x818) + 1) ∧
  (
    ∀ (m : Nat) (s : State) (p : Park), s.parks[m]? = some p →
      let limit := s.rfld (bXl + 0x300 + 8 * p.ctx) 31 0
      (limit ≠ 0 → (s.ctx p.ctx).state = 2 → p.since + 1000 * limit < s.time.now →
        ∃ t, exec (.parkLimitExpiry m) s = .next t ∧ (t.ctx p.ctx).state = 6 ∧ (t.ctx p.ctx).code = p.code ∧
          bitAt (t.reg (bXl + 0x10)) 3 = true ∧ t.mem = s.mem) ∧
      ((limit = 0 ∨ (s.ctx p.ctx).state ≠ 2 ∨ s.time.now ≤ p.since + 1000 * limit) →
        exec (.parkLimitExpiry m) s = .next s))

/-! ## Contexts and bubble windows -/

/-- R316, R328, R333: PREEMPT of a running primary or filler context makes it saving with every core of it still to
save; RESUME of a saved primary, or of a saved filler whose window is open, makes it restoring while the module runs;
END of a used context makes it ended with nothing saved; RETRY walks again for its parks. From any other state PREEMPT,
RESUME, END and RETRY change nothing. R321–R323, R334: a core of a saving context stops: it is no longer to save, holds
no pass, routine or layout operation of the context, and has its part kept; a context with nothing left to save enters
SAVED and counts it, or restores at once where its window is open; a restored one runs. -/
def Obligations.ContextResult : Prop :=
  (
    ∀ (c : Fin 16) (s : State),
      let x := s.ctx c
      (s.preemptible c = true → x.state = 2 →
        ∃ t, exec (.ctxPreempt c) s = .next t ∧ (t.ctx c).state = 3 ∧ (t.ctx c).pending = x.coreList ∧
          bitAt (t.reg (bXl + 0x280 + 8 * c)) 0 = true ∧ t.mem = s.mem ∧ t.cores = s.cores) ∧
      ((s.preemptible c = false ∨ x.state ≠ 2) → exec (.ctxPreempt c) s = .next s) ∧
      (s.preemptible c = true → x.state = 4 → s.mode = .running → (x.cls = 2 ∨ s.windowOpenFor c = true) →
        ∃ t, exec (.ctxResume c) s = .next t ∧ t.ctx c = { x with state := 5 } ∧
          (∀ d, d ≠ c.val → t.ctx d = s.ctx d) ∧ t.mem = s.mem ∧ t.cores = s.cores) ∧
      ((s.preemptible c = false ∨ x.state ≠ 4 ∨ s.mode ≠ .running) → exec (.ctxResume c) s = .next s) ∧
      (x.state ≠ 0 → ∃ t, exec (.ctxEnd c) s = .next t ∧
        t.ctx c = { x with state := 7, pending := [], saved := [] } ∧ t.mem = s.mem ∧
        ∀ n, n ∈ x.coreList → ∀ p ∈ (t.core n).passes, p.ctx ≠ c.val) ∧
      (x.state = 0 → exec (.ctxEnd c) s = .next s) ∧
      (x.state = 2 → exec (.ctxRetry c) s = .next ((s.retryParks c).retryPages c)) ∧
      (x.state ≠ 2 → exec (.ctxRetry c) s = .next s)) ∧
  (
    (∀ (core : Fin 128) (c : Fin 16) (chks : List Chk) (s : State),
      (s.ctx c).state = 3 → (s.ctx c).pending.contains core.val = true →
      ∃ t, exec (.preemptSave core ⟨c, chks⟩) s = .next t ∧
        ((t.ctx c).state ≠ 6 → (t.ctx c).state = 3 ∧
          (t.ctx c).pending = (s.ctx c).pending.filter (fun m => m ≠ core.val) ∧
          (∀ p ∈ (t.core core).passes, p.ctx ≠ c.val) ∧ (∀ r, (t.core core).routine = some r → r.ctx ≠ c.val) ∧
          (∀ l ∈ (t.core core).layouts, l.ctx ≠ c.val) ∧ (t.core core).veCtx ≠ c.val ∧
          (∀ m ∈ (t.core core).smFifo, m.ctx ≠ c.val) ∧ (∃ k, (core.val, k) ∈ (t.ctx c).saved)) ∧
        ((s.core core).passes = [] → (∀ k ∈ (s.ctx c).saved, k.1 ≠ core.val) → (t.ctx c).state = 3)) ∧
    (∀ (c : Fin 16) (s : State), (s.ctx c).state = 3 → (s.ctx c).pending = [] →
      s.cows.all (fun w => w.ctx ≠ c.val) = true →
      ∃ t, exec (.contextSaved c) s = .next t ∧
        (t.ctx c).state = (if (s.ctx c).cls = 3 ∧ s.windowOpenFor c = true then 5 else 4) ∧
        (t.reg (bXl + 0x828) = s.reg (bXl + 0x828) + 1) ∧ t.mem = s.mem ∧ t.cores = s.cores) ∧
    (∀ (c : Fin 16) (s : State), (s.ctx c).state = 5 →
      ∃ x : State, exec (.contextRestored c) s = .next (((x.retryParks c).retryPages c).runPageOps.runEngines) ∧
        (x.ctx c).state = 2 ∧ bitAt (x.reg (bXl + 0x280 + 8 * c)) 1 = false))

/-- R324, R326–R328: a window that may open is open, and its filler runs if it was ready, restores if it was saved; one
that is due closes and its running filler begins to save; a refill adds BW_CAP × 64,000 bytes to every filler's credit,
of which at most four stand. -/
def Obligations.BubbleWindows : Prop :=
  (∀ (w : Nat) (s : State), s.mayOpen w = true →
    let c := s.windowFiller w
    ∃ t, exec (.bubbleWindowOpen w) s = .next t ∧ t.windows = s.windows ++ [w] ∧
      ((s.ctx c).state = 1 → t.ctx c = { s.ctx c with state := 2 }) ∧
      ((s.ctx c).state = 4 → t.ctx c = { s.ctx c with state := 5 }) ∧
      ((s.ctx c).state ≠ 1 → (s.ctx c).state ≠ 4 → t.ctx c = s.ctx c) ∧
      (∀ d, d ≠ c → t.ctx d = s.ctx d) ∧ t.cores = s.cores ∧ t.mem = s.mem) ∧
  (∀ (w : Nat) (s : State), s.mayOpen w = false → exec (.bubbleWindowOpen w) s = .next s) ∧
  (∀ (w : Nat) (s : State), s.windows.contains w = true → s.windowDue (s.bubble w) = true →
    let c := s.windowFiller w
    ∃ t, exec (.bubbleWindowClose w) s = .next t ∧ t.windows = s.windows.filter (fun x => x ≠ w) ∧
      ((s.ctx c).state = 2 → t.ctx c = { s.ctx c with state := 3, pending := (s.ctx c).coreList }) ∧
      ((s.ctx c).state ≠ 2 → (s.ctx c).state ≠ 5 → t.ctx c = s.ctx c) ∧
      (∀ d, d ≠ c → t.ctx d = s.ctx d) ∧ t.cores = s.cores ∧ t.mem = s.mem) ∧
  (∀ (s : State), ∃ x : State, exec .fillerCreditRefill s = .next x.runEngines ∧
    (∀ c, c < 16 → (s.ctx c).cls = 3 →
      let step := s.rfld (bXl + 0x100 + 8 * c) 39 32 * 64000
      x.ctx c = { s.ctx c with credit := min ((s.ctx c).credit + step) (4 * step) }) ∧
    (∀ c, (s.ctx c).cls ≠ 3 → x.ctx c = s.ctx c) ∧ x.cores = s.cores ∧ x.mem = s.mem)

/-! ## The sequencer -/

/-- R353, R354: WAIT lets the sequencer go on, after an ACQUIRE, when its counter has reached the threshold with its
loops' strides, and else holds it, or faults with E_LINK_DOWN where it waits for pages of a direction of the track that is
down (R185); WAIT_SATISFIED frees it once the counter is there; SIGNAL joins the core's signals
with every item that has not retired, and counts once these have; NOP does nothing. R353–R355: LOOP with a planned
count, or the accumulation count, enters its body, skips it at 0 and is refused above the planned maximum with
E_SHAPE_OVER; ENDLOOP begins the next iteration or leaves the loop; PHASE_END ends the core's part of the phase. R356,
R357: a phase whose cores have ended and whose lists are done gives way to the next phase entry, or at the last to the
step boundary; a tack whose list is done gives way to its phase's plan. -/
def Obligations.SequencerResult : Prop :=
  (
    (∀ (d : Desc) (s : State), s.mayIssue d.core d.ctx = true →
      let n := d.core.val
      let c := d.ctx.val
      let cnt := wfld d.words 0 55 40
      let acq := bitAt (wd d.words 0) 39
      let thr := ((wd d.words 1).toNat + thrOffset (s.seq n c)) % 2 ^ 64
      (thr ≤ s.tackleOf cnt → exec (.wait d) s = .next (if acq then s.acquire n else s)) ∧
      (s.tackleOf cnt < thr → s.waitsDown cnt = false → ∃ t, exec (.wait d) s = .next t ∧
        t.seq n c = { s.seq n c with waitCnt := some (cnt, thr, acq) } ∧ (∀ b, b ≠ c → t.seq n b = s.seq n b) ∧
        s.coresBut t n ∧ t.mem = s.mem ∧ t.tackle = s.tackle) ∧
      (s.tackleOf cnt < thr → s.waitsDown cnt = true → (s.ctx c).state = 2 →
        ∃ t, exec (.wait d) s = .next t ∧ (t.ctx c).state = 6 ∧ (t.ctx c).code = 0x11 ∧ t.mem = s.mem) ∧
      (∃ t, exec (.signal d) s = .next t ∧
        t.seq n c = { s.seq n c with signals := (s.seq n c).signals ++
          [{ cnt := cnt, inc := (wd d.words 1).toNat, before := s.itemsOut n c }] } ∧
        s.coresBut t n ∧ t.mem = s.mem ∧ t.tackle = s.tackle)) ∧
    (∀ (core : Fin 128) (c : Fin 16) (s : State) (cnt thr : Nat) (acq : Bool),
      (s.seq core c).waitCnt = some (cnt, thr, acq) → thr ≤ s.tackleOf cnt → (s.ctx c).state = 2 →
      ∃ x : State, exec (.waitSatisfied core c) s = .next (if acq then x.acquire core else x) ∧
        x.seq core c = { s.seq core c with waitCnt := none } ∧ s.coresBut x core ∧ x.mem = s.mem) ∧
    (∀ (core : Fin 128) (c : Fin 16) (s : State) (g : Signal),
      (s.seq core c).signals.find? (fun g => g.before.all (fun i => !((s.itemsOut core c).contains i))) = some g →
      ∃ t, exec (.signalIncrement core c) s = .next t ∧
        (t.seq core c).signals.length + 1 = (s.seq core c).signals.length ∧
        (g.cnt < 4096 → t.tackleOf g.cnt = (s.tackleOf g.cnt + g.inc) % 2 ^ 64) ∧
        (∀ k, k ≠ g.cnt → t.tackleOf k = s.tackleOf k) ∧ s.coresBut t core ∧ t.mem = s.mem) ∧
    (∀ (d : Desc) (s : State), exec (.nop d) s = .next s)) ∧
  (
    ∀ (d : Desc) (s : State),
      let n := d.core.val
      let c := d.ctx.val
      let q := s.seq n c
      let planned := wfld d.words 1 63 32
      let source := wfld d.words 0 55 54
      let count := if source = 0 then planned else s.accumNow
      (s.mayLoop n c = true → q.skip = 0 → source ≤ 1 →
        (count ≠ 0 → count ≤ planned → ∃ t, exec (.loop d) s = .next t ∧
          t.seq n c = { q with loops :=
            { count := count, descStep := wfld d.words 1 31 16, thrStep := wfld d.words 1 15 0
              micro := wfld d.words 0 55 54 == 1 } :: q.loops } ∧
          s.coresBut t n ∧ t.mem = s.mem ∧ t.tackle = s.tackle) ∧
        (count = 0 → ∃ t, exec (.loop d) s = .next t ∧ t.seq n c = { q with skip := 1 } ∧ s.coresBut t n) ∧
        (planned < count → (s.ctx c).state = 2 →
          ∃ t, exec (.loop d) s = .next t ∧ (t.ctx c).state = 6 ∧ (t.ctx c).code = 0x01)) ∧
      (s.mayLoop n c = true → q.skip = 0 → ∀ f r, q.loops = f :: r →
        ∃ t, exec (.endloop d) s = .next t ∧
          t.seq n c = { q with loops := if f.iter + 1 < f.count then { f with iter := f.iter + 1 } :: r else r } ∧
          s.coresBut t n ∧ t.mem = s.mem ∧ t.tackle = s.tackle) ∧
      (s.mayLoop n c = true → q.skip ≠ 0 →
        (∃ t, exec (.loop d) s = .next t ∧ t.seq n c = { q with skip := q.skip + 1 } ∧ s.coresBut t n) ∧
        (∃ t, exec (.endloop d) s = .next t ∧ t.seq n c = { q with skip := q.skip - 1 } ∧ s.coresBut t n)) ∧
      (s.mayIssue n c = true → ∃ t, exec (.phaseEnd d) s = .next t ∧ t.seq n c = { q with ended := true } ∧
        (∀ b, b ≠ c → t.seq n b = s.seq n b) ∧ s.coresBut t n ∧ t.mem = s.mem ∧ t.tackle = s.tackle)) ∧
  (
    ∀ (s : State), s.mode = .running → s.listsDone = true →
      (s.step.tackOn = true → exec .phaseComplete s = .next (s.startPhase s.step.phase) ∧
        (s.startPhase s.step.phase).step.phaseOn = true ∧ (s.startPhase s.step.phase).step.tackOn = false) ∧
      (s.step.tackOn = false → s.step.phaseOn = true → s.coresEnded = true →
        (s.step.phase + 1 < s.phases → ∃ t, exec .phaseComplete s = .next t ∧ t.step.phase = s.step.phase + 1 ∧
          (s.phaseTack (s.step.phase + 1) = 0xFF → t.step.phaseOn = true ∧ t.step.tackOn = false) ∧
          (s.phaseTack (s.step.phase + 1) ≠ 0xFF → t.step.phaseOn = false ∧ t.step.tackOn = true) ∧ t.mem = s.mem) ∧
        (s.phases ≤ s.step.phase + 1 →
          exec .phaseComplete s = .next { s with step := { s.step with phaseOn := false, atBoundary := true } })))

/-! ## Stacks and the base die -/

/-- R216, R217: READ answers the requester with the codeword's data: as stored and clean, corrected and written back
corrected, or marked poisoned, an uncorrectable one then stored as poison. A WRITE of all 64 bytes stores them clean, or
poisoned where they are; a WRITE masked by byte keeps the bytes outside its mask and stays poisoned where the old
codeword was poisoned. No other byte of memory changes; in OFF nothing happens. R234: FILL_ZERO leaves every byte of its
range 0 and every codeword of it clean; STACK_COPY runs within one stack and, where the chip cache holds nothing, of a
clean source that its destination does not overlap, leaves the destination with the source's bytes, clean; neither
changes a byte outside its destination. -/
def Obligations.StackResult : Prop :=
  (
    ∀ (cw : Fin 8589934592) (s : State), s.mode.powered = true →
      let pa := 64 * cw.val
      let d := s.bytes pa 64
      let cmax := s.rfld (bStack (paStack pa) + 0x10) 1 0
      (∀ (source : Fin 4), ∃ t, exec (.read cw source) s = .next t ∧
        (classifyCode cmax (s.codeSynd cw) = .clean → t.mem = s.mem ∧ t.synd = s.synd ∧
          t.sent = s.sent ++ [{ kind := .stackData, dest := cw, status := 0, bytes := d }]) ∧
        (classifyCode cmax (s.codeSynd cw) = .poisoned → t.mem = s.mem ∧ t.synd = s.synd ∧
          t.sent = s.sent ++ [{ kind := .stackData, dest := cw, status := 1, bytes := d }]) ∧
        (∀ es, classifyCode cmax (s.codeSynd cw) = .corrected es →
          t.bytes pa 64 = es.foldl fixSymbol d ∧ t.codeSynd cw = 0 ∧ s.memBut t pa 64 ∧
          t.sent.getLast? = some { kind := .stackData, dest := cw, status := 0, bytes := es.foldl fixSymbol d }) ∧
        (classifyCode cmax (s.codeSynd cw) = .uncorrectable →
          t.mem = putBytes s.mem pa d ∧ t.codeSynd cw = poisonSynd ∧
          t.sent.getLast? = some { kind := .stackData, dest := cw, status := 1, bytes := d })) ∧
      (∀ (data : List Byte) (poison : Bool),
        let new := (List.range 64).map (fun i => data.getD i 0)
        ∃ t, exec (.write cw data (BitVec.allOnes 64) poison) s = .next t ∧ t.bytes pa 64 = new ∧
          t.codeSynd cw = (if poison then poisonSynd else 0) ∧ s.memBut t pa 64) ∧
      (∀ (data : List Byte) (mask : BitVec 64) (poison : Bool), mask ≠ BitVec.allOnes 64 →
        let m := (List.range 64).map (fun i => if mask.toNat.testBit i then data.getD i 0 else d.getD i 0)
        ∃ t, exec (.write cw data mask poison) s = .next t ∧ s.memBut t pa 64 ∧
          (classifyCode cmax (s.codeSynd cw) = .clean →
            t.bytes pa 64 = m ∧ t.codeSynd cw = (if poison then poisonSynd else 0)) ∧
          (classifyCode cmax (s.codeSynd cw) = .poisoned ∨ classifyCode cmax (s.codeSynd cw) = .uncorrectable →
            t.bytes pa 64 = m ∧ t.codeSynd cw = poisonSynd))) ∧
  (
    (∀ (dst : Fin 8388608) (units : Nat) (s : State), s.mode.powered = true → rangeFits dst units = true →
      ∃ t, exec (.fillZero dst units) s = .next t ∧
        (∀ i, i < units * 65536 → kget 0 t.mem (dst * 65536 + i) = 0) ∧
        (∀ i, i < units * 1024 → t.codeSynd (dst * 1024 + i) = 0) ∧
        s.memBut t (dst * 65536) (units * 65536)) ∧
    (∀ (src dst : Fin 8388608) (units : Nat) (s : State), s.mode.powered = true →
      copyFits src units = true → copyFits dst units = true → src.val / 1048576 = dst.val / 1048576 →
      exec (.stackCopy src dst units) s = .next (s.stackCopy (src * 65536) (dst * 65536) units) ∧
      (s.chipCache = [] → (src.val + units ≤ dst.val ∨ dst.val + units ≤ src.val) →
        (∀ i, i < units * 1024 → s.codeSynd (src * 1024 + i) = 0) →
        let t := s.stackCopy (src * 65536) (dst * 65536) units
        (∀ i, i < units * 65536 → kget 0 t.mem (dst * 65536 + i) = kget 0 s.mem (src * 65536 + i)) ∧
        (∀ i, i < units * 1024 → t.codeSynd (dst * 1024 + i) = 0) ∧
        s.memBut t (dst * 65536) (units * 65536))))

/-- R200, R221, R222, R233, R234: LEDGER writes or hands back an entry; REFRESH postpones a due refresh while commands wait,
never a ninth time, and else runs with all postponed; SCRUB reads one codeword and counts the pass of a whole stack, and
does nothing with patrol off; a gather window issues, empties, and counts its merged requests. -/
def Obligations.StackUpkeepResult : Prop :=
  (∀ (stack : Fin 8) (frame : Fin 65536) (v : BitVec 32) (s : State), s.mode.powered = true →
    (∃ t, exec (.ledger stack frame (some v)) s = .next t ∧ t.ledgerOf stack frame = v.toNat ∧
      (∀ k f, (k ≠ stack.val ∨ f ≠ frame.val) → t.ledgerOf k f = s.ledgerOf k f) ∧
      s.regsBut t [bLedger stack + 8] ∧ t.mem = s.mem) ∧
    exec (.ledger stack frame none) s = .next (s.send
      { kind := .stackData, dest := frame, bytes := leBytes 4 (s.ledgerOf stack frame) })) ∧
  (∀ (stack : Fin 8) (channel : Fin 32) (bank : Fin 64) (waiting : Bool) (s : State), s.mode.powered = true →
    let key := channel.val * 64 + bank.val
    let owed := kget 0 (s.stack stack).postponed key
    ∃ t, exec (.refresh stack channel bank waiting) s = .next t ∧
      kget 0 (t.stack stack).postponed key = (if waiting = true ∧ owed < 8 then owed + 1 else 0) ∧
      (∀ j, j ≠ key → kget 0 (t.stack stack).postponed j = kget 0 (s.stack stack).postponed j) ∧
      t.mem = s.mem ∧ t.regs = s.regs) ∧
  (∀ (cw : Fin 8589934592) (s : State), s.mode.powered = true →
    let k := paStack (64 * cw)
    let x := (s.readCode cw 1).2
    (s.rfld (bStack k + 0x18) 7 0 = 0 → exec (.scrub cw) s = .next s) ∧
    (s.rfld (bStack k + 0x18) 7 0 ≠ 0 → ∃ t, exec (.scrub cw) s = .next t ∧ t.mem = x.mem ∧ t.synd = x.synd ∧
      ((s.stack k).patrolled + 1 = 2 ^ 30 → (t.stack k).patrolled = 0 ∧
        t.rfld (bStack k + 0x18) 63 32 = (s.rfld (bStack k + 0x18) 63 32 + 1) % 2 ^ 32) ∧
      ((s.stack k).patrolled + 1 ≠ 2 ^ 30 → (t.stack k).patrolled = (s.stack k).patrolled + 1 ∧ t.regs = x.regs))) ∧
  (∀ (stack : Fin 8) (s : State), ∃ t, exec (.gatherWindowIssue stack) s = .next t ∧ (t.stack stack).window = [] ∧
    t.reg (bStack stack + 0x138) =
      s.reg (bStack stack + 0x138) + BitVec.ofNat 64 (mergedIn [] (s.stack stack).window).eraseDups.length ∧
    s.regsBut t [bStack stack + 0x138] ∧ t.mem = s.mem)

/-- R235, R236: unpacking a granule gives back the exact 4,096 bytes that were packed, whatever the codec chose; the raw
form read back is the raw form written; all four complete. -/
def Obligations.FurlCodecExact : Prop :=
  ∀ (g : Fin 134217728) (sizeAt : Nat) (s : State), s.mode.powered = true →
    (∀ data : List Byte,
      exec (.furlPack g sizeAt data) s = .next (s.furlPack g sizeAt (plain data)).2 ∧
      (data.length = 4096 → s.chipCache = [] → s.codeSynd (sizeAt / 64) = 0 →
        (sizeAt < 4096 * g.val ∨ 4096 * g.val + 4096 ≤ sizeAt) →
        ((s.furlPack g sizeAt (plain data)).2.furlUnpack g sizeAt).1 = plain data)) ∧
    (∃ t, exec (.furlUnpack g sizeAt) s = .next t ∧
      t.sent.getLast? = some { kind := .stackData, dest := g
                               status := if (s.furlUnpack g sizeAt).1.any (fun b => b.2) then 1 else 0
                               bytes := (s.furlUnpack g sizeAt).1.map (fun b => b.1) }) ∧
    (∀ (size : Fin 16) (units : List Byte),
      exec (.rawWrite g sizeAt size units) s = .next (s.rawWrite g sizeAt size (plain units)) ∧
      (units.length = (if size.val = 0 then 4096 else 256 * size.val) → s.chipCache = [] →
        s.codeSynd (sizeAt / 64) = 0 → (sizeAt < 4096 * g.val ∨ 4096 * g.val + 4096 ≤ sizeAt) →
        ((s.rawWrite g sizeAt size (plain units)).rawRead g sizeAt).1 = (size.val, false, plain units))) ∧
    (∃ t, exec (.rawRead g sizeAt) s = .next t ∧
      t.sent.getLast? = some { kind := .stackData, dest := g
                               status := if (s.rawRead g sizeAt).1.2.1 || (s.rawRead g sizeAt).1.2.2.any (fun b => b.2) then 1 else 0
                               bytes := BitVec.ofNat 8 (s.rawRead g sizeAt).1.1 :: (s.rawRead g sizeAt).1.2.2.map (fun b => b.1) })

/-! ## Stay links -/

/-- R379–R381: a lane that drops leaves the active set and is counted while at least four lanes stay; with fewer, on
STAY_DOWN and when the peer falls silent, the stay is down with no active lane and its DOWN flag set; a stay that is
down or a lane not in the set changes nothing. A stay in training comes up with the lanes that locked, four at least.
R376, R377: a flit in sequence with a good CRC is taken: the next SEQ is expected, a pending NAK is answered, the flit
counts, and one for this module frees its buffer; one with a bad CRC or out of sequence is discarded and asks for a
replay from the SEQ expected. A control slot frees acknowledged flits and adds its credits; it is answered in turn. -/
def Obligations.StayResult : Prop :=
  (
    (∀ (stay : Fin 12) (lane : Fin 8) (s : State),
      let st := s.stay stay
      (st.up = true → st.lanes.testBit lane = true → 4 ≤ popcount 8 (st.lanes - 2 ^ lane.val) →
        ∃ t, exec (.laneDrop stay lane) s = .next t ∧ t.stay stay = { st with lanes := st.lanes - 2 ^ lane.val, change := true } ∧
          (∀ u, u ≠ stay.val → t.stay u = s.stay u) ∧ t.reg (bStay stay + 0x130) = s.reg (bStay stay + 0x130) + 1 ∧
          bitAt (t.reg (bStay stay + 0x18)) 1 = true ∧ t.mem = s.mem ∧ t.cores = s.cores) ∧
      (st.up = true → st.lanes.testBit lane = true → popcount 8 (st.lanes - 2 ^ lane.val) < 4 →
        ∃ t, exec (.laneDrop stay lane) s = .next t ∧ (t.stay stay).up = false ∧ (t.stay stay).lanes = 0 ∧ t.mem = s.mem) ∧
      ((st.up = false ∨ st.lanes.testBit lane = false) → exec (.laneDrop stay lane) s = .next s)) ∧
    (∀ (stay : Fin 12) (s : State), ∀ c ∈ [Instr.stayDown, Instr.peerSilenceTimeout],
      ((s.stay stay).up = true → ∃ t, exec (c stay) s = .next t ∧ (t.stay stay).up = false ∧ (t.stay stay).lanes = 0 ∧
        bitAt (t.reg (bStay stay + 0x18)) 2 = true ∧ t.mem = s.mem) ∧
      ((s.stay stay).up = false → exec (c stay) s = .next s)) ∧
    (∀ (stay : Fin 12) (lanes : BitVec 8) (s : State),
      let st := s.stay stay
      let l := lanes.toNat ^^^ (lanes.toNat &&& st.excluded)
      (s.mode.powered = true → st.training = true → 4 ≤ popcount 8 l →
        ∃ t, exec (.stayTrained stay lanes) s = .next t ∧ (t.stay stay).up = true ∧ (t.stay stay).lanes = l ∧
          (t.stay stay).training = false ∧ (∀ u, u ≠ stay.val → t.stay u = s.stay u) ∧ t.regs = s.regs ∧ t.mem = s.mem) ∧
      ((st.training = false ∨ popcount 8 l < 4) → exec (.stayTrained stay lanes) s = .next s))) ∧
  (
    (∀ (stay : Fin 12) (f : Flit) (s : State),
      let n := stay.val
      let st := s.stay n
      (st.up = true → s.armed = false → f.crcOk = true → flitType f ≠ 0 → flitSeq f = st.rxSeq →
        flitDest f = s.moduleNo →
        ∃ t, exec (.flitReceived stay f) s = .next t ∧
          t.stay n = { st with rxSeq := (st.rxSeq + 1) % 4096, nak := none, freed := addAt st.freed (bufferOf f) 1 } ∧
          t.reg (bStay n + 0x108) = s.reg (bStay n + 0x108) + 1 ∧
          (∀ u, u ≠ n → t.stay u = s.stay u) ∧ t.mem = s.mem ∧ t.sent = s.sent) ∧
      (st.up = true → s.armed = false → f.crcOk = true → flitType f ≠ 0 → flitSeq f = st.rxSeq →
        flitDest f ≠ s.moduleNo →
        ∃ x, exec (.flitReceived stay f) s = .next (State.forward x n f) ∧
          x.stay n = { st with rxSeq := (st.rxSeq + 1) % 4096, nak := none }) ∧
      (st.up = true → s.armed = false → (f.crcOk = false ∨ flitType f ≠ 0 ∧ flitSeq f ≠ st.rxSeq) →
        ∃ t, exec (.flitReceived stay f) s = .next t ∧ t.stay n = { st with nak := some (st.nak.getD st.rxSeq) } ∧
          (∀ u, u ≠ n → t.stay u = s.stay u) ∧ t.mem = s.mem ∧ t.sent = s.sent) ∧
      (st.up = false → exec (.flitReceived stay f) s = .next s)) ∧
    (∀ (stay : Fin 12) (c : ControlSlot) (s : State),
      let n := stay.val
      let st := s.stay n
      (st.up = true → c.crcOk = true → c.laneChange = false → c.nak = none →
        let r := acked st.replay c.ack
        exec (.controlSlotReceived stay c) s = .next (((s.setStay n { st with
          replay := r
          tries := if r.length < st.replay.length then 0 else st.tries
          credits := st.credits.zipIdx.map (fun k => k.1 + c.credits.getD k.2 0) }).pump n).sendControl n)) ∧
      ((st.up = false ∨ c.crcOk = false) → exec (.controlSlotReceived stay c) s = .next s)))

/-! ## Collectives -/

namespace Sys2Proof.Machine.Rows

/-- R395: the operation codes of the tackle operations. -/
def tackleOps : List ((Nat → Instr) × Nat) :=
  [(.barrier, 0x01), (.scalarAllreduce, 0x02), (.allReduce, 0x10), (.reduceScatter, 0x11), (.allGather, 0x12),
   (.broadcast, 0x13), (.reduce, 0x14), (.allToAll, 0x15), (.moeDispatch, 0x16), (.moeCombine, 0x17), (.send, 0x20),
   (.recv, 0x21)]

end Sys2Proof.Machine.Rows

/-- R388, R254, R402: an armed operation of its code whose counter has reached its threshold, whose context is not over
and whose ranges find fence entries starts in RUNNING and HALTED: its source is fenced, it reads, and goes on as far as
its transfers let it; below its threshold nothing happens. R390, R391: phase 0 that agrees lets the operation move its
data; a signature that differs faults its context with E_COLL_MISMATCH (5) and logs the difference; a member over its
plan faults it with E_SHAPE_OVER (1). -/
def Obligations.CollectiveStartResult : Prop :=
  (
    ∀ p ∈ tackleOps, ∀ (op : Nat) (s : State) (o : CollOp),
      s.ops.find? (fun o => o.op = op ∧ o.phase = .armed) = some o →
      let w := s.opWords o
      let n := s.collCore o.ctx
      let y : CollOp := { o with
        phase := .reading
        counts := match s.dispatchOf w with
          | some d => if p.2 = 0x17 then d.counts else []
          | none => [] }
      oOpc w = p.2 →
      (oThreshold w ≤ s.tackleOf (oTrig w) → s.ctxOver o.ctx = false → (s.mode = .running ∨ s.mode = .halted) →
        s.fenceRoom n (s.opRanges y).length = true →
        ∃ x : State, exec (p.1 op) s = .next (x.runOp y) ∧
          x.ops = s.ops.map (fun z => if z.op = o.op ∧ z.pidx = o.pidx then y else z) ∧
          (x.core n).fence = (s.core n).fence ++ (s.opRanges y).map (fun r => ⟨r.1, r.2, o.ctx, ownTackle, op⟩) ∧
          x.tackle = s.tackle ∧ x.mem = s.mem ∧ x.regs = s.regs) ∧
      (s.tackleOf (oTrig w) < oThreshold w → exec (p.1 op) s = .next s)) ∧
  (
    ∀ (op : Nat) (p : Phase0) (s : State) (o : CollOp),
      s.ops.find? (fun o => o.op = op ∧ o.phase = .phase0) = some o →
      let sig := s.signature o
      let diff := (p.sigAnd &&& sig) ^^^ (p.sigOr ||| sig)
      let u := s.count (bColl + 0x138) 1
      (diff = 0 → p.status % 4 = 0 → s.overPlanned o = false → s.ctxOver o.ctx = false →
        ∃ y : CollOp, exec (.phase0Complete op p) s = .next (u.proceed y p) ∧ y.phase = .moving ∧ y.op = o.op ∧
          y.counts = u.allCounts o p.counts) ∧
      (diff ≠ 0 → (s.ctx o.ctx).state = 2 →
        ∃ t, exec (.phase0Complete op p) s = .next t ∧ (t.ctx o.ctx).state = 6 ∧ (t.ctx o.ctx).code = 0x05 ∧
          t.reg (bColl + 0x30) = BitVec.ofNat 64 (diff % 2 ^ 64) ∧
          t.reg (bColl + 0x38) = BitVec.ofNat 64 (diff >>> 64) ∧ t.mem = s.mem) ∧
      (diff = 0 → p.status.testBit 1 = false → (p.status.testBit 0 = true ∨ s.overPlanned o = true) →
        (s.ctx o.ctx).state = 2 →
        ∃ t, exec (.phase0Complete op p) s = .next t ∧ (t.ctx o.ctx).state = 6 ∧ (t.ctx o.ctx).code = 0x01 ∧
          t.mem = s.mem))

/-- R401–R404: a chunk whose CRC and header are good and that is new joins its operation; one seen before changes nothing;
one with a bad CRC that is expected is asked for again and joins nothing. A re-send request is met from the copy retained,
or by a poisoned chunk where none is, where its context has faulted, and where it reads uncorrectable. An operation with every chunk in and written completes: its done counter counts one
and its source is released. -/
def Obligations.CollectiveChunks : Prop :=
  (∀ (m : ChunkMsg) (s : State) (o : CollOp),
    s.ops.find? (fun o => o.op = m.op ∧ (o.phase = .moving ∨ o.phase = .phase0)) = some o → o.phase = .moving →
    s.armed = false →
    let key := (wfld m.header 1 31 16, wfld m.header 1 63 32)
    (m.crcOk = true → s.headerFits o m.header = true → o.got.contains key = false →
      ∃ (x : State) (y : CollOp), exec (.chunkReceived m) s = .next (x.runOp y) ∧ key ∈ y.got ∧
        (∀ k ∈ o.got, k ∈ y.got) ∧ x.reg (bColl + 0x110) = s.reg (bColl + 0x110) + 1 ∧ x.mem = s.mem) ∧
    (m.crcOk = true → s.headerFits o m.header = true → o.got.contains key = true →
      exec (.chunkReceived m) s = .next s) ∧
    (m.crcOk = false → (s.expected_ o).contains key = true → o.got.contains key = false →
      ∃ t, exec (.chunkReceived m) s = .next t ∧ t.mem = s.mem ∧ bitAt (t.reg (bColl + 0x10)) 0 = true ∧
        ∃ y ∈ t.sent, y.kind = .resendRequest ∧ y.dest = s.moduleOf (oSet (s.opWords o)) key.1)) ∧
  (∀ (op chunk dest : Nat) (s : State) (o : CollOp),
    s.resendOp op = some o →
    let c := s.copyOk o dest chunk
    (s.keepsCopy o dest chunk = true → c.1 = true →
      exec (.resendRequest op chunk dest) s = .next ((c.2.count (bColl + 0x118) 1).sendChunk o dest chunk true false)) ∧
    (s.keepsCopy o dest chunk = true → c.1 = false →
      exec (.resendRequest op chunk dest) s = .next (c.2.sendChunk o dest chunk true true)) ∧
    ((o.retained.contains (dest, chunk) = false ∨ o.phase = .failed ∨ (s.ctx o.ctx).state = 6) →
      exec (.resendRequest op chunk dest) s = .next (s.sendChunk o dest chunk true true))) ∧
  (∀ (op : Nat) (s : State) (o : CollOp), s.ops.find? (fun o => o.op = op ∧ o.phase = .moving) = some o →
    let w := s.opWords o
    let n := s.collCore o.ctx
    (o.writes = [] → (s.expected_ o).all (fun x => o.got.contains x) = true →
      ∃ t, exec (.collectiveOpComplete op) s = .next t ∧
        (oDone w < 4096 → t.tackleOf (oDone w) = (s.tackleOf (oDone w) + 1) % 2 ^ 64) ∧
        (∀ k, k ≠ oDone w → t.tackleOf k = s.tackleOf k) ∧
        t.reg (bColl + 0x100) = s.reg (bColl + 0x100) + 1 ∧ s.regsBut t [bColl + 0x100] ∧
        (t.core n).fence = (s.core n).fence.filter (fun f => !(f.kind == ownTackle && f.owner == op)) ∧
        s.coresBut t n ∧ t.mem = s.mem) ∧
    ((o.writes ≠ [] ∨ (s.expected_ o).all (fun x => o.got.contains x) = false) →
      exec (.collectiveOpComplete op) s = .next s))

/-! ## The track -/

/-- R177, R179, R182, R184, R193, R194: in RUNNING, while its context runs and a stay of the direction is up, the next page
that is ready goes on against its credits and is kept until acknowledged; without them the wait counts; a return page is never
the next one before the module's part stands in it; with both stays down a context whose page has to go on faults with
E_LINK_DOWN (R185). Its acknowledgement frees the copy; a request for it sends the copy again,
or tells that no copy is left. R182–R184: a page whose CRC is good, that fits what is expected and that finds a free place is
held, counted, and acknowledged, its place clear of every page held; one with a bad CRC whose sender holds a copy is counted and
asked for again; one that does not fit faults the context with E_COLL_MISMATCH (5). -/
def Obligations.TravellerResult : Prop :=
  (
    ∀ (down : Bool) (s : State),
      let d := s.dir down
      (s.mode = .running → s.dirUsed down = true → 2 ≤ s.seqSize → (s.ctx s.trackCtx).state = 2 →
        (s.trackStay down).isSome = true →
        let u := s.trackReady down
        (u.nextHeld down = none → exec (.travellerPageSend down) s = .next u) ∧
        (∀ x, u.nextHeld down = some x → s.goesOn x.page = true ∧ (isReturn x.page = true → x.due = []) ∧ x.acked = false ∧
          ((u.dir down).credits < u.sendCost down x.page → ∃ t, exec (.travellerPageSend down) s = .next t ∧
            t.reg (bTrack + 0x120) = u.reg (bTrack + 0x120) + 1 ∧ u.regsBut t [bTrack + 0x120] ∧ { t with regs := u.regs } = u) ∧
          (u.sendCost down x.page ≤ (u.dir down).credits → ∃ t, exec (.travellerPageSend down) s = .next t ∧
            (t.dir down).credits = (u.dir down).credits - u.sendCost down x.page ∧
            (t.dir down).pagesOut = (u.dir down).pagesOut + 1 ∧
            (∃ k, (t.dir down).kept = (u.dir down).kept ++ [k]) ∧ (t.dir down).held = (u.dir down).held ∧
            t.dir (!down) = u.dir (!down)))) ∧
      (s.mode = .running → s.dirUsed down = true → 2 ≤ s.seqSize → (s.ctx s.trackCtx).state = 2 →
        s.trackStay down = none → (s.nextHeld down).isSome = true →
        ∃ t, exec (.travellerPageSend down) s = .next t ∧ (t.ctx s.trackCtx).state = 6 ∧ (t.ctx s.trackCtx).code = 0x11 ∧
          t.mem = s.mem) ∧
      (∀ (page : PageId) (k : Page), d.kept.find? (fun k => pageId k = page) = some k →
        ∃ t, exec (.travellerPageAck down page) s = .next t ∧
          (t.dir down).kept = d.kept.filter (fun k => pageId k ≠ page) ∧
          (t.dir down).credits + (t.dir down).owed = d.credits + d.owed + s.ackCredit down k ∧
          d.credits ≤ (t.dir down).credits ∧ (t.dir down).seen = d.seen ∧ t.mem = s.mem ∧ t.regs = s.regs ∧
          t.dir (!down) = s.dir (!down)) ∧
      (∀ (page : PageId) (k : Page), d.kept.find? (fun k => pageId k = page) = some k →
        (s.ctxOver s.trackCtx = false → exec (.pageResendRequest down page) s =
          .next (s.emitPage down k.header (k.payload.zipIdx.map (fun b => (b.1, k.poison.getD b.2 false))))) ∧
        (s.ctxOver s.trackCtx = true → exec (.pageResendRequest down page) s =
          .next (s.send { kind := .pageResend, dest := (s.trackStays down).headD 0, code := 2, words := k.header })))) ∧
  (
    ∀ (down : Bool) (p : Page) (s : State),
      let d := s.dir down
      let c := s.trackCtx
      s.dirUsed down = true → 2 ≤ s.seqSize → (s.ctx c).cls = 2 → (s.ctx c).state = 2 → s.armed = false →
      (p.crcOk = true → s.pageFits down p = true →
        let u := if s.isNext down p then s.beginTravel down else s
        ∀ place v, u.holdPage down p = some (place, v) →
          u.placeFree down (place / 65536) (pageBytes p / 65536) = true ∧
          ∃ t, exec (.travellerPageReceived down p) s = .next t ∧ (t.dir down).verified = (u.dir down).verified + 1 ∧
            (t.dir down).travel = (u.dir down).travel ∧ (t.dir down).kept = d.kept ∧ pageId p ∈ (t.dir down).seen ∧
            (t.dir down).step = (if gHop p < s.seqSize ∧ (u.dir down).step < gHop p then gHop p else (u.dir down).step) ∧
            t.dir (!down) = u.dir (!down) ∧
            ∃ y ∈ t.sent, y = { kind := .pageAck, dest := (s.trackStays (!down)).headD 0
                                code := if down then 1 else 0, words := p.header }) ∧
      (p.crcOk = false → p.senderHolds = true →
        ∃ t, exec (.travellerPageReceived down p) s = .next t ∧ t.up = s.up ∧ t.down = s.down ∧ t.mem = s.mem ∧
          t.reg (bTrack + 0x118) = s.reg (bTrack + 0x118) + 1 ∧ bitAt (t.reg (bTrack + 0x10)) 0 = true ∧
          t.sent.getLast? = some { kind := .pageResend, dest := (s.trackStays (!down)).headD 0
                                   code := if down then 1 else 0, words := p.header }) ∧
      (p.crcOk = true → s.pageFits down p = false →
        ∃ t, exec (.travellerPageReceived down p) s = .next t ∧ (t.ctx c).state = 6 ∧ (t.ctx c).code = 0x05 ∧
          bitAt (t.reg (bTrack + 0x10)) 2 = true ∧ t.mem = s.mem))

/-! ## Host ports -/

/-- R448, R457, R458, R460, R495: a port whose link is lost reads down with no speed; an enabled port that is down
negotiates every 1 s, and comes up at the speed both ends support, not above MAX_SPEED, or at 200 Gb/s when its self-test took lane
L2 or L3 out; with MACsec and a CAK a SAK is installed. A pause frame
pauses RoCEv2 for its quanta with PFC_EN, and else is only received. What waits for the port then goes on. -/
def Obligations.PortResult : Prop :=
  ∀ (port : Fin 8) (s : State),
    let h := port.val
    let link := s.rfld (bPort h + 0x08) 1 0
    (s.mode.powered = true → link ≠ 0 → ∃ x : State, exec (.portDown port) s = .next x.runEngines ∧
      x.rfld (bPort h + 0x08) 1 0 = 0 ∧ x.rfld (bPort h + 0x08) 4 3 = 3 ∧ x.mem = s.mem) ∧
    ((s.mode.powered = false ∨ link = 0) → exec (.portDown port) s = .next s.runEngines) ∧
    (s.portEnabled h = true → s.mode ≠ .faulted →
      (link ≠ 2 → s.retryDue h = true → ∃ t, exec (.autonegRetry port) s = .next t ∧ t.rfld (bPort h + 0x08) 1 0 = 1 ∧
        (t.port h).triedAt = some s.time.now ∧ s.regsBut t [bPort h + 0x08] ∧
        { t with regs := s.regs, ports := s.ports } = s) ∧
      ((link = 2 ∨ s.retryDue h = false) → exec (.autonegRetry port) s = .next s) ∧
      (∀ speed : Fin 3, link ≠ 2 → ∃ x : State, exec (.portLinkUp port speed) s = .next x.runEngines ∧
        x.rfld (bPort h + 0x08) 1 0 = 2 ∧ x.rfld (bPort h + 0x08) 4 3 = s.linkSpeed h speed ∧
        s.linkSpeed h speed = (if (s.port h).badLanes = 0 then max speed.val (s.rfld (bPort h) 2 1) else 2) ∧
        s.regsBut x [bPort h + 0x08, bPort h + 0x18] ∧ { x with regs := s.regs } = s) ∧
      (∀ speed : Fin 3, link = 2 → exec (.portLinkUp port speed) s = .next s)) ∧
    (bitAt (s.reg (bPort h)) 3 = true → (s.port h).cak.isSome = true → link = 2 →
      ∃ x : State, exec (.mkaSakInstall port) s = .next x.runEngines ∧ bitAt (x.reg (bPort h + 0x08)) 5 = true ∧
        s.regsBut x [bPort h + 0x08, bPort h + 0x18] ∧ { x with regs := s.regs } = s) ∧
    (∀ quanta : Nat, link = 2 → ∃ t, exec (.pfcPauseFrame port quanta) s = .next t ∧
      (bitAt (s.reg (bPort h)) 39 = true → (t.port h).paused = quanta % 65536 ∧
        t.reg (bPort h + 0x140) = s.reg (bPort h + 0x140) + BitVec.ofNat 64 (quanta % 65536)) ∧
      (bitAt (s.reg (bPort h)) 39 = false → t.ports = s.ports ∧ t.reg (bPort h + 0x140) = s.reg (bPort h + 0x140)) ∧
      (∀ k, k ≠ h → t.port k = s.port k) ∧ t.mem = s.mem)

/-- R451, R453, R469: on a queue pair that carries data a NAK acknowledges the writes before its PSN and sends everything else again, a timeout everything
unacknowledged, with the same bytes; an acknowledgement frees the messages up to its PSN, no read before its response,
and what waited for them goes on. A notification of congestion lowers the rate, which comes back 50 µs after the last
one. A remote NAK parks the descriptor whose access the host refused. R452, R482: an access of the host on a queue pair
that carries data reads or writes the bytes of an opened region, and is answered; one outside the region, or a read that
meets poison, is answered with a remote-access NAK and no data. -/
def Obligations.HostTrafficResult : Prop :=
  (
    ∀ (qp : Fin 4096) (s : State),
      let q := qp.val
      let us := (s.qp q).unacked
      (s.qpUp q = true →
        (∀ psn : Nat, let k := nakFreed psn us
          (us.any (fun u => u.psn = psn) = true → (∀ u ∈ us.take k, u.psn ≠ psn ∧ u.read = false) ∧
            ∃ x : State, x.sent = s.sent ++ (us.drop k).map (fun u => u.msg) ∧ x.qps = s.qps ∧ x.mem = s.mem ∧
              exec (.roceNak qp psn) s = .next ((x.freeFirst q k []).runEngines.tryNotice)) ∧
          (us.any (fun u => u.psn = psn) = false → exec (.roceNak qp psn) s = .next (s.frameIn (s.qp q).port 0))) ∧
        (us ≠ [] → ∃ t, exec (.roceTimeout qp) s = .next t ∧ t.sent = s.sent ++ us.map (fun u => u.msg) ∧
          t.qps = s.qps ∧ t.mem = s.mem) ∧
        (us = [] → exec (.roceTimeout qp) s = .next s) ∧
        (∀ (psn : Nat) (data : List Byte), let k := freed psn us
          (∀ u ∈ us.take k, psnLe u.psn psn = true ∧ (u.read = true → u.psn = psn)) ∧
          ∃ x : State, (x.qp q).unacked = us.drop k ∧ (∀ p, p ≠ q → x.qp p = s.qp p) ∧ x.mem = s.mem ∧
            let y := ((us.take k).foldl (fun t u => t.acked u data) x).pumpPort (s.qp q).port
            exec (.roceAckReceived qp psn data) s =
              .next ((y.hoists.foldl (fun t h => t.pumpHoist h) y).runEngines.tryNotice)) ∧
        (∃ t, exec (.cnpReceived qp) s = .next t ∧
          t.qp q = { s.qp q with rateLow := true, lastCnp := s.time.now } ∧ (∀ p, p ≠ q → t.qp p = s.qp p) ∧
          t.reg (bPort (s.qp q).port + 0x138) = s.reg (bPort (s.qp q).port + 0x138) + 1 ∧ t.mem = s.mem)) ∧
      ((s.qp q).rateLow = true → (s.qp q).lastCnp + 50000 ≤ s.time.now →
        exec (.cnpRateRestore qp) s = .next (s.setQp q { s.qp q with rateLow := false })) ∧
      (s.time.now < (s.qp q).lastCnp + 50000 → exec (.cnpRateRestore qp) s = .next s) ∧
      (∀ (core : Fin 128) (queue : Fin 17) (u : Unacked) (i : AeItem),
        us.find? (fun u => u.core = core.val ∧ u.queue = queue.val) = some u →
        (s.queue core queue).find? (fun i => i.num = u.num) = some i →
        ∃ (x : State) (p : Park), exec (.roceRemoteNak qp core queue) s = .next (x.park p 5 3 true) ∧
          p.core = core.val ∧ p.ctx = i.ctx ∧ p.engine = (if queue.val = collQueue then 2 else 0) ∧ p.item = i.num ∧ p.va = u.va ∧ p.code = 9 ∧ p.write = !u.read ∧
          (∃ y ∈ x.queue core queue, y.num = i.num ∧ y.phase = .parked) ∧ x.mem = s.mem)) ∧
  (
    ∀ (qp : Fin 4096) (rkey off : Nat) (s : State), s.qpUp qp = true →
      let q := qp.val
      (∀ data : List Byte,
        let x := s.hostRequest q data.length
        (s.hostRange rkey off data.length = none → ∃ t, exec (.hostRdmaWrite qp rkey off data) s = .next t ∧
          t.sent = s.sent ++ [{ kind := .rdmaNak, dest := q, bytes := [] }] ∧ t.mem = s.mem) ∧
        (∀ b o, s.hostRange rkey off data.length = some (b, o) →
          exec (.hostRdmaWrite qp rkey off data) s = .next
            ((x.savePut b (data.length / 4096 + 2) (s.flatOff b o) (plain data)).hostAnswer q .rdmaAck []))) ∧
      (∀ length : Nat,
        let x := s.hostRequest q 0
        (s.hostRange rkey off length = none → ∃ t, exec (.hostRdmaRead qp rkey off length) s = .next t ∧
          t.sent = s.sent ++ [{ kind := .rdmaNak, dest := q, bytes := [] }] ∧ t.mem = s.mem) ∧
        (∀ b o, s.hostRange rkey off length = some (b, o) →
          let r := x.saveGet b (length / 4096 + 2) (s.flatOff b o) length
          ∃ t, exec (.hostRdmaRead qp rkey off length) s = .next t ∧ t.mem = r.2.mem ∧
            t.sent = r.2.sent ++ [if r.1.any (fun y => y.2) then { kind := .rdmaNak, dest := q, bytes := [] }
              else { kind := .rdmaAck, dest := q, bytes := r.1.map (fun y => y.1) }])))

/-! ## Module time -/

/-- R519–R522, R537: a client that uses a Sync of its port locks: it slews its rate, within 200 ppm, when it was locked
and the offset is below 1 µs, and else steps TIME_OFFSET by it; a second without one puts it in holdover. A time source
steers its second boundary to the PPS edge in the same way, and goes to holdover after two seconds without one. PPS_OUT
goes high at a second boundary. The oscillator locks to its reference when enabled, and loses it. R459, R520: a
grandmaster sends Sync or Announce in each of its domains on every enabled port that is up, others send none; a peer
delay request is answered by any port, a delay request by a grandmaster only. -/
def Obligations.ClockResult : Prop :=
  (
    ∀ s : State, s.mode.powered = true →
      let st := bTime + 0x18
      let locked := (s.ptpState = 2 ∨ s.ptpState = 3)
      (∀ (port : Fin 8) (offset rate : Int), s.portUp port = true →
        (s.timeSource = false → s.syncPort = some port.val →
          ∃ t, exec (.ptpSync port offset rate) s = .next t ∧ t.ptpState = 2 ∧ t.rfld st 11 8 = port ∧
            t.rfld st 63 32 = int32 offset ∧ t.time.lastSync = s.time.now ∧ t.time.now = s.time.now ∧
            (locked ∧ offset.natAbs < 1000 → t.time.rate = clampRate rate ∧ t.reg (bTime + 0x08) = s.reg (bTime + 0x08)) ∧
            (¬ (locked ∧ offset.natAbs < 1000) → t.time.rate = s.time.rate ∧
              t.reg (bTime + 0x08) = s.reg (bTime + 0x08) + BitVec.ofInt 64 offset) ∧ t.mem = s.mem) ∧
        ((s.timeSource = true ∨ s.syncPort ≠ some port.val) →
          ∃ t, exec (.ptpSync port offset rate) s = .next t ∧ t.time = s.time ∧
            t.reg (bTime + 0x08) = s.reg (bTime + 0x08) ∧ t.ptpState = s.ptpState)) ∧
      (s.timeSource = false → (s.ptpState = 1 ∨ s.ptpState = 2) → s.time.lastSync + 10 ^ 9 ≤ s.time.now →
        ∃ t, exec .syncLossTimeout s = .next t ∧ t.ptpState = 3 ∧ bitAt (t.reg (bTime + 0x38)) 2 = true ∧
          t.time = s.time ∧ s.regsBut t [st, bTime + 0x38]) ∧
      (s.time.now < s.time.lastSync + 10 ^ 9 → exec .syncLossTimeout s = .next s) ∧
      (∀ w : Word, s.ppsEnabled = true → s.timeSource = true →
        let d := pastSecond ((w.toNat : Int) + signed64 (s.reg (bTime + 0x08)))
        ∃ t, exec (.ppsInEdge w) s = .next t ∧ t.ptpState = 2 ∧ t.time.lastPps = s.time.now ∧
          (locked ∧ d.natAbs < 1000 → -858993 ≤ t.time.rate ∧ t.time.rate ≤ 858993 ∧
            t.reg (bTime + 0x08) = s.reg (bTime + 0x08)) ∧
          (¬ (locked ∧ d.natAbs < 1000) → t.reg (bTime + 0x08) = s.reg (bTime + 0x08) + BitVec.ofInt 64 (-d))) ∧
      (s.ppsEnabled = true → s.timeSource = true → s.ptpState ≠ 3 → s.time.lastPps + 2 * 10 ^ 9 ≤ s.time.now →
        ∃ t, exec .ppsLostTimeout s = .next t ∧ t.ptpState = 3 ∧ bitAt (t.reg (bTime + 0x38)) 3 = true ∧
          t.time = s.time) ∧
      (s.ppsEnabled = false ∨ s.timeSource = false →
        exec .ppsLostTimeout s = .next s ∧ ∀ w, exec (.ppsInEdge w) s = .next s) ∧
      (s.ptpTime % 10 ^ 9 ≤ 2 → exec .ppsOutEdge s = .next { s with pins := { s.pins with ppsOut := true } }) ∧
      (2 < s.ptpTime % 10 ^ 9 → exec .ppsOutEdge s = .next s) ∧
      (bitAt (s.reg (bMod + 0x08)) 0 = true →
        exec .ref10mLock s = .next { s with pins := { s.pins with ref10m := true } }) ∧
      (s.pins.ref10m = true → ∃ t, exec .ref10mLost s = .next t ∧ t.pins = { s.pins with ref10m := false } ∧
        bitAt (t.reg (bMod + 0x28)) 1 = true ∧ t.time = s.time) ∧
      (s.pins.ref10m = false → exec .ref10mLost s = .next s)) ∧
  (
    ∀ s : State, s.mode.powered = true →
      (∀ announce : Bool, ∃ t, exec (.ptpSyncTransmit announce) s = .next t ∧
        t.sent = s.sent ++ s.ptpDomains.flatMap (fun d => s.upPorts.map (fun h =>
          { kind := .ptp, dest := h, code := if announce then 0xB else 0, words := BitVec.ofNat 64 d :: s.timestamp })) ∧
        t.time = s.time ∧ t.mem = s.mem) ∧
      (∀ port : Fin 8, s.portUp port = true →
        (∃ t, exec (.ptpDelayRequest port true) s = .next t ∧ t.sent = s.sent ++
          [{ kind := .ptp, dest := port, code := 3
             words := BitVec.ofNat 64 (fld (s.reg (bTime + 0x10)) 7 0) :: s.timestamp }] ∧ t.time = s.time) ∧
        (∀ d r, s.ptpDomains = d :: r → ∃ t, exec (.ptpDelayRequest port false) s = .next t ∧ t.sent = s.sent ++
          [{ kind := .ptp, dest := port, code := 9, words := BitVec.ofNat 64 d :: s.timestamp }] ∧ t.time = s.time) ∧
        (s.ptpDomains = [] → ∃ t, exec (.ptpDelayRequest port false) s = .next t ∧ t.sent = s.sent ∧ t.time = s.time)))

/-- R524, R530: a batten whose time has come takes the value of every counter, and of module time, into its shadows,
stands as the last captured, counts, and is no longer pending; before its time nothing happens. -/
def Obligations.BattenFires : Prop :=
  ∀ (s : State) (b : Batten), s.time.batten = some b → s.mode.powered = true →
    (b.at_ ≤ s.time.now → ∃ t, exec .battenFire s = .next t ∧ t.time.batten = none ∧ t.time.now = s.time.now ∧
      (∀ a, isCounter a = true → a ≠ bTime → kget 0 t.time.shadows a = s.reg a) ∧
      kget 0 t.time.shadows bTime = BitVec.ofNat 64 s.time.now ∧
      t.rfld (bTime + 0x20) 47 32 = b.id % 65536 ∧ t.reg (bTime + 0x30) = BitVec.ofNat 64 s.time.now ∧
      t.reg (bTime + 0x100) = s.reg (bTime + 0x100) + 1 ∧ bitAt (t.reg (bTime + 0x38)) 0 = true ∧
      s.regsBut t [bTime + 0x20, bTime + 0x30, bTime + 0x38, bTime + 0x100] ∧ t.mem = s.mem) ∧
    (s.time.now < b.at_ → exec .battenFire s = .next s)

/-! ## Power, boot and module-class events -/

/-- R12, R37, R543, R544: from OFF, POWER_ON with the input in range, and INPUT_IN_RANGE with PWR_EN asserted, make a dry
module POWERING with every register at its reset value, nothing in memory, no core or context state and one more power-on
counted; a wet one ends FAULTED with cause 5. POWER_OFF and a lost input make a powered module OFF: its buffered ledger
entries reach flash when the input holds, and are lost otherwise. -/
def Obligations.PowerUpAndDown : Prop :=
  (∀ s : State, s.mode = .off → ∀ p : Instr × Bool, p ∈ [(.powerOn true, true), (.inputInRange, s.pins.pwrEn)] →
    p.2 = true →
    ∃ t, exec p.1 s = .next t ∧ t.flash.boots = s.flash.boots + 1 ∧ t.mem = [] ∧ t.cores = [] ∧ t.ctxs = [] ∧
      t.pins.pwrEn = true ∧
      (s.pins.leakN = true → t.mode = .powering ∧ t.regs = [] ∧ t.flash.ledger = s.flash.ledger) ∧
      (s.pins.leakN = false → t.mode = .faulted ∧ t.cause = 5 ∧ t.pins.faultN = false)) ∧
  (∀ s : State, s.mode.powered = true →
    (∀ holds : Bool, ∃ t, exec (.powerOff holds) s = .next t ∧ t.mode = .off ∧ t.regs = [] ∧ t.mem = [] ∧
      t.buffered = [] ∧ t.pins.pwrEn = false ∧
      t.flash.ledger = (if holds then
        (State.flushLedger { s with pins := { s.pins with pwrEn := false } }).flash.ledger else s.flash.ledger)) ∧
    (∀ high : Bool, ∃ t, exec (.inputOutOfRange high) s = .next t ∧ t.mode = .off ∧ t.regs = [] ∧ t.mem = [] ∧
      t.buffered = [] ∧ t.power.inRange = false ∧ t.flash.ledger = s.flash.ledger)) ∧
  (∀ s : State, s.mode ≠ .off → ∀ inRange : Bool, exec (.powerOn inRange) s = .next { s with
    pins := { s.pins with pwrEn := true }, power := { s.power with inRange := inRange } })

/-- R37, R493–R495, R535, R543, R553, R554: rails that come into regulation in POWERING raise PWR_GOOD and, MOD_RESET_N
being high, run the boot ROM, as its release does: it starts the preferred slot when that is valid, else the other, else
the module is FAULTED with cause 6; held low, no slot runs. Verified firmware of a running slot enters SELFTEST; the
self-test's end fences every failing core and enters READY, every stay training, or FAULTED with cause 1 for a failing
stack or chip block. -/
def Obligations.BootResult : Prop :=
  (∀ (f : Fuses) (s : State), s.mode = .powering → s.power.railsUp = false →
    ∃ x : State, exec (.railsGood f) s = .next x.bootRom.leakCheck ∧ x.mode = .powering ∧ x.power.railsUp = true ∧
      x.pins = { s.pins with pwrGood := true, slotId := f.slotId % 64 } ∧
      x.flash = { s.flash with slotA := ⟨f.validA, f.versionA, f.svnA, f.digestA⟩
                               slotB := ⟨f.validB, f.versionB, f.svnB, f.digestB⟩ } ∧ x.regs = s.regs) ∧
  (∀ s : State, exec .modResetRelease s = .next (State.bootRom { s with pins := { s.pins with modResetN := true } })) ∧
  (∀ s : State,
    let p := s.flash.bootRec.preferred
    (s.mode = .powering → s.power.railsUp = true → s.pins.modResetN = true → s.flash.bootRec.trial = false →
      (s.flash.slotOk p = true → s.bootRom = { s with flash := { s.flash with runSlot := p } }) ∧
      (s.flash.slotOk p = false → s.flash.slotOk (1 - p) = true →
        s.bootRom = { s with flash := { s.flash with runSlot := 1 - p, fallback := true } }) ∧
      (s.flash.slotOk p = false → s.flash.slotOk (1 - p) = false →
        s.bootRom.mode = .faulted ∧ s.bootRom.cause = 6 ∧ s.bootRom.pins.faultN = false)) ∧
    ((s.mode ≠ .powering ∨ s.power.railsUp = false ∨ s.pins.modResetN = false) → s.bootRom = s)) ∧
  (∀ s : State,
    (s.mode = .powering → s.power.railsUp = true → s.pins.modResetN = true → s.flash.runSlot ≠ 0xFF →
      ∃ t, exec .firmwareVerified s = .next t ∧ t.mode = .selftest ∧ t.mem = s.mem ∧ t.flash = s.flash) ∧
    ((s.mode ≠ .powering ∨ s.flash.runSlot = 0xFF) → exec .firmwareVerified s = .next s)) ∧
  (∀ (r : SelfTest) (s : State), s.mode = .selftest →
    ∃ t, exec (.selftestDone r) s = .next t ∧ t.mem = s.mem ∧ (∀ n ∈ r.cores, t.fenced n = true) ∧
      (r.chipBlock = true ∨ r.stackUnits ≠ [] → t.mode = .faulted ∧ t.cause = 1) ∧
      (r.chipBlock = false → r.stackUnits = [] → t.mode = .ready ∧ ∀ n, n < 12 → (t.stay n).training = true))

/-- R12, R37, R529: a module reset returns a powered module to POWERING. Every register keeps the bits that a reset keeps
and takes its reset value in the others, after streams that stop have counted what they took; module time, memory and the fault ledger stay; contexts, cores, the image and
sessions are as after power-on. MOD_RESET holds the module there, RESET_REQ goes on through the boot ROM, as the watchdog
does in a trial boot before READY. -/
def Obligations.ModuleResetResult : Prop :=
  ∀ s : State, s.Inv → s.mode.powered = true →
    let after := fun (t : State) =>
      t.mode = .powering ∧ t.time.now = s.time.now ∧ t.mem = s.mem ∧ t.synd = s.synd ∧
      t.flash.ledger = s.flash.ledger ∧ t.flash.boots = s.flash.boots ∧ t.buffered = s.buffered ∧
      t.image = none ∧ t.ctxs = [] ∧ t.cores = [] ∧ t.sessions = [] ∧ t.stays = [] ∧
      (∀ a, regSpec a = none → t.reg a = 0) ∧
      (∀ a r, regSpec a = some r →
        let keep := BitVec.ofNat 64 r.keep
        t.reg a = ((s.countAllStopped.enter .powering).reg a &&& keep) ||| (BitVec.ofNat 64 r.reset &&& ~~~ keep))
    (∃ t, exec .modReset s = .next t ∧ after t ∧ t.pins.modResetN = false) ∧
    after s.moduleReset ∧ exec .resetReq s = .next s.moduleReset.bootRom ∧
    (s.flash.bootRec.trial = true → (s.mode = .powering ∨ s.mode = .selftest) →
      exec .fwWatchdogExpiry s = .next s.moduleReset.bootRom)

/-- R475, R535, R542, R554: a module-class event makes the module FAULTED with its cause, FAULT_N low, every context in
use ended, every link down, and its own entry the newest of the written ledger; memory stays. In FAULTED the event is
written and the cause stays; in OFF nothing happens. -/
def Obligations.ModuleEventResult : Prop :=
  ∀ s : State, ∀ p : Instr × Nat × Nat, p ∈ [(.moduleClassEvent .meshHeader, 2, 0x4C), (.moduleClassEvent .walkerTables, 2, 0x4C),
      (.moduleClassEvent .collectiveControl, 2, 0x4C), (.moduleClassEvent .watchdog, 6, 0x4C),
      (.moduleClassEvent .junction, 4, 0x15), (.moduleClassEvent .regulator, 3, 0x4C),
      (.moduleClassEvent .leak, 5, 0x4C), (.leakDetected, 5, 0x4C), (.fwWatchdogExpiry, 6, 0x4C)] →
    (p.1 = .fwWatchdogExpiry → s.flash.bootRec.trial = false) →
    (s.mode ≠ .off → ∃ t, exec p.1 s = .next t ∧ t.mode = .faulted ∧ t.mem = s.mem ∧
      (∃ e, t.flash.ledger.getLast? = some e ∧ e.kind = p.2.2 ∧ e.cls = 2 ∧ e.detail0 = BitVec.ofNat 64 p.2.1) ∧
      (s.mode = .faulted → t.cause = s.cause ∧ t.ctxs = s.ctxs) ∧
      (s.mode ≠ .faulted → t.cause = p.2.1 ∧ t.pins.faultN = false ∧
        (∀ c, (t.ctx c).state = if (s.ctx c).state = 0 then 0 else 7) ∧
        (∀ n, (t.stay n).up = false) ∧ (∀ q, (t.qp q).connected = false) ∧
        ∀ h, h < 8 → t.rfld (bPort h + 0x08) 1 0 = 0)) ∧
    (s.mode = .off → exec p.1 s = .next { s with
      pins := { s.pins with leakN := if p.1 = .leakDetected then false else s.pins.leakN } })

/-- R221, R541, R542: one temperature sample: the readings stand in MOD_THERM, each stack's refresh window follows its
temperature, the thermal ceiling and THERM_ALERT_N follow the thresholds; at 105 °C, or 95 °C in a stack, the module is
FAULTED with cause 4. With calibration defaults every threshold lies 3 °C lower. R477, R526, R527, R532: a power sample
counts its energy, starts the limiter's holds at 38 A, above 40 times the input voltage or 1,900 W, or after 4 ms above
1,600 W, and ends them below 36 A and 1,600 W; the first two lower the ceiling two levels. A core takes the level in
force, counted and flagged. REEF_CTL takes a ceiling, at most 16. A phase that fails is switched off; a core rail left
short runs at what it carries, and any other is a module-class event with cause 3. -/
def Obligations.ThermalAndPowerResult : Prop :=
  (
    ∀ (x : Temps) (s : State), s.mode.powered = true →
      let d := s.thermDrop
      let k := hottest (-128) x.stackUnits
      let c := crossBit s.power.crossed 0 x.junction (95 - d) + crossBit s.power.crossed 1 x.junction (100 - d) +
        crossBit s.power.crossed 2 k (85 - d) + crossBit s.power.crossed 3 k (90 - d) +
        crossBit s.power.crossed 4 x.inlet (40 - d) + crossBit s.power.crossed 5 x.inlet (45 - d)
      let hot := decide (95 - d < x.junction) || decide (90 - d < k)
      (x.junction < 105 - d → k < 95 - d →
        ∃ t, exec (.thermalSample x) s = .next t ∧ t.mode = s.mode ∧ t.mem = s.mem ∧
          t.reg (bMod + 0x10) = packWord [(56, unsigned 8 x.junction), (48, unsigned 8 k), (40, unsigned 8 x.inlet),
            (32, unsigned 8 x.outlet)] ∧
          (∀ n v, n < 8 → x.stackUnits[n]? = some v →
            t.rfld (bStack n + 0x08) 63 56 = unsigned 8 v ∧
            t.rfld (bStack n + 0x08) 17 16 = if 85 - d < v then 1 else 0) ∧
          t.power.thermCeil = (s.power.thermStep hot (45 - d < x.inlet) c).thermCeil ∧
          t.pins.thermAlertN = !(decide (100 - d < x.junction) || decide (90 - d < k) || decide (40 - d < x.inlet))) ∧
      (s.mode ≠ .faulted → (105 - d ≤ x.junction ∨ 95 - d ≤ k) →
        ∃ t, exec (.thermalSample x) s = .next t ∧ t.mode = .faulted ∧ t.cause = 4 ∧ t.mem = s.mem)) ∧
  (
    (∀ (ma mv : Nat) (s : State), s.mode.powered = true →
      let mw := ma * mv / 1000
      let held := s.power.holding && !(decide (ma < 36000) && decide (mw ≤ 1600000))
      let above := decide (38000 ≤ ma) || decide (min 1900000 (40 * mv) < mw)
      let run := if 1600000 < mw then s.power.overRun + 1 else 0
      ∃ t, exec (.powerLimiterSample ma mv) s = .next t ∧ t.mem = s.mem ∧
        t.power.holding = (held || above || decide (4000 ≤ run)) ∧ t.power.overRun = run ∧
        (s.power.samples.length < 9999 →
          t.power.limiterCeil = if !held && above then s.power.limiterCeil - 2 else s.power.limiterCeil) ∧
        t.reg (bPower + 0x100) = s.reg (bPower + 0x100) + BitVec.ofNat 64 ((s.power.energyNj + mw) / 1000000) ∧
        t.reg (bPower + 0x110) = s.reg (bPower + 0x110) + (if t.power.holding then 1 else 0)) ∧
    (∀ (core : Fin 128) (s : State),
      let old := (s.core core).level
      let new := s.reefTarget
      (s.mode.powered = true → s.fenced core = false → (s.core core).streaming = none → old ≠ new →
        ∃ t, exec (.reefLevelChange core) s = .next t ∧ t.core core = { s.core core with level := new } ∧
          t.reg (bPower + 0x108) = s.reg (bPower + 0x108) + 1 ∧
          t.rfld (bPower + 0x10) 12 10 = 4 ∧
          bitAt (t.reg (bPower + 0x18)) (if new < old then 0 else 1) = true ∧ s.coresBut t core ∧ t.mem = s.mem) ∧
      ((s.fenced core = true ∨ old = new ∨ (s.core core).streaming ≠ none) → exec (.reefLevelChange core) s = .next s)) ∧
    (∀ (v : Word) (s : State),
      (s.mode.writable = true → ∃ t, exec (.reefCtlWrite v) s = .next t ∧
        t.rfld (bPower + 0x08) 4 0 = min 16 (fld v 4 0) ∧ s.regsBut t [bPower + 0x08] ∧ { t with regs := s.regs } = s) ∧
      (s.mode.writable = false → exec (.reefCtlWrite v) s = .next s)) ∧
    (∀ (rail : Fin 16) (phase : Fin 6) (s : State), s.mode.powered = true → s.mode ≠ .faulted →
      phase.val < (railPhases rail).2 → s.power.shed.contains (rail.val, phase.val) = false →
      let need := (railPhases rail).1
      let left := (railPhases rail).2 - ((s.power.shed.filter (fun x => x.1 = rail.val)).length + 1)
      ∃ t, exec (.regulatorPhaseFault rail phase) s = .next t ∧ t.mem = s.mem ∧
        t.power.shed = s.power.shed ++ [(rail.val, phase.val)] ∧
        (need ≤ left → t.mode = s.mode ∧ t.power.regCeil = s.power.regCeil) ∧
        (left < need → ∀ l, rail.val < 4 → carriedLevel left need = some l →
          t.mode = s.mode ∧ t.power.regCeil = min s.power.regCeil l) ∧
        (left < need → (4 ≤ rail.val ∨ carriedLevel left need = none) → t.mode = .faulted ∧ t.cause = 3)))

/-! ## Registers and requests of the control block -/

namespace Sys2Proof.Machine.Rows

/-- Registers whose write acts: CHIP_CTL, CORE_FENCE, REEF_CTL, TIME_OFFSET, XL_CTX_CTL and the injections. -/
def actsOn (o : Nat) : Bool :=
  o == 0x10 || o == 0x20 || o == 0x28 || o == bPower + 0x08 || o == bTime + 0x08 ||
    inRegs o (bXl + 0x280) (bXl + 0x2F8) || o == bPert + 0x100 || o == bPert + 0x108 || o == bPert + 0x110 ||
    o == bPert + 0x118

end Sys2Proof.Machine.Rows

/-- R9–R11, R35, R465, R484, R530: a write to a register that only holds a value takes its RW bits and clears its W1C bits
where ones are written, and changes no other register and nothing else; a write in a state that takes none, to a fenced
core, off alignment or outside every block changes nothing. A CORE_FENCE write fences every core of its set bits and
un-fences none. TIME_OFFSET is written by a time source without PPS_IN only. -/
def Obligations.RegisterWriteResult : Prop :=
  (∀ (o : Nat) (r : RegSpec) (v : Word) (s : State), s.mode.writable = true → actsOn o = false →
    regSpec o = some r → devPlace (0x020000000000 + o) = .reg o → s.inFencedCore o = false →
    exec (.registerWrite .owner (0x020000000000 + o) v) s =
      .next (s.setReg o (fixWritten o (writtenValue r (s.reg o) v)))) ∧
  (∀ (r : RegSpec) (old v : Word) (i : Nat), i < 64 →
    bitAt (writtenValue r old v) i =
      if r.w1c.testBit i ∧ bitAt v i then false else if r.rw.testBit i then bitAt v i else bitAt old i) ∧
  (∀ (src : Sender) (a : Nat) (v : Word) (s : State),
    (s.mode.writable = false ∨ devPlace a = .none ∨ ∃ o, devPlace a = .reg o ∧ s.inFencedCore o = true) →
    exec (.registerWrite src a v) s = .next s) ∧
  (∀ (upper : Bool) (v : Word) (s : State),
    (s.mode.writable = true → ∃ t, exec (.coreFenceWrite upper v) s = .next t ∧ t.mem = s.mem ∧ t.mode = s.mode ∧
      ∀ n, n < 128 → t.fenced n = (s.fenced n || (decide (n / 64 = if upper then 1 else 0) && bitAt v (n % 64)))) ∧
    (s.mode.writable = false → exec (.coreFenceWrite upper v) s = .next s)) ∧
  (∀ (v : Word) (s : State),
    (s.mode.writable = true → s.timeSource = true → s.ppsEnabled = false →
      ∃ t, exec (.timeOffsetWrite v) s = .next t ∧ t.reg (bTime + 0x08) = v ∧
        t.reg (bTime + 0x108) = s.reg (bTime + 0x108) + 1 ∧ bitAt (t.reg (bTime + 0x38)) 1 = true ∧
        t.time.now = s.time.now ∧ s.regsBut t [bTime + 0x08, bTime + 0x28, bTime + 0x38, bTime + 0x108]) ∧
    ((s.mode.writable = false ∨ s.timeSource = false ∨ s.ppsEnabled = true) →
      exec (.timeOffsetWrite v) s = .next s))

/-- R33, R37, R319, R328, R370, R443: HALT_REQ in RUNNING saves every primary and filler context that runs; RESUME_REQ in
HALTED restores the saved primaries, makes the module RUNNING and acts on the step messages held; UNLOAD_REQ in LOADED or
HALTED takes the image, its contexts, its job and the masthead's session away and makes the module READY, every stay
training. In any other state each changes nothing. -/
def Obligations.ControlRequests : Prop :=
  ∀ s : State,
    (s.mode = .running → ∃ t, exec .haltReq s = .next t ∧ t.mem = s.mem ∧ t.cores = s.cores ∧
      (∀ c, ((s.ctx c).cls = 2 ∨ (s.ctx c).cls = 3) → (s.ctx c).state = 2 →
        (t.ctx c).state = 3 ∧ (t.ctx c).pending = (s.ctx c).coreList) ∧ (t.mode = .running ∨ t.mode = .halted)) ∧
    (s.mode ≠ .running → exec .haltReq s = .next s) ∧
    (s.mode = .halted → ∃ x : State,
      exec .resumeReq s = .next ((s.held.foldl (fun (t : State) i => t.actHeld i) { x with held := [] }).tryOpen) ∧
      x.mode = .running ∧ x.held = s.held ∧ x.mem = s.mem ∧ x.cores = s.cores ∧
      (∀ c, (s.ctx c).cls = 2 → (s.ctx c).state = 4 → x.ctx c = { s.ctx c with state := 5 }) ∧
      (∀ c, (∀ p ∈ s.ctxs, p.1 = c → p.2.cls ≠ 2) → x.ctx c = s.ctx c)) ∧
    (s.mode ≠ .halted → exec .resumeReq s = .next s) ∧
    ((s.mode = .loaded ∨ s.mode = .halted) → ∃ t, exec .unloadReq s = .next t ∧ t.mode = .ready ∧ t.image = none ∧
      t.ctxs = [] ∧ t.tackle = [] ∧ t.step.job = false ∧ t.sessions = s.sessions.filter (fun x => x.level ≠ 3) ∧
      (∀ n, n < 12 → (t.stay n).training = true) ∧ bitAt (t.reg (bRig + 0x50)) 2 = true ∧
      (∀ c, c < 16 → t.reg (bXl + 0x100 + 8 * c) = 0) ∧ t.mem = s.mem ∧ t.flash = s.flash) ∧
    (s.mode ≠ .loaded → s.mode ≠ .halted → exec .unloadReq s = .next s)

/-- R500, R501, R505, R506: with injection armed, INJ_MEM inverts symbols of a codeword, bytes and syndrome together, or
lays the poison pattern over it; INJ_SRAM alters an SRAM word as it stands, or a mesh flit; INJ_LINK and INJ_CHECK replace
the request in force. Not armed, none has an effect. -/
def Obligations.InjectionResult : Prop :=
  (∀ (v : Word) (s : State), s.mode.writable = true → s.armed = true →
    let k := fld v 63 61
    let cw := fld v 38 6
    (1 ≤ k → k ≤ 4 → ∃ t, exec (.injMem v) s = .next t ∧
      t.bytes (64 * cw) (2 * k) = (s.bytes (64 * cw) (2 * k)).map (fun b => ~~~ b) ∧
      t.codeSynd cw = (List.range k).foldl (fun z i => z ^^^ symSynd i 0xFFFF) (s.codeSynd cw) ∧
      s.memBut t (64 * cw) (2 * k) ∧ t.regs = s.regs) ∧
    (k = 5 → ∃ t, exec (.injMem v) s = .next t ∧ t.mem = s.mem ∧ t.codeSynd cw = s.codeSynd cw ^^^ poisonSynd ∧
      t.reg (bFault + 0x130) = s.reg (bFault + 0x130) + 1) ∧
    ((k = 0 ∨ 5 < k) → exec (.injMem v) s = .next s)) ∧
  (∀ (v : Word) (s : State), s.mode.writable = true → s.armed = true →
    let target := fld v 63 60
    let unit := fld v 59 50
    let kind := fld v 49 48
    let bit := fld v 47 40
    let word := fld v 39 0
    kind ≠ 0 → bit ≤ 71 → unit < sramUnits target →
    (1 ≤ target → target ≤ 5 → word < sramWords target → s.wordHeld target unit word = true →
      ∃ t, exec (.injSram v) s = .next t ∧ t.mem = s.mem ∧
        t.sramMask (sramKey target unit word) = s.sramMask (sramKey target unit word) ^^^ injBits kind bit ∧
        ∀ j, j ≠ sramKey target unit word → t.sramMask j = s.sramMask j) ∧
    (target = 6 → kind ≠ 1 → ∃ t, exec (.injSram v) s = .next t ∧ t.sramMask (sramKey 6 unit 0) = sramPoison ∧
      t.mem = s.mem) ∧
    (target = 7 → kind ≠ 1 → ∃ t, exec (.injSram v) s = .next t ∧ t.mode = .faulted ∧ t.cause = 2)) ∧
  (∀ (v : Word) (s : State), s.mode.writable = true → s.armed = true →
    (fld v 63 60 ≠ 5 → exec (.injLink v) s = .next (s.setReg (bPert + 0x110) v)) ∧
    (fld v 63 60 = 5 → fld v 59 56 < 12 → fld v 47 32 ≠ 0 →
      exec (.injLink v) s = .next ((s.setReg (bPert + 0x110) 0).laneLost (fld v 59 56) (fld v 55 53) true)) ∧
    exec (.injCheck v) s = .next (s.setReg (bPert + 0x118) v)) ∧
  (∀ (v : Word) (s : State), (s.mode.writable = false ∨ s.armed = false) →
    ∀ i ∈ [Instr.injMem v, .injSram v, .injLink v, .injCheck v], exec i s = .next s)

/-! ## Halyard -/

/-- R443, R461–R465: each request that is the next of its session is refused with E_PERM and executes nothing where its
message is not permitted, waits where the module halts and it opens or closes a step, and else executes; the session then
goes on with what came ahead of its turn, which is nothing when nothing did. A request ahead of its turn is kept; one seen
before gets its stored response again; one on an unknown session, or that is not good, is dropped and counted. -/
def Obligations.HalyardOrder : Prop :=
  (∀ (i : Instr) (m : Msg) (s : State), msgOf i = some m →
    let e := m.env
    (∀ x, s.inTurn i m x →
      let v := ((s.takeGram e.port).touch x.id).modSession x.id (fun y => { y with received := e.seq })
      (s.permits x.level m = false →
        exec i s = .next ((v.respond e m.code 0x0A []).catchUp x.id x.waiting)) ∧
      (s.permits x.level m = true → s.holds m.code = true →
        exec i s = .next (State.catchUp { v with held := v.held ++ [i] } x.id x.waiting)) ∧
      (s.permits x.level m = true → s.holds m.code = false →
        ∃ y : Session, y.id = x.id ∧ y.level = x.level ∧ exec i s = .next ((v.execute y m i).catchUp x.id x.waiting))) ∧
    (∀ x, s.sessionOf e.session = some x → e.good = true → x.received + 1 < e.seq → e.seq ≤ 2 ^ 32 →
      x.highest < e.seq + 64 → x.repeats e.seq = false →
      exec i s = .next (((s.takeGram e.port).touch x.id).modSession x.id (fun y => { y with early := y.early ++ [i] }))) ∧
    (∀ x r, s.sessionOf e.session = some x → e.good = true → e.seq ≠ 0 → e.seq ≤ 2 ^ 32 → x.highest < e.seq + 64 →
      x.repeats e.seq = true → x.responses.find? (fun r => r.seq = e.seq ∧ r.tag = e.tag) = some r →
      exec i s = .next (s.answerAgain e r)) ∧
    (∀ x, s.sessionOf e.session = some x → (e.good = false ∨ e.seq = 0 ∨ e.seq + 64 ≤ x.highest) →
      exec i s = .next (s.dropGram e.port)) ∧
    (s.sessionOf e.session = none → s.listens = true → exec i s = .next (s.dropGram e.port)) ∧
    (s.sessionOf e.session = none → s.listens = false → exec i s = .next s)) ∧
  (∀ (s : State) (x : Session) (id n : Nat), s.sessionOf id = some x → x.early = [] → x.ahead = [] →
    s.catchUp id n = s)

/-- R33, R380, R450, R460, R463, R465, R489, R517, R518, R548, R549, R552: what the messages that read, set up, halt, resume,
unload and reset the module do when they execute, and what each answers. -/
def Obligations.HalyardControl : Prop :=
  ∀ (e : Env) (s : State) (m : Msg) (x : Session),
    let u := s.taken e
    let fin := fun (t : State) (code status : Nat) (ws : List Word) =>
      (Host.Outcome.next (t.answered x e code status ws) : Res)
    (s.served (.keepalive e) m x → exec (.keepalive e) s = fin u 0x06 0 []) ∧
    (s.served (.close e) m x →
      exec (.close e) s = .next (((u.respond e 0x05 0 []).closeSession x.id).catchUp x.id x.waiting)) ∧
    (s.served (.reset e) m x →
      exec (.reset e) s = .next (((u.respond e 0x44 0 []).resetReq).catchUp x.id x.waiting)) ∧
    (s.served (.identity e) m x → exec (.identity e) s = fin u 0x10 0
      ([u.readReg 0, BitVec.ofNat 64 Config.serial, BitVec.ofNat 64 Config.macBase, BitVec.ofNat 64 u.pins.slotId] ++
        Config.deviceChain)) ∧
    (∀ nonce sig, s.served (.attest e nonce sig) m x →
      exec (.attest e nonce sig) s = fin u.calBytes.2 0x11 0
        (bytesWords 64 (u.reportBody nonce u.calBytes.1 ++ leBytes 96 sig))) ∧
    (∀ a o, s.served (.regRead e [a]) m x → devPlace a = .reg o → u.inFencedCore o = false →
      exec (.regRead e [a]) s = fin u 0x20 0 [0, u.readReg o]) ∧
    (∀ addrs, s.served (.regRead e addrs) m x →
      ((addrs = [] ∨ 64 < addrs.length) → exec (.regRead e addrs) s = fin u 0x20 0x0A []) ∧
      (addrs ≠ [] → addrs.length ≤ 64 →
        exec (.regRead e addrs) s = fin (u.readEach addrs).2.2 0x20 (u.readEach addrs).1 (u.readEach addrs).2.1)) ∧
    (∀ pairs, s.served (.regWrite e pairs) m x → pairs ≠ [] → pairs.length ≤ 64 →
      let r := u.writeAll (if x.level = 3 then .masthead else .owner) 0 pairs
      exec (.regWrite e pairs) s = fin r.2.2 0x21 (if r.2.1 then 0 else 0x0A) [BitVec.ofNat 64 r.1]) ∧
    (s.served (.rigCacheList e) m x →
      exec (.rigCacheList e) s = fin u 0x32 0 (s.flash.cache.flatMap (fun c => digestWords c.1))) ∧
    (∀ d, s.served (.rigCacheDelete e d) m x →
      (s.image.any (fun g => g.digest == d) = true → exec (.rigCacheDelete e d) s = fin u 0x33 0x0A []) ∧
      (s.image.any (fun g => g.digest == d) = false → exec (.rigCacheDelete e d) s =
        fin { u with flash := { u.flash with cache := u.flash.cache.filter (fun c => c.1 ≠ d) } } 0x33 0 [])) ∧
    (s.served (.jobHalt e) m x → exec (.jobHalt e) s = fin u.haltReq 0x41 0 []) ∧
    (s.served (.jobResume e) m x → exec (.jobResume e) s = fin u.startStagger.resumeReq 0x42 0 []) ∧
    (s.served (.unload e) m x → exec (.unload e) s = fin u.unloadReq 0x43 0 []) ∧
    (s.served (.linkRetrain e) m x → exec (.linkRetrain e) s = fin u.retrainAll 0x71 0 []) ∧
    (∀ port cak, s.served (.macsecCak e port cak) m x →
      exec (.macsecCak e port cak) s = fin (u.setPort port { u.port port with cak := some cak }) 0x72 0 []) ∧
    (∀ addrs udp, s.served (.setAddr e addrs udp) m x →
      (addrs.any (fun a => 8 ≤ a.1 || 2 ^ 128 ≤ a.2) = true → exec (.setAddr e addrs udp) s = fin u 0x70 0x0A []) ∧
      (addrs.any (fun a => 8 ≤ a.1 || 2 ^ 128 ≤ a.2) = false → udp = none →
        exec (.setAddr e addrs udp) s = fin { u with addrs := addrs.foldl putAddr u.addrs } 0x70 0 []) ∧
      (addrs.any (fun a => 8 ≤ a.1 || 2 ^ 128 ≤ a.2) = false → ∀ p, udp = some p → 0 < p → p < 65536 →
        exec (.setAddr e addrs udp) s =
          fin (State.setRfld { u with addrs := addrs.foldl putAddr u.addrs } bHly 63 48 p) 0x70 0 [])) ∧
    (∀ classes, s.served (.subscribe e classes) m x → exec (.subscribe e classes) s =
      fin (u.modSession x.id (fun y => { y with classes := classes.val })) 0x80 0 []) ∧
    (∀ source count first addrs, s.served (.telemetryRead e source count first addrs) m x →
      ((count = 0 ∨ 127 < count ∨ 5 < source) →
        exec (.telemetryRead e source count first addrs) s = fin u 0x82 0x0A []) ∧
      (source = 1 → 0 < count → count ≤ 127 → addrs.length = count →
        exec (.telemetryRead e source count first addrs) s = fin u 0x82 0
          (telemHeader (u.rfld (bTime + 0x20) 47 32) count (u.reg (bTime + 0x30)) (addrs.map u.shadow))) ∧
      (let r := u.telemetryReadMsg source count first addrs
       exec (.telemetryRead e source count first addrs) s = fin r.2.2 0x82 r.1 r.2.1)) ∧
    (∀ first count, s.served (.ledgerRead e first count) m x →
      ((count = 0 ∨ 128 < count) → exec (.ledgerRead e first count) s = fin u 0x84 0x0A []) ∧
      (0 < count → count ≤ 128 →
        let es := (s.flash.ledger.filter (fun y => first ≤ y.seq)).take count
        exec (.ledgerRead e first count) s = fin u 0x84 0
          (BitVec.ofNat 64 ((es.head?.map (fun y => y.seq)).getD 0) :: es.flatMap ledgerWords))) ∧
    (s.served (.calRead e) m x → exec (.calRead e) s = fin u.calBytes.2 0x90 0 (bytesWords 8192 u.calBytes.1))

/-- R309, R312, R452, R454, R456, R458: what the messages for page tables, host regions, queue pairs and opened regions do.
Entries are written when every one of them is invalid, or valid in a saved context, as the message needs, and the answer
waits for the invalidation; anything else is refused whole with E_PERM. -/
def Obligations.HalyardHostMemory : Prop :=
  ∀ (e : Env) (s : State) (m : Msg) (x : Session),
    let u := s.taken e
    let fin := fun (t : State) (code status : Nat) (ws : List Word) =>
      (Host.Outcome.next (t.answered x e code status ws) : Res)
    (∀ (c : Fin 16) (v : Nat × Word) (l : List (Nat × Word)),
      s.served (.mapPages e c (v :: l)) m x →
      let vas := (v :: l).map (fun p => p.1)
      let r := u.entriesOf c vas
      (∀ es, r.1 = some es → (u.ctx c).state ≠ 0 → es.all (fun p => !bitAt p.2 0) = true →
        (v :: l).all (fun p => bitAt p.2 0) = true →
        let t := (es.zip (v :: l)).foldl (fun (t : State) p => t.writeWordPa 0 p.1.1 p.2.2) r.2
        exec (.mapPages e c (v :: l)) s = .next (State.catchUp { t with invals := t.invals ++
          [{ asid := (t.ctx c).asid, lo := vas.foldl min v.1 / 65536 * 65536
             hi := vas.foldl max v.1 / 65536 * 65536 + 65536, reply := some (e, 0x60) }] } x.id x.waiting)) ∧
      ((r.1 = none ∨ (u.ctx c).state = 0 ∨ (v :: l).all (fun p => bitAt p.2 0) = false ∨
        (∃ es, r.1 = some es ∧ es.all (fun p => !bitAt p.2 0) = false)) →
        exec (.mapPages e c (v :: l)) s = fin r.2 0x60 0x0A [])) ∧
    (∀ (c : Fin 16) (v : Nat) (l : List Nat), s.served (.unmapPages e c (v :: l)) m x →
      let may := ((s.ctx c).state = 4 ∨ s.mode = .halted ∧ (s.ctx c).state ≠ 0)
      let r := u.entriesOf c (v :: l)
      (may → ∀ es, r.1 = some es →
        let t := es.foldl (fun (t : State) p => t.writeWordPa 0 p.1 (clearBit p.2 0)) r.2
        exec (.unmapPages e c (v :: l)) s = .next (State.catchUp { t with invals := t.invals ++
          [{ asid := (t.ctx c).asid, lo := (v :: l).foldl min v / 65536 * 65536
             hi := (v :: l).foldl max v / 65536 * 65536 + 65536, reply := some (e, 0x61) }] } x.id x.waiting)) ∧
      (may → r.1 = none → exec (.unmapPages e c (v :: l)) s = fin r.2 0x61 0x0A []) ∧
      (¬ may → exec (.unmapPages e c (v :: l)) s = fin u 0x61 0x0A [])) ∧
    (∀ (c : Fin 16) (g base rkey : Nat), s.served (.setRegion e c g base rkey) m x →
      let may := g < (s.ctx c).regions ∧ base % 65536 = 0 ∧ base < 2 ^ 64 ∧
        (s.mode = .loaded ∨ s.mode = .halted ∨ (s.ctx c).state = 4)
      let old : Region := kget {} u.regions (c * 4096 + g)
      (may → exec (.setRegion e c g base rkey) s = fin { u with
        regions := kset {} u.regions (c * 4096 + g) { old with base := base, rkey := rkey % 2 ^ 32 } } 0x62 0 []) ∧
      (¬ may → exec (.setRegion e c g base rkey) s = fin u 0x62 0x0A [])) ∧
    (∀ (q : Fin 4096) (remote send recv : Nat), s.served (.qpConnect e q remote send recv) m x →
      (∀ c h, u.qpHome q = some (c, h) → (s.ctx c).state ≠ 2 → (s.qp q).unacked = [] →
        exec (.qpConnect e q remote send recv) s = fin (u.setQp q
          { connected := true, ctx := c, primary := h, onAlt := u.startsOnAlt h, remote := remote % 2 ^ 24
            nextPsn := send % 2 ^ 24, ackPsn := send % 2 ^ 24, recvPsn := recv % 2 ^ 24 }) 0x63 0 []) ∧
      ((u.qpHome q = none ∨ ∃ c h, u.qpHome q = some (c, h) ∧ (s.ctx c).state = 2) →
        exec (.qpConnect e q remote send recv) s = fin u 0x63 0x0A [])) ∧
    (∀ q : Fin 4096, s.served (.qpClose e q) m x →
      (∀ c h, u.qpHome q = some (c, h) → (s.ctx c).state ≠ 2 →
        exec (.qpClose e q) s = fin (u.qpLost q) 0x64 0 []) ∧
      ((u.qpHome q = none ∨ ∃ c h, u.qpHome q = some (c, h) ∧ (s.ctx c).state = 2) →
        exec (.qpClose e q) s = fin u 0x64 0x0A [])) ∧
    (∀ b, s.served (.openRegion e b) m x →
      (∀ w, u.buffer b = some w → hasMemory w = true → ∃ key : Nat, key < 2 ^ 32 ∧
        exec (.openRegion e b) s = fin { u with opened := u.opened ++ [(key, b)], free := u.free + 1 } 0x65 0
          [BitVec.ofNat 64 key]) ∧
      ((∀ w, u.buffer b = some w → hasMemory w = false) → exec (.openRegion e b) s = fin u 0x65 0x0A []))

/-- R418, R420, R433, R434, R436–R438, R508, R562: what the messages of a job and its steps do. A message that the module does
not expect is refused with E_STEP_SKEW (3), counted, and changes nothing of the step; PUBLISHED, SET_ACCUM and
ROLLBACK_REQUEST are taken by the top masthead only. SNAPSHOT sends the copy, or finds it poisoned (E_POISON, which of the
two is the model's choice of log entry 109). -/
def Obligations.HalyardStep : Prop :=
  ∀ (e : Env) (s : State) (m : Msg) (x : Session),
    let u := s.taken e
    let fin := fun (t : State) (code status : Nat) (ws : List Word) =>
      (Host.Outcome.next (t.answered x e code status ws) : Res)
    (∀ step accum ls, s.served (.stepOpen e step accum ls) m x →
      (s.expectsOpen step = true → exec (.stepOpen e step accum ls) s =
        fin ((u.mastheadOpen.toMembers 0x53 [step, BitVec.ofNat 64 accum, BitVec.ofNat 64 ls]).openStep accum ls) 0x53 0 []) ∧
      (s.expectsOpen step = false → exec (.stepOpen e step accum ls) s = fin u.stepSkew 0x53 3 [])) ∧
    (∀ step skipped, s.served (.closed e step skipped) m x →
      (s.isOpen step = true → exec (.closed e step skipped) s =
        fin ((u.toMembers 0x54 [step, if skipped then 1 else 0]).closeStep skipped) 0x54 0 []) ∧
      (s.isOpen step = false → exec (.closed e step skipped) s = fin u.stepSkew 0x54 3 [])) ∧
    (∀ step, s.served (.rollback e step) m x →
      ((s.isOpen step || s.lastClosed step) = true →
        let t := (u.toMembers 0x55 [step]).rollbackStep step
        exec (.rollback e step) s = fin { t with masthead := { t.masthead with restagger := true } } 0x55 0 []) ∧
      ((s.isOpen step || s.lastClosed step) = false → exec (.rollback e step) s = fin u.stepSkew 0x55 3 [])) ∧
    (∀ version, s.served (.published e version) m x →
      (s.isTop = true → exec (.published e version) s = fin (State.tryOpen { u with
        masthead := { u.masthead with published := u.masthead.published ++ [version] } }) 0x50 0 []) ∧
      (s.isTop = false → exec (.published e version) s = fin u 0x50 0x0A [])) ∧
    (∀ count step, s.served (.setAccum e count step) m x →
      (s.isTop = true → s.masthead.opened.any (fun o => step.toNat ≤ o.toNat) = false → count ≠ 0 →
        s.accumMax.any (fun k => k < count) = false →
        exec (.setAccum e count step) s =
          fin { u with masthead := { u.masthead with accumAt := kput u.masthead.accumAt step.toNat count } } 0x52 0 []) ∧
      (s.isTop = false → exec (.setAccum e count step) s = fin u 0x52 0x0A []) ∧
      (s.isTop = true → s.masthead.opened.any (fun o => step.toNat ≤ o.toNat) = true →
        exec (.setAccum e count step) s = fin u 0x52 3 [])) ∧
    (∀ step, s.served (.rollbackRequest e step) m x →
      (s.isTop = true → s.lastClosed step = true → s.masthead.published.contains (step + 1) = false →
        exec (.rollbackRequest e step) s = fin (u.sendRollback step []) 0x51 0 []) ∧
      (s.isTop = true → (s.lastClosed step = false ∨ s.masthead.published.contains (step + 1) = true) →
        exec (.rollbackRequest e step) s = fin u 0x51 3 []) ∧
      (s.isTop = false → exec (.rollbackRequest e step) s = fin u 0x51 0x0A [])) ∧
    (∀ (qp : Fin 16) (rkey addr : Nat), s.served (.snapshot e qp rkey addr) m x →
      (∀ b, s.step.copy = some b → (s.mode = .halted ∨ s.stepState ≠ 2) → u.qpUp qp = true →
        let bs := blockBytes b
        let ws := [BitVec.ofNat 64 rkey, BitVec.ofNat 64 addr, BitVec.ofNat 64 bs.length]
        let out : Unacked := ⟨0, 255, 0, 0, addr, false, { kind := .rdmaWrite, words := ws, bytes := bs }⟩
        let v := u.takeFree.2
        exec (.snapshot e qp rkey addr) s = fin (v.sendWhenRoom qp out) 0x45 0 [] ∨
          exec (.snapshot e qp rkey addr) s = fin v 0x45 6 []) ∧
      (s.step.copy = none → exec (.snapshot e qp rkey addr) s = fin u 0x45 0x0A []) ∧
      (s.step.copy.isSome = true → s.mode ≠ .halted → s.stepState = 2 →
        exec (.snapshot e qp rkey addr) s = fin u 0x45 0x0A [])) ∧
    (∀ restored, s.served (.jobStart e restored) m x →
      (s.step.pendingStart = none → restored.any (fun b => b.digest != s.firstBlock.digest) = false →
        exec (.jobStart e restored) s = .next (State.catchUp { u with
          step := { u.step with pendingStart := some (e, restored) } } x.id x.waiting)) ∧
      (s.step.pendingStart = none → restored.any (fun b => b.digest != s.firstBlock.digest) = true →
        exec (.jobStart e restored) s = fin u 0x40 0x0D []) ∧
      (s.step.pendingStart.isSome = true → exec (.jobStart e restored) s = fin u 0x40 0x0A [])) ∧
    (∀ image store, s.served (.rigLoad e image store) m x →
      (s.load = none → exec (.rigLoad e image store) s =
        .next (State.catchUp { u with load := some ⟨e, image, false, store, u.fenceMask⟩ } x.id x.waiting)) ∧
      (s.load.isSome = true → exec (.rigLoad e image store) s = fin u 0x30 0x0A [])) ∧
    (∀ digest, s.served (.rigLoadCached e digest) m x →
      (∀ f, s.load = none → s.flash.cache.find? (fun c => c.1 = digest) = some f →
        exec (.rigLoadCached e digest) s =
          .next (State.catchUp { u with load := some ⟨e, f.2, true, false, u.fenceMask⟩ } x.id x.waiting)) ∧
      ((s.load.isSome = true ∨ s.flash.cache.find? (fun c => c.1 = digest) = none) →
        exec (.rigLoadCached e digest) s = fin u 0x31 0x0A []))

/-- R496, R523, R548, R550, R551, R553, R555, R557: what the messages for the calibration block, firmware, owner keys, plumb
runs and battens do when they are accepted, and with which status they are refused. -/
def Obligations.HalyardMaintenance : Prop :=
  ∀ (e : Env) (s : State) (m : Msg) (x : Session),
    let u := s.taken e
    let fin := fun (t : State) (code status : Nat) (ws : List Word) =>
      (Host.Outcome.next (t.answered x e code status ws) : Res)
    (∀ entries, s.served (.calWrite e entries) m x →
      (s.load = none → entries.length ≤ 127 → entries.all calEntryOk = true →
        let old := if s.flash.calDamaged then [] else s.flash.calEntries
        let new := entries.foldl (fun l c => calPut l { c with writer := 1, time := u.calTime }) old
        let flash : Flash := { u.flash with
          calEntries := new, calWrites := u.flash.calWrites + 1, calDamaged := false
          calUntil := u.time.now + 200000000 }
        exec (.calWrite e entries) s = fin (State.flag { u with flash := flash } (bMod + 0x28) 2) 0x91 0 []) ∧
      ((s.load.isSome = true ∨ 127 < entries.length ∨ entries.all calEntryOk = false) →
        exec (.calWrite e entries) s = fin u 0x91 0x0A [])) ∧
    (∀ f, s.served (.fwStage e f) m x → s.load = none →
      let n := s.flash.stageSlot
      let r := fwRefusal s.flash.fuseSvn f
      let good : Flash := { u.flash.setSlot n ⟨true, f.version, f.svn, f.digest⟩ with staged := some n }
      let bad : Flash := u.flash.setSlot n { u.flash.slot n with valid := false }
      (r = 0 → exec (.fwStage e f) s = fin (State.flag { u with flash := good } (bMod + 0x28) 4) 0xA0 0 []) ∧
      (r ≠ 0 → exec (.fwStage e f) s =
        fin (State.flag (State.setRfld { u with flash := bad } (bMod + 0x18) 39 36 r) (bMod + 0x28) 5) 0xA0 0x0A [])) ∧
    (s.served (.fwActivate e) m x →
      (∀ n, s.flash.staged = some n →
        let boot : BootRec := { u.flash.bootRec with preferred := n, trial := true, attempted := false }
        exec (.fwActivate e) s = fin { u with flash := u.flash.writeBoot boot } 0xA1 0 []) ∧
      (s.flash.staged = none → exec (.fwActivate e) s = fin u 0xA1 0x0A [])) ∧
    (∀ key sig, s.served (.ownerEnroll e key sig) m x →
      let v : State := { u with enrollUntil := 0 }
      (s.mayEnroll key sig = true → s.load = none →
        let t := State.flag { v with flash := { v.flash with
          owner := key, ownerCount := v.flash.ownerCount + 1, ownerTime := (v.ptpTime / 10 ^ 9).toNat, cache := [] } }
          (bMod + 0x28) 3
        exec (.ownerEnroll e key sig) s =
          .next (((t.respond e 0xB0 0 []).closeOwners).catchUp x.id x.waiting)) ∧
      ((s.mayEnroll key sig = false ∨ s.load.isSome = true) →
        exec (.ownerEnroll e key sig) s = fin v 0xB0 0x0A [])) ∧
    (∀ a b, s.served (.plumbSchedule e a b) m x →
      let run : Plumb := { field := fld a 1 0, mode := fld a 2 2, left := fld a 15 8, railMv := fld a 7 3 }
      (s.plumbRefused a = false → s.isMasthead = false →
        exec (.plumbSchedule e a b) s = fin { u with plumb := some run } 0x85 0 []) ∧
      (s.plumbRefused a = false → s.isMasthead = true →
        exec (.plumbSchedule e a b) s = fin (State.toMembers { u with plumb := some run } 0x85 [a, b]) 0x85 0 []) ∧
      (s.plumbRefused a = true → exec (.plumbSchedule e a b) s = fin u 0x85 0x0A [])) ∧
    (∀ id scope t, s.served (.battenSchedule e id scope t) m x →
      let when := if scope = 0 then t.toNat else s.toModuleTime t.toNat
      let ok := s.battenOk (x.level == 3) scope when
      let set := State.setReg { u with time := { u.time with batten := some ⟨id, scope, t.toNat, when⟩ } } (bTime + 0x28)
        (BitVec.ofNat 64 when)
      let ms := s.battenMembers scope
      (ok = true → (scope = 0 ∨ s.isMasthead = false) → exec (.battenSchedule e id scope t) s = fin set 0x83 0 []) ∧
      (ok = true → scope ≠ 0 → s.isMasthead = true →
        (ms = [] → exec (.battenSchedule e id scope t) s = fin set 0x83 0 (battenWords 0 0)) ∧
        (ms ≠ [] →
          let y := ms.foldl (fun (w : State) k => w.mhRequest k 0x83 [packWord [(48, id % 65536), (46, scope % 4)], t]) set
          exec (.battenSchedule e id scope t) s = .next (State.catchUp { y with
            masthead := { y.masthead with battenReply := some (e, ms, 0, 0) } } x.id x.waiting))) ∧
      (ok = false → exec (.battenSchedule e id scope t) s = fin u 0x83 0x0A []))

/-! ## Sessions, notifications and the masthead -/

/-- R462, R463, R471: HELLO opens a handshake under a new session number, or is refused with 16 sessions open; within a
second a good AUTH opens the session at the level granted, a bad one is counted and opens none; handshakes, idle sessions
and sessions past their limit end when their time is over, and not before. -/
def Obligations.SessionResult : Prop :=
  (∀ (h : Hello) (s : State), s.listens = true →
    (s.sessions.length < 16 → ∃ t, exec (.hello h) s = .next t ∧ t.nextSession = s.nextSession + 1 ∧
      t.shakes = s.shakes ++ [⟨s.nextSession, h, s.time.now⟩] ∧ t.sessions = s.sessions ∧
      t.sent = s.sent ++ [{ kind := .helloM, dest := s.nextSession, words := [BitVec.ofNat 64 s.nextSession] }]) ∧
    (16 ≤ s.sessions.length → ∃ t, exec (.hello h) s = .next t ∧ t.shakes = s.shakes ∧ t.sessions = s.sessions ∧
      t.sent = s.sent ++ [{ kind := .helloM, status := 0x0A }])) ∧
  (∀ (a : Auth) (s : State) (k : Handshake), s.listens = true → s.shakes.find? (fun x => x.id = a.session) = some k →
    let left := s.shakes.filter (fun x => x.id ≠ a.session)
    (∀ level, s.time.now ≤ k.since + 10 ^ 9 → s.grant k.hello a = some level → s.sessions.length < 16 →
      ∃ t, exec (.auth a) s = .next t ∧ t.shakes = left ∧
        t.sessions = s.sessions ++ [{ id := k.id, level := level, module := k.hello.module, lastUse := s.time.now
                                      openedAt := s.time.now, outSeq := 2 }] ∧
        t.sent = s.sent ++ [{ kind := .authOk, dest := k.id, words := [BitVec.ofNat 64 level] }] ∧
        t.reg (bHly + 0x100) = s.reg (bHly + 0x100) + 1) ∧
    (s.time.now ≤ k.since + 10 ^ 9 → (s.grant k.hello a = none ∨ 16 ≤ s.sessions.length) →
      ∃ t, exec (.auth a) s = .next t ∧ t.shakes = left ∧ t.sessions = s.sessions ∧
        t.reg (bHly + 0x108) = s.reg (bHly + 0x108) + 1 ∧ bitAt (t.reg (bHly + 0x08)) 1 = true)) ∧
  (∀ (id : Nat) (s : State), exec (.handshakeTimeout id) s = .next { s with
    shakes := s.shakes.filter (fun x => !(x.id = id ∧ x.since + 10 ^ 9 ≤ s.time.now)) }) ∧
  (∀ (id : Nat) (s : State) (x : Session), s.sessionOf id = some x →
    (x.lastUse + 60 * 10 ^ 9 ≤ s.time.now → ∃ t, exec (.sessionIdleTimeout id) s = .next t ∧
      t.sessions = s.sessions.filter (fun y => y.id ≠ id) ∧ t.notes = s.notes.filter (fun n => n.session ≠ id) ∧
      bitAt (t.reg (bHly + 0x08)) 2 = true ∧ t.mem = s.mem) ∧
    (s.time.now < x.lastUse + 60 * 10 ^ 9 → exec (.sessionIdleTimeout id) s = .next s) ∧
    ((x.openedAt + day ≤ s.time.now ∨ 2 ^ 32 < x.outSeq) → ∃ t, exec (.sessionLimitExpiry id) s = .next t ∧
      t.sessions = s.sessions.filter (fun y => y.id ≠ id) ∧
      ∃ y ∈ t.sent, y.kind = .notification ∧ y.dest = id ∧ y.code = 0x05 ∧ y.status = 0x0A) ∧
    (s.time.now < x.openedAt + day → x.outSeq ≤ 2 ^ 32 → exec (.sessionLimitExpiry id) s = .next s))

/-- R464, R466, R471, R507, R523: a notification without an acknowledgement leaves again, sixteen times, and is then
dropped; an acknowledgement in its turn removes it. A masthead's request without an answer leaves again to the other
address, four sends in all; a member that answered none is missing. An answer removes the request; a step message that a
member refuses is recorded. -/
def Obligations.NotificationResult : Prop :=
  (∀ (n : Nat) (s : State) (o : Outgoing), s.notes[n]? = some o →
    (o.sends ≤ 16 → ∃ t, exec (.notifyRepeat n) s = .next t ∧ t.notes = s.notes.set n { o with sends := o.sends + 1 } ∧
      t.sent = s.sent ++ [{ kind := .notification, dest := o.session, code := o.code, words := o.words }] ∧ t.mem = s.mem) ∧
    (16 < o.sends → ∃ t, exec (.notifyRepeat n) s = .next t ∧ t.notes = s.notes.eraseIdx n ∧ t.sent = s.sent ∧
      bitAt (t.reg (bHly + 0x08)) 3 = true)) ∧
  (∀ (n : Nat) (s : State) (r : Outgoing), s.masthead.requests[n]? = some r →
    (r.sends < 4 → ∃ t, exec (.mastheadResend n) s = .next t ∧
      t.masthead.requests = s.masthead.requests.set n { r with sends := r.sends + 1 } ∧
      t.sent = s.sent ++ [{ kind := .mhRequest, dest := r.session, code := r.code, status := r.sends % 2, words := r.words }]) ∧
    (4 ≤ r.sends → exec (.mastheadResend n) s = .next (State.unreachable { s with
      masthead := { s.masthead with requests := s.masthead.requests.eraseIdx n } } r))) ∧
  (∀ (peer seq refSeq status : Nat) (s : State) (x : Session), s.sessionOf peer = some x →
    seq = x.received + 1 → x.highest < seq + 64 → x.repeats seq = false → x.early = [] → x.ahead = [] →
    ∃ t, exec (.halyardResponseReceived false peer seq refSeq status) s = .next t ∧
      t.notes = s.notes.filter (fun o => !(o.session = peer ∧ o.seq = refSeq)) ∧
      (t.sessionOf peer).map (fun y => y.received) = some seq ∧ t.mem = s.mem) ∧
  (∀ (peer seq refSeq status : Nat) (s : State) (r : Outgoing), s.listens = true →
    s.masthead.requests.find? (fun r => r.session = peer ∧ r.seq = refSeq) = some r → r.code ≠ 0x83 →
    ∃ t, exec (.halyardResponseReceived true peer seq refSeq status) s = .next t ∧
      t.masthead.requests = s.masthead.requests.filter (fun y => !(y.session = peer ∧ y.seq = refSeq)) ∧
      (status = 3 → 0x53 ≤ r.code → r.code ≤ 0x55 → ∃ b ∈ t.buffered, b.item.kind = 0x03 ∧ b.item.cls = 3))

/-- R515, R516, R528: an EVENT that a masthead has not had is acknowledged, counted once and taken in; one it has had is
acknowledged only. Each interval a module of a job sends its telemetry record to its masthead; a masthead's budget lowers
or raises the group's ceiling by one level. A wave of a staggered load gives its members the group's ceiling when its
millisecond has come. -/
def Obligations.MastheadResult : Prop :=
  (∀ (e : Env) (p : EventPayload) (s : State), s.mode.powered = true → s.isMasthead = true → e.good = true → e.seq ≠ 0 →
    let heard := kget [] s.masthead.heard e.session
    heard.foldl max 0 < e.seq + 64 →
    let ack : Sent := { kind := .acknowledgement, dest := e.session, code := 0x81, words := [BitVec.ofNat 64 e.seq] }
    (heard.contains e.seq = true → ∃ t, exec (.event e p) s = .next t ∧ t.masthead = s.masthead ∧
      t.sent = s.sent ++ [ack] ∧ t.reg (bMh + 0x100) = s.reg (bMh + 0x100)) ∧
    (heard.contains e.seq = false → ∃ x : State, x.sent = s.sent ++ [ack] ∧
      x.masthead = { s.masthead with heard := kput s.masthead.heard e.session ((e.seq :: heard).take 64) } ∧
      x.reg (bMh + 0x100) = s.reg (bMh + 0x100) + 1 ∧
      exec (.event e p) s = .next (match p with
        | .entry k i => x.intake k i
        | .record k ws => x.takeRecord k ws))) ∧
  (∀ (t : TelemSample) (s : State), (s.mode = .loaded ∨ s.mode = .running ∨ s.mode = .halted) →
    let u : State := { s with telemSeq := if s.step.job then s.telemSeq + 1 else 0 }
    (s.isMasthead = false → exec (.telemetryInterval t) s =
      .next (u.notifyWhere (fun x => x.level == 3) 0x81 (u.ownRecord t))) ∧
    (s.isTop = true → s.isMasthead = true → exec (.telemetryInterval t) s = .next (u.budgetStep (u.ownRecord t))) ∧
    (s.isTop = false → s.isMasthead = true → exec (.telemetryInterval t) s =
      .next ((u.notifyWhere (fun x => x.level == 3) 0x81 (aggregateOf (u.ownRecord t) u.groupRecords)).budgetStep
        (u.ownRecord t)))) ∧
  (∀ (own : List Word) (s : State), s.rfld bMh 63 32 ≠ 0 →
    let sum := sumField (own :: s.groupRecords) 2 63 32
    (s.budgetStep own).masthead.ceiling =
      if s.rfld bMh 63 32 < sum then s.masthead.ceiling - 1
      else if sum * 100 < s.rfld bMh 63 32 * 95 then min 16 (s.masthead.ceiling + 1) else s.masthead.ceiling) ∧
  (∀ (wave : Fin 8) (s : State) (t0 : Nat), s.masthead.stagger = some (t0, wave.val) →
    (t0 + wave.val * 1000000 ≤ s.time.now → ∃ t, exec (.loadStaggerWave wave) s = .next t ∧
      t.masthead.stagger = (if wave.val = 7 then none else some (t0, wave.val + 1)) ∧
      (s.moduleNo ∈ s.groupModules.filter (fun k => k % 8 = wave.val) →
        t.rfld (bPower + 0x08) 4 0 = s.masthead.ceiling % 32) ∧ t.mem = s.mem) ∧
    (s.time.now < t0 + wave.val * 1000000 → exec (.loadStaggerWave wave) s = .next s))

/-! ## The training step -/

/-- R417, R422, R434, R438, R444, R445, R562: what opening, closing and rolling back a step leaves: the step's state, number
and block, the contexts and the counts. -/
def Obligations.StepTransitions : Prop :=
  (∀ (accum ls : Nat) (s : State), accum < 65536 → ls < 2 ^ 32 →
    let t := s.openStep accum ls
    t.stepState = 2 ∧ t.stepNow = s.stepNow ∧
      t.step.block = { s.step.block with step := s.stepNow, accum := accum, lossScale := ls } ∧
      t.step.copy = some t.step.block ∧ t.step.phase = 0 ∧ t.rfld (bTell + 8) 63 48 = accum ∧
      t.rfld (bTell + 8) 47 16 = ls ∧ t.mem = s.mem) ∧
  (∀ (skipped : Bool) (s : State),
    let t := s.closeStep skipped
    t.stepState = 1 ∧ t.stepNow = s.stepNow + 1 ∧ t.reg (bTell + 0x10) = s.stepNow ∧
      t.step.block = closedBlock s.step.block s.lsInterval skipped ∧ t.rfld (bTell + 8) 15 8 = 0 ∧
      t.reg (bTell + 0x100) = s.reg (bTell + 0x100) + 1 ∧ bitAt (t.reg (bTell + 0x20)) 0 = true ∧
      (skipped = true → bitAt (t.reg (bTell + 0x20)) 5 = true) ∧ t.mem = s.mem ∧ t.ctxs = s.ctxs) ∧
  (∀ (b : JobBlock) (interval : Nat) (skipped : Bool),
    (closedBlock b interval skipped).step = b.step + 1 ∧
    (closedBlock b interval skipped).cursor = b.cursor + BitVec.ofNat 64 b.accum ∧
    (interval ≠ 0 → skipped = true → (closedBlock b interval skipped).lossScale = halfScale b.lossScale)) ∧
  (∀ (step : Word) (s : State),
    let t := s.rollbackStep step
    t.stepState = 1 ∧ t.stepNow = step ∧ t.step.block = s.step.copy.getD s.step.block ∧ t.tackle = [] ∧ t.ops = [] ∧
      t.hoists = [] ∧ t.reg (bTell + 0x108) = s.reg (bTell + 0x108) + 1 ∧
      t.rfld (bTell + 8) 15 8 = min 255 (s.rfld (bTell + 8) 15 8 + 1) ∧
      (∀ c, ((s.ctx c).cls = 2 ∨ (s.ctx c).cls = 3) → (s.ctx c).state ≠ 0 → (t.ctx c).state = 1) ∧ t.mem = s.mem) ∧
  (∀ s : State, s.stepSkew.step = s.step ∧ s.stepSkew.mem = s.mem ∧ s.stepSkew.ctxs = s.ctxs ∧
    s.stepSkew.reg (bTell + 0x110) = s.reg (bTell + 0x110) + 1 ∧ bitAt (s.stepSkew.reg (bTell + 0x20)) 2 = true ∧
    ∃ b ∈ s.stepSkew.buffered, b.item.kind = 0x03 ∧ b.item.cls = 1)

/-- R424, R431–R433, R435, R438, R440, R479: at its boundary a module checks its engines, ends unconfirmed hoists, closes its
windows, clears its counters, sends its step record, and its close notice once that has been acknowledged. A masthead takes
each reporter's notice once; with every one, or when the wait has passed, it settles the step. The end of the release
phase sends one RELEASE notice of the step. R423, R441: what a module writes to the first 256 B of a gradient shard's region is
the header of the shard, with the noise statistics of its group and the CRC of the bytes exported. -/
def Obligations.StepBoundaryResult : Prop :=
  (∀ (checks : List CheckFail) (s : State), s.mode = .running → s.step.atBoundary = true →
    s.isOpen s.stepNow = true → s.stepState = 2 → s.step.noticeDue = false →
    exec (.stepBoundary checks) s = .next (s.boundary checks).tryNotice ∧
    (s.boundary checks).stepState = 3 ∧ (s.boundary checks).tackle = [] ∧ (s.boundary checks).ops = [] ∧
    (s.boundary checks).hoists = [] ∧ (s.boundary checks).step.noticeDue = true) ∧
  (∀ (checks : List CheckFail) (s : State), s.step.noticeDue = true → exec (.stepBoundary checks) s = .next s.tryNotice) ∧
  (∀ s : State, s.step.noticeDue = true → s.isMasthead = false →
    (s.step.recDue = [] → s.step.recWait = 0 → (s.shardsDone = true ∨ s.exporting = false) →
      s.tryNotice = State.scalarMsg { s with step := { s.step with noticeDue := false } } .closeNotice s.myMasthead
        s.noticeWords) ∧
    ((s.step.recDue ≠ [] ∨ s.step.recWait ≠ 0) → s.tryNotice = s)) ∧
  (∀ (n : Notice) (s : State), s.isMasthead = true → s.isOpen n.step = true → s.masthead.settled = false →
    s.reporters.contains n.member = true →
    let u : State := { s with masthead := { s.masthead with
      notices := s.masthead.notices.filter (fun x => x.member ≠ n.member) ++ [n]
      noticeAt := some (s.masthead.noticeAt.getD s.time.now) } }
    exec (.closeNotice n) s = .next (if s.reporters.all (fun r => u.masthead.notices.any (fun x => x.member = r)) then
      u.settleNotices else u)) ∧
  (∀ (s : State) (t0 : Nat), s.masthead.noticeAt = some t0 → s.isMasthead = true → s.masthead.settled = false →
    (t0 + s.policy 42 27 * 1000000 ≤ s.time.now → exec .closeWaitExpiry s = .next s.settleNotices) ∧
    (s.time.now < t0 + s.policy 42 27 * 1000000 → exec .closeWaitExpiry s = .next s)) ∧
  (∀ s : State,
    (s.releaseDue = true → s.isMasthead = false → ∃ t, exec (.releaseNotice none) s = .next t ∧ t.step.released = true ∧
      t.reg (bTell + 0x18) = s.stepNow ∧
      ∃ y ∈ t.sent, y.kind = .releaseNotice ∧ y.dest = s.myMasthead ∧ y.words = [s.stepNow, BitVec.ofNat 64 s.moduleNo]) ∧
    (s.releaseDue = false → exec (.releaseNotice none) s = .next s) ∧
    (∀ k step, s.isMasthead = true → s.isOpen step = true → s.reporters.contains k = true →
      s.masthead.releases.contains k = false →
      ∃ t, exec (.releaseNotice (some (k, step))) s = .next t ∧ t.masthead.releases = s.masthead.releases ++ [k])) ∧
  (∀ (k va : Nat) (e : List Word) (bs : List PByte) (s : State), s.shards.find? (fun x => x.1 = k) = some (k, e) →
    s.shardAt va = some k → bs.length = 256 →
    let h := s.shardHeader k
    s.headerOr va bs = plain (wordsBytes h) ∧ h.length = 32 ∧ wd h 0 = s.stepNow ∧ wfld h 1 63 48 = wfld e 0 63 48 ∧
      wfld h 1 47 40 = wfld e 0 47 40 ∧ wfld h 1 39 24 = s.moduleNo ∧ wfld h 1 23 8 = s.step.block.accum % 65536 ∧
      wfld h 1 7 0 = 0 ∧ wd h 2 = wd e 2 ∧ wfld h 3 47 0 = 0 ∧
      wd h 4 = BitVec.ofNat 64 (sumOf (tallyCodes [] ((List.range s.step.block.accum).map
        (fun m => s.microSquare (wfld e 0 47 40) m)))) ∧
      wd h 5 = BitVec.ofNat 64 (s.sqShard k (wd e 2).toNat) ∧
      wfld h 6 63 32 = (crc32c (s.shardBytes k (wd e 2).toNat)).toNat ∧ wfld h 6 31 0 = 0 ∧
      (∀ i, 7 ≤ i → wd h i = 0))

/-- R343, R364–R368, R386, R417, R508: a load whose first failing check is `x` is refused: its check and code stand in
RIG_REFUSAL, it is counted and answered, and nothing of the resident state changes; one that passes makes the module LOADED
with the image resident and answers 0. A job start whose exchanges agree makes the module RUNNING with the block's step
current; any other is answered with its status and starts nothing. -/
def Obligations.LoadAndStartResult : Prop :=
  (∀ (v : LoadVerdict) (s : State) (l : Load), s.load = some l →
    let code := if l.cached then 0x31 else 0x30
    (∀ x, s.loadFail l v = some x → ∃ t, exec (.rigLoadComplete v) s = .next t ∧ t.load = none ∧ t.mode = s.mode ∧
      t.image = s.image ∧ t.ctxs = s.ctxs ∧ t.mem = s.mem ∧
      t.reg (bRig + 0x08) = packWord [(56, x.2.1), (48, x.1), (32, x.2.2.1), (0, x.2.2.2 % 2 ^ 32)] ∧
      t.reg (bRig + 0x108) = s.reg (bRig + 0x108) + 1 ∧ bitAt (t.reg (bRig + 0x50)) 1 = true ∧
      ∃ y ∈ t.sent, y.kind = .response ∧ y.dest = l.env.session ∧ y.code = code ∧ y.status = refusalStatus x.2.1) ∧
    (s.loadFail l v = none → ∃ t, exec (.rigLoadComplete v) s = .next t ∧ t.mode = .loaded ∧ t.load = none ∧
      (t.image.map (fun g => g.digest)) = some (imageDigest l.image) ∧
      t.reg (bRig + 0x100) = s.reg (bRig + 0x100) + 1 ∧
      ∃ y ∈ t.sent, y.kind = .response ∧ y.dest = l.env.session ∧ y.code = code ∧ y.status = 0)) ∧
  (∀ (v : LoadVerdict) (s : State), s.load = none → exec (.rigLoadComplete v) s = .next s) ∧
  (∀ (r : JobCheck) (s : State) (e : Env) (restored : Option JobBlock), s.step.pendingStart = some (e, restored) →
    let b := restored.getD s.firstBlock
    (s.startStatus r b = 0 → s.mode = .loaded → ∃ t, exec (.jobStartCheck r) s = .next t ∧ t.mode = .running ∧
      t.step.job = true ∧ t.stepNow = b.step ∧ t.stepState = 1 ∧ t.reg (bTell + 0x10) = b.step - 1 ∧ t.mem = s.mem) ∧
    (s.startStatus r b ≠ 0 → ∃ t, exec (.jobStartCheck r) s = .next t ∧ t.mode = s.mode ∧
      t.step.job = s.step.job ∧ t.step.pendingStart = none ∧ t.stepNow = s.stepNow ∧ t.mem = s.mem ∧
      ∃ y ∈ t.sent, y.kind = .response ∧ y.dest = e.session ∧ y.code = 0x40 ∧ y.status = s.startStatus r b))

/-! ## The ledger, plumb runs, the enrolment window -/

/-- R487–R489, R497, R499, R551: an entry due is written: the newest of the ledger, with the next SEQ and the digest of the
one before it; an absorbed entry waits for the end of its second. A plumb unit that may run takes its cores' results, each
kept where it is worse than what the run holds of its core, with what each does at once, and goes on to the next group, rail
step or run whatever they are; a unit that may not run is abandoned. The enrolment window of a READY module opens for 600 s on
0xA5 and closes when they are over. -/
def Obligations.LedgerResult : Prop :=
  (∀ (n : Nat) (s : State) (e : LedgerItem) (due : Nat), s.buffered[n]? = some ⟨e, some due⟩ → s.mode.powered = true →
    (due ≤ s.time.now → ∃ t, exec (.ledgerCoalesceExpiry n) s = .next t ∧
      t.flash.ledger = ringPush s.flash.ledger (s.flash.stamp e) ∧
      (∃ x, t.buffered = s.buffered.eraseIdx n ++ x) ∧
      t.reg (bFault + 0x118) = s.reg (bFault + 0x118) + 1 ∧ t.mem = s.mem) ∧
    (s.time.now < due → exec (.ledgerCoalesceExpiry n) s = .next s)) ∧
  (∀ (n : Nat) (s : State) (e : LedgerItem), s.buffered[n]? = some ⟨e, none⟩ →
    (∀ j, j < n → ∀ b, s.buffered[j]? = some b → b.closes.isSome = true) → s.mode.powered = true →
    ∃ t, exec .ledgerEntryWritten s = .next t ∧ t.flash.ledger = ringPush s.flash.ledger (s.flash.stamp e) ∧
      (∃ x, t.buffered = s.buffered.eraseIdx n ++ x) ∧
      t.reg (bFault + 0x118) = s.reg (bFault + 0x118) + 1 ∧ t.mem = s.mem) ∧
  (∀ s : State, (∀ b ∈ s.buffered, b.closes.isSome = true) → exec .ledgerEntryWritten s = .next s) ∧
  (∀ (f : Flash) (p e : LedgerItem), f.ledger.getLast? = some p →
    (f.stamp e).seq = p.seq + 1 ∧ (f.stamp e).prev = ofLeBytes ((ledgerDigest p).take 8) ∧
    (f.stamp e).kind = e.kind ∧ (f.stamp e).detail0 = e.detail0) ∧
  (∀ (r : PlumbUnit) (s : State) (p : Plumb), s.plumb = some p →
    let xs := r.results.filter (fun x => (plumbGroup p.field p.group).contains x.1.val && !s.fenced x.1)
    let u := xs.foldl (fun t x => t.plumbCore x.1 x.2) s
    let q := p.take xs
    (s.unitMayRun p = true → p.group < 3 →
      exec (.plumbUnitDone r) s = .next { u with plumb := some { q with group := p.group + 1 } }) ∧
    (s.unitMayRun p = true → 3 ≤ p.group → p.step < 2 →
      exec (.plumbUnitDone r) s = .next { u with plumb := some { q with group := 0, step := p.step + 1 } }) ∧
    (s.unitMayRun p = true → 3 ≤ p.group → 2 ≤ p.step → ∃ t, exec (.plumbUnitDone r) s = .next t ∧
      t.plumb = (if p.left ≤ 1 then none else some { p with left := p.left - 1, step := 0, group := 0, results := [] }) ∧
      t.rfld (bFault + 0x20) 63 48 = (u.rfld (bFault + 0x20) 63 48 + 1) % 65536 ∧
      t.rfld (bFault + 0x20) 47 32 = (u.rfld (bFault + 0x20) 47 32 + (q.results.filter (fun x => x.2 = 1)).length) % 65536 ∧
      t.mem = u.mem) ∧
    (s.unitMayRun p = false → exec (.plumbUnitDone r) s = .next s)) ∧
  (∀ (r : PlumbUnit) (s : State), s.plumb = none → exec (.plumbUnitDone r) s = .next s) ∧
  (∀ (p : Plumb) (xs : List (Fin 128 × PlumbResult)) (n : Fin 128) (r : PlumbResult),
    kget 0 (p.take (xs ++ [(n, r)])).results n = max (kget 0 (p.take xs).results n) (resultCode r) ∧
    ∀ m, m ≠ n.val → kget 0 (p.take (xs ++ [(n, r)])).results m = kget 0 (p.take xs).results m) ∧
  (∀ (n : Fin 128) (s : State),
    s.plumbCore n .pass = s ∧
    (s.plumbCore n .stressOnly = { s with regs := (s.plumbCore n .stressOnly).regs } ∧
      bitAt ((s.plumbCore n .stressOnly).reg (bFault + 0x08)) 6 = true) ∧
    (s.plumbCore n .nominal).fenced n = true ∧ (s.plumbCore n (.lost false)).fenced n = true ∧
    ∀ m, m < 786432 → kget 0 (s.plumbCore n (.lost true)).sramErr (sramKey 1 n m) =
      if (s.ownedWords n).contains m then sramPoison else 0) ∧
  (∀ (v : Byte) (s : State),
    (s.mode = .ready → v = 0xA5 → exec (.enrollWindowOpen v) s = .next { s with enrollUntil := s.time.now + 600000000000 }) ∧
    ((s.mode ≠ .ready ∨ v ≠ 0xA5) → exec (.enrollWindowOpen v) s = .next s) ∧
    (s.enrollUntil ≤ s.time.now → exec .enrollWindowExpiry s = .next { s with enrollUntil := 0 }) ∧
    (s.time.now < s.enrollUntil → exec .enrollWindowExpiry s = .next s))

/-! ## Numbers -/

/-- R80: the result of an element of an order-free sum with special contributions, by their marks alone, whatever the
integer sum and the exponent are. -/
def Obligations.SpecialSumResult : Prop :=
  ∀ (l : Layout) (vs : List Machine.Num) (emax : Option Int) (sum : Int),
    let mark := (vs.map specialOf).foldl specialJoin 0
    let nan := vs.any Machine.Num.isNan
    let pinf := vs.any (fun v => v.isInf && !v.sign)
    let ninf := vs.any (fun v => v.isInf && v.sign)
    ((nan = true ∨ (pinf = true ∧ ninf = true)) → (finalSum l emax sum mark).1 = l.defaultNaN) ∧
    (nan = false → pinf = true → ninf = false → (finalSum l emax sum mark).1 = l.infBits false) ∧
    (nan = false → pinf = false → ninf = true → (finalSum l emax sum mark).1 = l.infBits true) ∧
    (nan = false → pinf = false → ninf = false → mark = 0)

/-- R68: a K block whose exact sum is the integer zero, no special value and no NaN scale in it, folds as +0, whatever the
signs of its zero products; the accumulator of a pass with nothing preloaded starts at +0. -/
def Obligations.ZeroBlockSum : Prop :=
  (∀ (fa fb : Fmt) (acc : Nat) (ab : List (Elem × Elem)),
    (∀ p ∈ ab, (fa.isMx = true → p.1.scale ≠ 0xFF) ∧ (fb.isMx = true → p.2.scale ≠ 0xFF) ∧
      ((fa.decode p.1.code).mul (fb.decode p.2.code)).isFin = true) →
    (ab.map (fun p => (((fa.decode p.1.code).mul (fb.decode p.2.code)).scale 48).toInt)).foldl (· + ·) 0 = 0 →
    ∃ e, blockStep fa fb acc ab = layout32.rne ((layout32.decode acc).add (.fin false 0 e))) ∧
  (∀ (p : Pass) (cell : Nat), p.pre = [] → p.start cell = 0) ∧ layout32.decode 0 = .fin false 0 (-149)

/-! ## Every command, every state -/

/-- A step takes the command at the front of the queue and executes it on the state with the rest of the queue. With no
command waiting it lets module time pass while the module is powered: one TCLK of R519, and PPS_OUT falls 100 ms after its
second boundary (R522); that the time passes there is the model's choice (log entry 6). -/
def Obligations.StepRunsFrontCommand : Prop :=
  (∀ (c : Instr) (r : List Instr) (s : State), step { s with pending := c :: r } = exec c { s with pending := r }) ∧
  (∀ s : State, s.pending = [] →
    (s.mode = .off → step s = .next s) ∧
    (s.mode ≠ .off → ∃ t, step s = .next t ∧ t.time = s.time.tick ∧
      t.pins.ppsOut = (s.pins.ppsOut && decide ({ s with time := s.time.tick }.ptpTime % 10 ^ 9 < 10 ^ 8)) ∧
      t = { s with time := t.time, pins := { s.pins with ppsOut := t.pins.ppsOut } }))

/-- R12, R32, R37: right after power-on every register reads its reset value, the module is POWERING with no cause, no
command waits, and no context, image, session, ledger entry or byte of memory stands. The values that the spec does not
give are the model's (log entries 2 to 5). -/
def Obligations.ResetState : Prop :=
  (∀ o, State.reset.reg o = regReset o) ∧
  (∀ o r, regSpec o = some r → State.reset.reg o = BitVec.ofNat 64 r.reset) ∧
  (∀ a n, State.reset.bytes a n = List.replicate n 0) ∧
  State.reset.mode = .powering ∧ State.reset.cause = 0 ∧ State.reset.pending = [] ∧ State.reset.image = none ∧
  (∀ c, (State.reset.ctx c).state = 0) ∧ (∀ n, n < 128 → State.reset.fenced n = false) ∧
  State.reset.sessions = [] ∧ State.reset.notes = [] ∧ State.reset.buffered = [] ∧ State.reset.flash.ledger = [] ∧
  State.reset.step.job = false ∧ State.reset.tackle = [] ∧ State.reset.enrollUntil = 0 ∧
  State.reset.pins.faultN = true

/-- What every step keeps holds right after power-on. -/
def Obligations.ResetInv : Prop := State.reset.Inv

/-- Every command completes in every state: it answers a next state, and leaves the queue of waiting commands alone. -/
def Obligations.EveryCommandCompletes : Prop :=
  ∀ (c : Instr) (s : State), ∃ t, exec c s = .next t ∧ t.pending = s.pending

/-- R12, R487, R535, R557: every step keeps memory and registers in canonical form, FAULT_N low exactly in FAULTED, the ledger
a chain of SEQ and PREV, and the enrolment window open in READY only. -/
def Obligations.StepKeepsInv : Prop :=
  ∀ s t : State, s.Inv → step s = .next t → t.Inv
end

