-- ==== Sys2Proof/Laws/Digest.lean ====
section
/-! SUPPORT. SHA-384 on whole words is SHA-384 of their bytes. -/
namespace Sys2Proof.Machine

theorem leBytes_length (n x : Nat) : (leBytes n x).length = n := by
  induction n generalizing x with
  | zero => rfl
  | succ n ih => simp [leBytes, ih]

theorem ofLeBytes_leBytes (n x : Nat) : ofLeBytes (leBytes n x) = x % 256 ^ n := by
  induction n generalizing x with
  | zero => simp [leBytes, ofLeBytes, Nat.mod_one]
  | succ n ih =>
    rw [leBytes, ofLeBytes, ih, BitVec.toNat_ofNat, Nat.mod_mod, Nat.pow_succ, Nat.mul_comm (256 ^ n), Nat.mod_mul]

theorem leBytes_append (n m x : Nat) : leBytes (n + m) x = leBytes n x ++ leBytes m (x / 256 ^ n) := by
  induction n generalizing x with
  | zero => simp [leBytes]
  | succ n ih =>
    rw [show n + 1 + m = n + m + 1 by omega, leBytes, leBytes, ih, Nat.div_div_eq_div_mul, Nat.pow_succ, Nat.mul_comm 256]
    rfl

theorem ofBeBytes_reverse (bs : List Byte) : ofBeBytes bs.reverse = ofLeBytes bs := by
  unfold ofBeBytes
  rw [List.foldl_reverse]
  induction bs with
  | nil => rfl
  | cons b bs ih => rw [List.foldr_cons, ih, ofLeBytes]; omega

theorem beWords_append (n : Nat) (bs rest : List Byte) (h : bs.length = 8) :
    beWords (n + 1) (bs ++ rest) = ofBeBytes bs :: beWords n rest := by
  rw [beWords, List.take_append_of_le_length (by omega), List.drop_append_of_le_length (by omega),
    List.take_of_length_le (by omega), List.drop_of_length_le (by omega), List.nil_append]

theorem beWords_words (ws : List Word) (n : Nat) (rest : List Byte) :
    beWords (ws.length + n) (wordsBytes ws ++ rest) = ws.map beOf ++ beWords n rest := by
  induction ws with
  | nil => simp [wordsBytes]
  | cons w ws ih =>
    rw [show (w :: ws).length + n = ws.length + n + 1 by simp only [List.length_cons]; omega,
      show wordsBytes (w :: ws) ++ rest = leBytes 8 w.toNat ++ (wordsBytes ws ++ rest) by simp [wordsBytes],
      beWords_append _ _ _ (leBytes_length 8 _), ih]
    rfl

theorem beWords_zeros (k n : Nat) (rest : List Byte) :
    beWords (k + n) (List.replicate (8 * k) 0 ++ rest) = List.replicate k 0 ++ beWords n rest := by
  induction k with
  | zero => simp
  | succ k ih =>
    rw [show 8 * (k + 1) = 8 + 8 * k by omega, ← List.replicate_append_replicate, List.append_assoc,
      show k + 1 + n = k + n + 1 by omega, beWords_append _ _ _ (List.length_replicate ..), ih]
    rfl

theorem beWords_length (x : Nat) :
    beWords 2 (leBytes 16 x).reverse = [x / shaWord % shaWord, x % shaWord] := by
  have h := leBytes_append 8 8 x
  rw [h, List.reverse_append, ← List.append_nil (leBytes 8 x).reverse,
    beWords_append _ _ _ (by rw [List.length_reverse, leBytes_length]),
    beWords_append _ _ _ (by rw [List.length_reverse, leBytes_length]), ofBeBytes_reverse, ofBeBytes_reverse,
    ofLeBytes_leBytes, ofLeBytes_leBytes]
  rfl

theorem wordsBytes_length (ws : List Word) : (wordsBytes ws).length = 8 * ws.length := by
  induction ws with
  | nil => rfl
  | cons w ws ih =>
    rw [show wordsBytes (w :: ws) = leBytes 8 w.toNat ++ wordsBytes ws by simp [wordsBytes], List.length_append,
      leBytes_length, ih, List.length_cons]
    omega

/-- The padding of a message of whole words, by the number of its zero words. -/
theorem shaPad_words (ws : List Word) :
    let k := (16 - (ws.length + 3) % 16) % 16
    shaPad (wordsBytes ws) =
      wordsBytes ws ++ ([0x80, 0, 0, 0, 0, 0, 0, 0] ++ (List.replicate (8 * k) 0 ++ (leBytes 16 (64 * ws.length)).reverse)) := by
  intro k
  have hz : (128 - (8 * ws.length + 17) % 128) % 128 = 7 + 8 * k := by omega
  simp only [shaPad, wordsBytes_length, hz, ← List.replicate_append_replicate, List.append_assoc,
    show 8 * (8 * ws.length) = 64 * ws.length by omega]
  rfl

/-- `sha384Words` is SHA-384 of the words' bytes. -/
theorem sha384_words (ws : List Word) : sha384 (wordsBytes ws) = sha384Words ws := by
  have hp := shaPad_words ws
  simp only at hp
  have hn : (shaPad (wordsBytes ws)).length / 8 = ws.length + (1 + ((16 - (ws.length + 3) % 16) % 16 + 2)) := by
    simp only [hp, List.length_append, wordsBytes_length, List.length_replicate, List.length_reverse, leBytes_length,
      List.length_cons, List.length_nil]
    omega
  have hw : beWords ((shaPad (wordsBytes ws)).length / 8) (shaPad (wordsBytes ws)) =
      ws.map beOf ++ [2 ^ 63] ++ List.replicate ((16 - (ws.length + 3) % 16) % 16) 0 ++
        [64 * ws.length / shaWord % shaWord, 64 * ws.length % shaWord] := by
    rw [hn, hp, beWords_words, Nat.add_comm 1, beWords_append _ _ _ rfl, beWords_zeros, beWords_length]
    simp [ofBeBytes]
  have hl : (shaPad (wordsBytes ws)).length / 128 = (ws.map beOf ++ [2 ^ 63] ++
      List.replicate ((16 - (ws.length + 3) % 16) % 16) 0 ++
        [64 * ws.length / shaWord % shaWord, 64 * ws.length % shaWord]).length / 16 := by
    simp only [hp, List.length_append, wordsBytes_length, List.length_replicate, List.length_reverse, leBytes_length,
      List.length_cons, List.length_nil, List.length_map]
    omega
  simp only [sha384, sha384Words, shaMessage]
  rw [hl, hw]

/-- SHA-384 goes on from the hash words of the blocks before. -/
theorem shaBlocks_add (a b : Nat) (ws h : List Nat) :
    shaBlocks (a + b) ws h = shaBlocks b (ws.drop (16 * a)) (shaBlocks a ws h) := by
  induction a generalizing ws h with
  | zero => simp [shaBlocks]
  | succ a ih =>
    rw [show a + 1 + b = a + b + 1 by omega, shaBlocks, shaBlocks, ih, List.drop_drop]
    congr 2
    omega

end Sys2Proof.Machine
end

