-- ==== Sys2Proof/Laws/Store.lean ====
section
/-! SUPPORT. Laws of sparse maps: reading after writing, and that every operation keeps the canonical form. -/
namespace Sys2Proof.Machine

variable {α : Type}

theorem kget_kput_same (d : α) (m : KMap α) (k : Nat) (v : α) : kget d (kput m k v) k = v := by
  induction m with
  | nil => simp [kput, kget]
  | cons p r ih =>
    obtain ⟨k', v'⟩ := p
    simp only [kput]
    split
    · simp [kget]
    · split
      · simp [kget]
      · rename_i h; simp [kget, h, ih]

theorem kget_kput_ne (d : α) (m : KMap α) {k j : Nat} (v : α) (h : j ≠ k) :
    kget d (kput m k v) j = kget d m j := by
  induction m with
  | nil => simp [kput, kget, h]
  | cons p r ih =>
    obtain ⟨k', v'⟩ := p
    simp only [kput]
    split
    · simp [kget, h]
    · split
      · rename_i e; subst e; simp [kget, h]
      · simp [kget, ih]

theorem kget_kdel_same (d : α) (m : KMap α) (k : Nat) : kget d (kdel m k) k = d := by
  induction m with
  | nil => rfl
  | cons p r ih =>
    obtain ⟨k', v'⟩ := p
    unfold kdel at ih ⊢
    simp only [ne_eq, decide_not] at ih ⊢
    by_cases e : k' = k
    · simp [e, ih]
    · simp [e, kget, Ne.symm e, ih]

theorem kget_kdel_ne (d : α) (m : KMap α) {k j : Nat} (h : j ≠ k) : kget d (kdel m k) j = kget d m j := by
  induction m with
  | nil => rfl
  | cons p r ih =>
    obtain ⟨k', v'⟩ := p
    unfold kdel at ih ⊢
    simp only [ne_eq, decide_not] at ih ⊢
    by_cases e : k' = k
    · subst e; simp [kget, h, ih]
    · simp [e, kget, ih]

theorem kget_kset_same [DecidableEq α] (d : α) (m : KMap α) (k : Nat) (v : α) : kget d (kset d m k v) k = v := by
  unfold kset
  split
  · rename_i h; rw [kget_kdel_same, h]
  · exact kget_kput_same d m k v

theorem kget_kset_ne [DecidableEq α] (d e : α) (m : KMap α) {k j : Nat} (v : α) (h : j ≠ k) :
    kget d (kset e m k v) j = kget d m j := by
  unfold kset
  split
  · exact kget_kdel_ne d m h
  · exact kget_kput_ne d m v h

theorem kget_kset [DecidableEq α] (d : α) (m : KMap α) (k j : Nat) (v : α) :
    kget d (kset d m k v) j = if j = k then v else kget d m j := by
  split
  · rename_i h; rw [h, kget_kset_same]
  · rename_i h; exact kget_kset_ne d d m v h

theorem kget_kmod_same [DecidableEq α] (d : α) (m : KMap α) (k : Nat) (f : α → α) :
    kget d (kmod d m k f) k = f (kget d m k) := kget_kset_same d m k _

theorem kget_kmod_ne [DecidableEq α] (d : α) (m : KMap α) {k j : Nat} (f : α → α) (h : j ≠ k) :
    kget d (kmod d m k f) j = kget d m j := kget_kset_ne d d m _ h

/-! ## The canonical form -/

theorem kabove_cons (b k : Nat) (v : α) (r : KMap α) : kabove b ((k, v) :: r) = (decide (b < k) && kabove b r) := rfl

theorem kabove_trans {a b : Nat} (m : KMap α) (h : a < b) (hm : kabove b m = true) : kabove a m = true := by
  unfold kabove at *
  rw [List.all_eq_true] at *
  intro p hp
  have := hm p hp
  simp only [decide_eq_true_eq] at *
  omega

theorem kabove_kput {b k : Nat} (m : KMap α) (v : α) (h : b < k) (hm : kabove b m = true) :
    kabove b (kput m k v) = true := by
  induction m with
  | nil => simp [kput, kabove, h]
  | cons p r ih =>
    obtain ⟨k', v'⟩ := p
    rw [kabove_cons, Bool.and_eq_true] at hm
    simp only [kput]
    split
    · simp [kabove_cons, h, hm]
    · split
      · rename_i e; subst e; simp [kabove_cons, hm]
      · simp [kabove_cons, hm.1, ih hm.2]

theorem ksorted_kput (m : KMap α) (k : Nat) (v : α) (hm : ksorted m = true) : ksorted (kput m k v) = true := by
  induction m with
  | nil => rfl
  | cons p r ih =>
    obtain ⟨k', v'⟩ := p
    have hm' : kabove k' r = true ∧ ksorted r = true := by simpa [ksorted] using hm
    simp only [kput]
    split
    · rename_i h
      have : kabove k ((k', v') :: r) = true := by
        simp [kabove_cons, h, kabove_trans r h hm'.1]
      simp [ksorted, this, hm']
    · split
      · rename_i e; subst e; simp [ksorted, hm']
      · rename_i h1 h2
        have : k' < k := by omega
        simp [ksorted, kabove_kput r v this hm'.1, ih hm'.2]

theorem kabove_filter {b : Nat} (m : KMap α) (p : Nat × α → Bool) (hm : kabove b m = true) :
    kabove b (m.filter p) = true := by
  unfold kabove at *
  rw [List.all_eq_true] at *
  intro x hx
  exact hm x (List.mem_filter.mp hx).1

theorem ksorted_filter (m : KMap α) (p : Nat × α → Bool) (hm : ksorted m = true) : ksorted (m.filter p) = true := by
  induction m with
  | nil => rfl
  | cons q r ih =>
    obtain ⟨k', v'⟩ := q
    have hm' : kabove k' r = true ∧ ksorted r = true := by simpa [ksorted] using hm
    rw [List.filter_cons]
    split
    · simp [ksorted, kabove_filter r p hm'.1, ih hm'.2]
    · exact ih hm'.2

theorem ksorted_kdel (m : KMap α) (k : Nat) (hm : ksorted m = true) : ksorted (kdel m k) = true :=
  ksorted_filter m _ hm

/-- A key and value that survive `filterMap` keep their key: the order stays. -/
theorem ksorted_filterMap {β : Type} (m : KMap α) (f : Nat × α → Option (Nat × β))
    (hf : ∀ p q, f p = some q → q.1 = p.1) (hm : ksorted m = true) : ksorted (m.filterMap f) = true := by
  have above : ∀ (b : Nat) (r : KMap α), kabove b r = true → kabove b (r.filterMap f) = true := by
    intro b r hr
    unfold kabove at *
    rw [List.all_eq_true] at *
    intro x hx
    obtain ⟨p, hp, hpx⟩ := List.mem_filterMap.mp hx
    rw [hf p x hpx]
    exact hr p hp
  induction m with
  | nil => rfl
  | cons q r ih =>
    have hm' : kabove q.1 r = true ∧ ksorted r = true := by simpa [ksorted] using hm
    rw [List.filterMap_cons]
    split
    · exact ih hm'.2
    · rename_i x hx
      have hk := hf q x hx
      simp only [ksorted, Bool.and_eq_true]
      exact ⟨by rw [hk]; exact above q.1 r hm'.1, ih hm'.2⟩

theorem mem_kput {m : KMap α} {k : Nat} {v : α} {p : Nat × α} (h : p ∈ kput m k v) : p = (k, v) ∨ p ∈ m := by
  induction m with
  | nil => simpa [kput] using h
  | cons q r ih =>
    obtain ⟨k', v'⟩ := q
    simp only [kput] at h
    split at h
    · simpa using h
    · split at h
      · rcases List.mem_cons.mp h with h | h
        · exact .inl h
        · exact .inr (List.mem_cons_of_mem _ h)
      · rcases List.mem_cons.mp h with h | h
        · exact .inr (h ▸ List.mem_cons_self)
        · rcases ih h with h | h
          · exact .inl h
          · exact .inr (List.mem_cons_of_mem _ h)

/-- A map whose keys all lie above `k` reads its default there. -/
theorem kget_above (d : α) (m : KMap α) {k : Nat} (h : kabove k m = true) : kget d m k = d := by
  induction m with
  | nil => rfl
  | cons q r ih =>
    obtain ⟨k', v'⟩ := q
    rw [kabove_cons, Bool.and_eq_true] at h
    have : k < k' := by simpa using h.1
    simp [kget, Nat.ne_of_lt this, ih h.2]

variable [DecidableEq α]

theorem kwf_nil (d : Nat → α) : kwf d ([] : KMap α) = true := rfl

theorem kwf_iff (d : Nat → α) (m : KMap α) : kwf d m = true ↔ ksorted m = true ∧ ∀ p ∈ m, p.2 ≠ d p.1 := by
  simp [kwf]

/-- Writing a value keeps the canonical form, whatever the default of the key. -/
theorem kwf_kset (d : Nat → α) (m : KMap α) (k : Nat) (v : α) (hm : kwf d m = true) :
    kwf d (kset (d k) m k v) = true := by
  rw [kwf_iff] at *
  unfold kset
  split
  · exact ⟨ksorted_kdel m k hm.1, fun p hp => hm.2 p (List.mem_filter.mp hp).1⟩
  · rename_i hv
    refine ⟨ksorted_kput m k v hm.1, fun p hp => ?_⟩
    rcases mem_kput hp with rfl | h
    · exact hv
    · exact hm.2 p h

theorem kwf_filter (d : Nat → α) (m : KMap α) (p : Nat × α → Bool) (hm : kwf d m = true) :
    kwf d (m.filter p) = true := by
  rw [kwf_iff] at *
  exact ⟨ksorted_filter m p hm.1, fun q hq => hm.2 q (List.mem_filter.mp hq).1⟩

end Sys2Proof.Machine
end

