-- ==== Sys2Proof/Laws/State.lean ====
section
/-! SUPPORT. One lemma per field and named update of the state: what the update leaves alone, and what it reads back. -/
namespace Sys2Proof.Machine.State

variable (s : State)

/-! ### `setReg` -/

@[simp] theorem setReg_pending (a : Nat) (v : Word) : (s.setReg a v).pending = s.pending := rfl
@[simp] theorem setReg_mode (a : Nat) (v : Word) : (s.setReg a v).mode = s.mode := rfl
@[simp] theorem setReg_cause (a : Nat) (v : Word) : (s.setReg a v).cause = s.cause := rfl
@[simp] theorem setReg_pins (a : Nat) (v : Word) : (s.setReg a v).pins = s.pins := rfl
@[simp] theorem setReg_power (a : Nat) (v : Word) : (s.setReg a v).power = s.power := rfl
@[simp] theorem setReg_time (a : Nat) (v : Word) : (s.setReg a v).time = s.time := rfl
@[simp] theorem setReg_mem (a : Nat) (v : Word) : (s.setReg a v).mem = s.mem := rfl
@[simp] theorem setReg_synd (a : Nat) (v : Word) : (s.setReg a v).synd = s.synd := rfl
@[simp] theorem setReg_sramErr (a : Nat) (v : Word) : (s.setReg a v).sramErr = s.sramErr := rfl
@[simp] theorem setReg_hurt (a : Nat) (v : Word) : (s.setReg a v).hurt = s.hurt := rfl
@[simp] theorem setReg_devWrites (a : Nat) (v : Word) : (s.setReg a v).devWrites = s.devWrites := rfl
@[simp] theorem setReg_chipCache (a : Nat) (v : Word) : (s.setReg a v).chipCache = s.chipCache := rfl
@[simp] theorem setReg_plains (a : Nat) (v : Word) : (s.setReg a v).plains = s.plains := rfl
@[simp] theorem setReg_stackUnits (a : Nat) (v : Word) : (s.setReg a v).stackUnits = s.stackUnits := rfl
@[simp] theorem setReg_cores (a : Nat) (v : Word) : (s.setReg a v).cores = s.cores := rfl
@[simp] theorem setReg_ctxs (a : Nat) (v : Word) : (s.setReg a v).ctxs = s.ctxs := rfl
@[simp] theorem setReg_walks (a : Nat) (v : Word) : (s.setReg a v).walks = s.walks := rfl
@[simp] theorem setReg_parks (a : Nat) (v : Word) : (s.setReg a v).parks = s.parks := rfl
@[simp] theorem setReg_cows (a : Nat) (v : Word) : (s.setReg a v).cows = s.cows := rfl
@[simp] theorem setReg_invals (a : Nat) (v : Word) : (s.setReg a v).invals = s.invals := rfl
@[simp] theorem setReg_hoists (a : Nat) (v : Word) : (s.setReg a v).hoists = s.hoists := rfl
@[simp] theorem setReg_hoistSeq (a : Nat) (v : Word) : (s.setReg a v).hoistSeq = s.hoistSeq := rfl
@[simp] theorem setReg_regions (a : Nat) (v : Word) : (s.setReg a v).regions = s.regions := rfl
@[simp] theorem setReg_image (a : Nat) (v : Word) : (s.setReg a v).image = s.image := rfl
@[simp] theorem setReg_load (a : Nat) (v : Word) : (s.setReg a v).load = s.load := rfl
@[simp] theorem setReg_tackle (a : Nat) (v : Word) : (s.setReg a v).tackle = s.tackle := rfl
@[simp] theorem setReg_ops (a : Nat) (v : Word) : (s.setReg a v).ops = s.ops := rfl

@[simp] theorem setReg_up (a : Nat) (v : Word) : (s.setReg a v).up = s.up := rfl
@[simp] theorem setReg_down (a : Nat) (v : Word) : (s.setReg a v).down = s.down := rfl
@[simp] theorem setReg_stays (a : Nat) (v : Word) : (s.setReg a v).stays = s.stays := rfl
@[simp] theorem setReg_ports (a : Nat) (v : Word) : (s.setReg a v).ports = s.ports := rfl
@[simp] theorem setReg_qps (a : Nat) (v : Word) : (s.setReg a v).qps = s.qps := rfl
@[simp] theorem setReg_opened (a : Nat) (v : Word) : (s.setReg a v).opened = s.opened := rfl
@[simp] theorem setReg_addrs (a : Nat) (v : Word) : (s.setReg a v).addrs = s.addrs := rfl
@[simp] theorem setReg_sessions (a : Nat) (v : Word) : (s.setReg a v).sessions = s.sessions := rfl
@[simp] theorem setReg_shakes (a : Nat) (v : Word) : (s.setReg a v).shakes = s.shakes := rfl
@[simp] theorem setReg_nextSession (a : Nat) (v : Word) : (s.setReg a v).nextSession = s.nextSession := rfl
@[simp] theorem setReg_notes (a : Nat) (v : Word) : (s.setReg a v).notes = s.notes := rfl
@[simp] theorem setReg_held (a : Nat) (v : Word) : (s.setReg a v).held = s.held := rfl
@[simp] theorem setReg_step (a : Nat) (v : Word) : (s.setReg a v).step = s.step := rfl
@[simp] theorem setReg_buffered (a : Nat) (v : Word) : (s.setReg a v).buffered = s.buffered := rfl
@[simp] theorem setReg_flash (a : Nat) (v : Word) : (s.setReg a v).flash = s.flash := rfl
@[simp] theorem setReg_masthead (a : Nat) (v : Word) : (s.setReg a v).masthead = s.masthead := rfl
@[simp] theorem setReg_plumb (a : Nat) (v : Word) : (s.setReg a v).plumb = s.plumb := rfl
@[simp] theorem setReg_enrollUntil (a : Nat) (v : Word) : (s.setReg a v).enrollUntil = s.enrollUntil := rfl
@[simp] theorem setReg_windows (a : Nat) (v : Word) : (s.setReg a v).windows = s.windows := rfl
@[simp] theorem setReg_telemSeq (a : Nat) (v : Word) : (s.setReg a v).telemSeq = s.telemSeq := rfl
@[simp] theorem setReg_sent (a : Nat) (v : Word) : (s.setReg a v).sent = s.sent := rfl
@[simp] theorem setReg_free (a : Nat) (v : Word) : (s.setReg a v).free = s.free := rfl

/-! ### `setBytes` -/

@[simp] theorem setBytes_pending (a : Nat) (bs : List Byte) : (s.setBytes a bs).pending = s.pending := rfl
@[simp] theorem setBytes_mode (a : Nat) (bs : List Byte) : (s.setBytes a bs).mode = s.mode := rfl
@[simp] theorem setBytes_cause (a : Nat) (bs : List Byte) : (s.setBytes a bs).cause = s.cause := rfl
@[simp] theorem setBytes_pins (a : Nat) (bs : List Byte) : (s.setBytes a bs).pins = s.pins := rfl
@[simp] theorem setBytes_power (a : Nat) (bs : List Byte) : (s.setBytes a bs).power = s.power := rfl
@[simp] theorem setBytes_time (a : Nat) (bs : List Byte) : (s.setBytes a bs).time = s.time := rfl
@[simp] theorem setBytes_regs (a : Nat) (bs : List Byte) : (s.setBytes a bs).regs = s.regs := rfl
@[simp] theorem setBytes_synd (a : Nat) (bs : List Byte) : (s.setBytes a bs).synd = s.synd := rfl
@[simp] theorem setBytes_sramErr (a : Nat) (bs : List Byte) : (s.setBytes a bs).sramErr = s.sramErr := rfl
@[simp] theorem setBytes_hurt (a : Nat) (bs : List Byte) : (s.setBytes a bs).hurt = s.hurt := rfl
@[simp] theorem setBytes_devWrites (a : Nat) (bs : List Byte) : (s.setBytes a bs).devWrites = s.devWrites := rfl
@[simp] theorem setBytes_chipCache (a : Nat) (bs : List Byte) : (s.setBytes a bs).chipCache = s.chipCache := rfl
@[simp] theorem setBytes_plains (a : Nat) (bs : List Byte) : (s.setBytes a bs).plains = s.plains := rfl
@[simp] theorem setBytes_stackUnits (a : Nat) (bs : List Byte) : (s.setBytes a bs).stackUnits = s.stackUnits := rfl
@[simp] theorem setBytes_cores (a : Nat) (bs : List Byte) : (s.setBytes a bs).cores = s.cores := rfl
@[simp] theorem setBytes_ctxs (a : Nat) (bs : List Byte) : (s.setBytes a bs).ctxs = s.ctxs := rfl
@[simp] theorem setBytes_walks (a : Nat) (bs : List Byte) : (s.setBytes a bs).walks = s.walks := rfl
@[simp] theorem setBytes_parks (a : Nat) (bs : List Byte) : (s.setBytes a bs).parks = s.parks := rfl
@[simp] theorem setBytes_cows (a : Nat) (bs : List Byte) : (s.setBytes a bs).cows = s.cows := rfl
@[simp] theorem setBytes_invals (a : Nat) (bs : List Byte) : (s.setBytes a bs).invals = s.invals := rfl
@[simp] theorem setBytes_hoists (a : Nat) (bs : List Byte) : (s.setBytes a bs).hoists = s.hoists := rfl
@[simp] theorem setBytes_hoistSeq (a : Nat) (bs : List Byte) : (s.setBytes a bs).hoistSeq = s.hoistSeq := rfl
@[simp] theorem setBytes_regions (a : Nat) (bs : List Byte) : (s.setBytes a bs).regions = s.regions := rfl
@[simp] theorem setBytes_image (a : Nat) (bs : List Byte) : (s.setBytes a bs).image = s.image := rfl
@[simp] theorem setBytes_load (a : Nat) (bs : List Byte) : (s.setBytes a bs).load = s.load := rfl
@[simp] theorem setBytes_tackle (a : Nat) (bs : List Byte) : (s.setBytes a bs).tackle = s.tackle := rfl
@[simp] theorem setBytes_ops (a : Nat) (bs : List Byte) : (s.setBytes a bs).ops = s.ops := rfl

@[simp] theorem setBytes_up (a : Nat) (bs : List Byte) : (s.setBytes a bs).up = s.up := rfl
@[simp] theorem setBytes_down (a : Nat) (bs : List Byte) : (s.setBytes a bs).down = s.down := rfl
@[simp] theorem setBytes_stays (a : Nat) (bs : List Byte) : (s.setBytes a bs).stays = s.stays := rfl
@[simp] theorem setBytes_ports (a : Nat) (bs : List Byte) : (s.setBytes a bs).ports = s.ports := rfl
@[simp] theorem setBytes_qps (a : Nat) (bs : List Byte) : (s.setBytes a bs).qps = s.qps := rfl
@[simp] theorem setBytes_opened (a : Nat) (bs : List Byte) : (s.setBytes a bs).opened = s.opened := rfl
@[simp] theorem setBytes_addrs (a : Nat) (bs : List Byte) : (s.setBytes a bs).addrs = s.addrs := rfl
@[simp] theorem setBytes_sessions (a : Nat) (bs : List Byte) : (s.setBytes a bs).sessions = s.sessions := rfl
@[simp] theorem setBytes_shakes (a : Nat) (bs : List Byte) : (s.setBytes a bs).shakes = s.shakes := rfl
@[simp] theorem setBytes_nextSession (a : Nat) (bs : List Byte) : (s.setBytes a bs).nextSession = s.nextSession := rfl
@[simp] theorem setBytes_notes (a : Nat) (bs : List Byte) : (s.setBytes a bs).notes = s.notes := rfl
@[simp] theorem setBytes_held (a : Nat) (bs : List Byte) : (s.setBytes a bs).held = s.held := rfl
@[simp] theorem setBytes_step (a : Nat) (bs : List Byte) : (s.setBytes a bs).step = s.step := rfl
@[simp] theorem setBytes_buffered (a : Nat) (bs : List Byte) : (s.setBytes a bs).buffered = s.buffered := rfl
@[simp] theorem setBytes_flash (a : Nat) (bs : List Byte) : (s.setBytes a bs).flash = s.flash := rfl
@[simp] theorem setBytes_masthead (a : Nat) (bs : List Byte) : (s.setBytes a bs).masthead = s.masthead := rfl
@[simp] theorem setBytes_plumb (a : Nat) (bs : List Byte) : (s.setBytes a bs).plumb = s.plumb := rfl
@[simp] theorem setBytes_enrollUntil (a : Nat) (bs : List Byte) : (s.setBytes a bs).enrollUntil = s.enrollUntil := rfl
@[simp] theorem setBytes_windows (a : Nat) (bs : List Byte) : (s.setBytes a bs).windows = s.windows := rfl
@[simp] theorem setBytes_telemSeq (a : Nat) (bs : List Byte) : (s.setBytes a bs).telemSeq = s.telemSeq := rfl
@[simp] theorem setBytes_sent (a : Nat) (bs : List Byte) : (s.setBytes a bs).sent = s.sent := rfl
@[simp] theorem setBytes_free (a : Nat) (bs : List Byte) : (s.setBytes a bs).free = s.free := rfl

/-! ### `setCore` -/

@[simp] theorem setCore_pending (n : Nat) (c : Core) : (s.setCore n c).pending = s.pending := rfl
@[simp] theorem setCore_mode (n : Nat) (c : Core) : (s.setCore n c).mode = s.mode := rfl
@[simp] theorem setCore_cause (n : Nat) (c : Core) : (s.setCore n c).cause = s.cause := rfl
@[simp] theorem setCore_pins (n : Nat) (c : Core) : (s.setCore n c).pins = s.pins := rfl
@[simp] theorem setCore_power (n : Nat) (c : Core) : (s.setCore n c).power = s.power := rfl
@[simp] theorem setCore_time (n : Nat) (c : Core) : (s.setCore n c).time = s.time := rfl
@[simp] theorem setCore_regs (n : Nat) (c : Core) : (s.setCore n c).regs = s.regs := rfl
@[simp] theorem setCore_mem (n : Nat) (c : Core) : (s.setCore n c).mem = s.mem := rfl
@[simp] theorem setCore_synd (n : Nat) (c : Core) : (s.setCore n c).synd = s.synd := rfl
@[simp] theorem setCore_sramErr (n : Nat) (c : Core) : (s.setCore n c).sramErr = s.sramErr := rfl
@[simp] theorem setCore_hurt (n : Nat) (c : Core) : (s.setCore n c).hurt = s.hurt := rfl
@[simp] theorem setCore_devWrites (n : Nat) (c : Core) : (s.setCore n c).devWrites = s.devWrites := rfl
@[simp] theorem setCore_chipCache (n : Nat) (c : Core) : (s.setCore n c).chipCache = s.chipCache := rfl
@[simp] theorem setCore_plains (n : Nat) (c : Core) : (s.setCore n c).plains = s.plains := rfl
@[simp] theorem setCore_stackUnits (n : Nat) (c : Core) : (s.setCore n c).stackUnits = s.stackUnits := rfl
@[simp] theorem setCore_ctxs (n : Nat) (c : Core) : (s.setCore n c).ctxs = s.ctxs := rfl
@[simp] theorem setCore_walks (n : Nat) (c : Core) : (s.setCore n c).walks = s.walks := rfl
@[simp] theorem setCore_parks (n : Nat) (c : Core) : (s.setCore n c).parks = s.parks := rfl
@[simp] theorem setCore_cows (n : Nat) (c : Core) : (s.setCore n c).cows = s.cows := rfl
@[simp] theorem setCore_invals (n : Nat) (c : Core) : (s.setCore n c).invals = s.invals := rfl
@[simp] theorem setCore_hoists (n : Nat) (c : Core) : (s.setCore n c).hoists = s.hoists := rfl
@[simp] theorem setCore_hoistSeq (n : Nat) (c : Core) : (s.setCore n c).hoistSeq = s.hoistSeq := rfl
@[simp] theorem setCore_regions (n : Nat) (c : Core) : (s.setCore n c).regions = s.regions := rfl
@[simp] theorem setCore_image (n : Nat) (c : Core) : (s.setCore n c).image = s.image := rfl
@[simp] theorem setCore_load (n : Nat) (c : Core) : (s.setCore n c).load = s.load := rfl
@[simp] theorem setCore_tackle (n : Nat) (c : Core) : (s.setCore n c).tackle = s.tackle := rfl
@[simp] theorem setCore_ops (n : Nat) (c : Core) : (s.setCore n c).ops = s.ops := rfl

@[simp] theorem setCore_up (n : Nat) (c : Core) : (s.setCore n c).up = s.up := rfl
@[simp] theorem setCore_down (n : Nat) (c : Core) : (s.setCore n c).down = s.down := rfl
@[simp] theorem setCore_stays (n : Nat) (c : Core) : (s.setCore n c).stays = s.stays := rfl
@[simp] theorem setCore_ports (n : Nat) (c : Core) : (s.setCore n c).ports = s.ports := rfl
@[simp] theorem setCore_qps (n : Nat) (c : Core) : (s.setCore n c).qps = s.qps := rfl
@[simp] theorem setCore_opened (n : Nat) (c : Core) : (s.setCore n c).opened = s.opened := rfl
@[simp] theorem setCore_addrs (n : Nat) (c : Core) : (s.setCore n c).addrs = s.addrs := rfl
@[simp] theorem setCore_sessions (n : Nat) (c : Core) : (s.setCore n c).sessions = s.sessions := rfl
@[simp] theorem setCore_shakes (n : Nat) (c : Core) : (s.setCore n c).shakes = s.shakes := rfl
@[simp] theorem setCore_nextSession (n : Nat) (c : Core) : (s.setCore n c).nextSession = s.nextSession := rfl
@[simp] theorem setCore_notes (n : Nat) (c : Core) : (s.setCore n c).notes = s.notes := rfl
@[simp] theorem setCore_held (n : Nat) (c : Core) : (s.setCore n c).held = s.held := rfl
@[simp] theorem setCore_step (n : Nat) (c : Core) : (s.setCore n c).step = s.step := rfl
@[simp] theorem setCore_buffered (n : Nat) (c : Core) : (s.setCore n c).buffered = s.buffered := rfl
@[simp] theorem setCore_flash (n : Nat) (c : Core) : (s.setCore n c).flash = s.flash := rfl
@[simp] theorem setCore_masthead (n : Nat) (c : Core) : (s.setCore n c).masthead = s.masthead := rfl
@[simp] theorem setCore_plumb (n : Nat) (c : Core) : (s.setCore n c).plumb = s.plumb := rfl
@[simp] theorem setCore_enrollUntil (n : Nat) (c : Core) : (s.setCore n c).enrollUntil = s.enrollUntil := rfl
@[simp] theorem setCore_windows (n : Nat) (c : Core) : (s.setCore n c).windows = s.windows := rfl
@[simp] theorem setCore_telemSeq (n : Nat) (c : Core) : (s.setCore n c).telemSeq = s.telemSeq := rfl
@[simp] theorem setCore_sent (n : Nat) (c : Core) : (s.setCore n c).sent = s.sent := rfl
@[simp] theorem setCore_free (n : Nat) (c : Core) : (s.setCore n c).free = s.free := rfl

/-! ### `setCtx` -/

@[simp] theorem setCtx_pending (c : Nat) (x : Ctx) : (s.setCtx c x).pending = s.pending := rfl
@[simp] theorem setCtx_mode (c : Nat) (x : Ctx) : (s.setCtx c x).mode = s.mode := rfl
@[simp] theorem setCtx_cause (c : Nat) (x : Ctx) : (s.setCtx c x).cause = s.cause := rfl
@[simp] theorem setCtx_pins (c : Nat) (x : Ctx) : (s.setCtx c x).pins = s.pins := rfl
@[simp] theorem setCtx_power (c : Nat) (x : Ctx) : (s.setCtx c x).power = s.power := rfl
@[simp] theorem setCtx_time (c : Nat) (x : Ctx) : (s.setCtx c x).time = s.time := rfl
@[simp] theorem setCtx_regs (c : Nat) (x : Ctx) : (s.setCtx c x).regs = s.regs := rfl
@[simp] theorem setCtx_mem (c : Nat) (x : Ctx) : (s.setCtx c x).mem = s.mem := rfl
@[simp] theorem setCtx_synd (c : Nat) (x : Ctx) : (s.setCtx c x).synd = s.synd := rfl
@[simp] theorem setCtx_sramErr (c : Nat) (x : Ctx) : (s.setCtx c x).sramErr = s.sramErr := rfl
@[simp] theorem setCtx_hurt (c : Nat) (x : Ctx) : (s.setCtx c x).hurt = s.hurt := rfl
@[simp] theorem setCtx_devWrites (c : Nat) (x : Ctx) : (s.setCtx c x).devWrites = s.devWrites := rfl
@[simp] theorem setCtx_chipCache (c : Nat) (x : Ctx) : (s.setCtx c x).chipCache = s.chipCache := rfl
@[simp] theorem setCtx_plains (c : Nat) (x : Ctx) : (s.setCtx c x).plains = s.plains := rfl
@[simp] theorem setCtx_stackUnits (c : Nat) (x : Ctx) : (s.setCtx c x).stackUnits = s.stackUnits := rfl
@[simp] theorem setCtx_cores (c : Nat) (x : Ctx) : (s.setCtx c x).cores = s.cores := rfl
@[simp] theorem setCtx_walks (c : Nat) (x : Ctx) : (s.setCtx c x).walks = s.walks := rfl
@[simp] theorem setCtx_parks (c : Nat) (x : Ctx) : (s.setCtx c x).parks = s.parks := rfl
@[simp] theorem setCtx_cows (c : Nat) (x : Ctx) : (s.setCtx c x).cows = s.cows := rfl
@[simp] theorem setCtx_invals (c : Nat) (x : Ctx) : (s.setCtx c x).invals = s.invals := rfl
@[simp] theorem setCtx_hoists (c : Nat) (x : Ctx) : (s.setCtx c x).hoists = s.hoists := rfl
@[simp] theorem setCtx_hoistSeq (c : Nat) (x : Ctx) : (s.setCtx c x).hoistSeq = s.hoistSeq := rfl
@[simp] theorem setCtx_regions (c : Nat) (x : Ctx) : (s.setCtx c x).regions = s.regions := rfl
@[simp] theorem setCtx_image (c : Nat) (x : Ctx) : (s.setCtx c x).image = s.image := rfl
@[simp] theorem setCtx_load (c : Nat) (x : Ctx) : (s.setCtx c x).load = s.load := rfl
@[simp] theorem setCtx_tackle (c : Nat) (x : Ctx) : (s.setCtx c x).tackle = s.tackle := rfl
@[simp] theorem setCtx_ops (c : Nat) (x : Ctx) : (s.setCtx c x).ops = s.ops := rfl

@[simp] theorem setCtx_up (c : Nat) (x : Ctx) : (s.setCtx c x).up = s.up := rfl
@[simp] theorem setCtx_down (c : Nat) (x : Ctx) : (s.setCtx c x).down = s.down := rfl
@[simp] theorem setCtx_stays (c : Nat) (x : Ctx) : (s.setCtx c x).stays = s.stays := rfl
@[simp] theorem setCtx_ports (c : Nat) (x : Ctx) : (s.setCtx c x).ports = s.ports := rfl
@[simp] theorem setCtx_qps (c : Nat) (x : Ctx) : (s.setCtx c x).qps = s.qps := rfl
@[simp] theorem setCtx_opened (c : Nat) (x : Ctx) : (s.setCtx c x).opened = s.opened := rfl
@[simp] theorem setCtx_addrs (c : Nat) (x : Ctx) : (s.setCtx c x).addrs = s.addrs := rfl
@[simp] theorem setCtx_sessions (c : Nat) (x : Ctx) : (s.setCtx c x).sessions = s.sessions := rfl
@[simp] theorem setCtx_shakes (c : Nat) (x : Ctx) : (s.setCtx c x).shakes = s.shakes := rfl
@[simp] theorem setCtx_nextSession (c : Nat) (x : Ctx) : (s.setCtx c x).nextSession = s.nextSession := rfl
@[simp] theorem setCtx_notes (c : Nat) (x : Ctx) : (s.setCtx c x).notes = s.notes := rfl
@[simp] theorem setCtx_held (c : Nat) (x : Ctx) : (s.setCtx c x).held = s.held := rfl
@[simp] theorem setCtx_step (c : Nat) (x : Ctx) : (s.setCtx c x).step = s.step := rfl
@[simp] theorem setCtx_buffered (c : Nat) (x : Ctx) : (s.setCtx c x).buffered = s.buffered := rfl
@[simp] theorem setCtx_flash (c : Nat) (x : Ctx) : (s.setCtx c x).flash = s.flash := rfl
@[simp] theorem setCtx_masthead (c : Nat) (x : Ctx) : (s.setCtx c x).masthead = s.masthead := rfl
@[simp] theorem setCtx_plumb (c : Nat) (x : Ctx) : (s.setCtx c x).plumb = s.plumb := rfl
@[simp] theorem setCtx_enrollUntil (c : Nat) (x : Ctx) : (s.setCtx c x).enrollUntil = s.enrollUntil := rfl
@[simp] theorem setCtx_windows (c : Nat) (x : Ctx) : (s.setCtx c x).windows = s.windows := rfl
@[simp] theorem setCtx_telemSeq (c : Nat) (x : Ctx) : (s.setCtx c x).telemSeq = s.telemSeq := rfl
@[simp] theorem setCtx_sent (c : Nat) (x : Ctx) : (s.setCtx c x).sent = s.sent := rfl
@[simp] theorem setCtx_free (c : Nat) (x : Ctx) : (s.setCtx c x).free = s.free := rfl

/-! ### `setStay` -/

@[simp] theorem setStay_pending (t : Nat) (x : Stay) : (s.setStay t x).pending = s.pending := rfl
@[simp] theorem setStay_mode (t : Nat) (x : Stay) : (s.setStay t x).mode = s.mode := rfl
@[simp] theorem setStay_cause (t : Nat) (x : Stay) : (s.setStay t x).cause = s.cause := rfl
@[simp] theorem setStay_pins (t : Nat) (x : Stay) : (s.setStay t x).pins = s.pins := rfl
@[simp] theorem setStay_power (t : Nat) (x : Stay) : (s.setStay t x).power = s.power := rfl
@[simp] theorem setStay_time (t : Nat) (x : Stay) : (s.setStay t x).time = s.time := rfl
@[simp] theorem setStay_regs (t : Nat) (x : Stay) : (s.setStay t x).regs = s.regs := rfl
@[simp] theorem setStay_mem (t : Nat) (x : Stay) : (s.setStay t x).mem = s.mem := rfl
@[simp] theorem setStay_synd (t : Nat) (x : Stay) : (s.setStay t x).synd = s.synd := rfl
@[simp] theorem setStay_sramErr (t : Nat) (x : Stay) : (s.setStay t x).sramErr = s.sramErr := rfl
@[simp] theorem setStay_hurt (t : Nat) (x : Stay) : (s.setStay t x).hurt = s.hurt := rfl
@[simp] theorem setStay_devWrites (t : Nat) (x : Stay) : (s.setStay t x).devWrites = s.devWrites := rfl
@[simp] theorem setStay_chipCache (t : Nat) (x : Stay) : (s.setStay t x).chipCache = s.chipCache := rfl
@[simp] theorem setStay_plains (t : Nat) (x : Stay) : (s.setStay t x).plains = s.plains := rfl
@[simp] theorem setStay_stackUnits (t : Nat) (x : Stay) : (s.setStay t x).stackUnits = s.stackUnits := rfl
@[simp] theorem setStay_cores (t : Nat) (x : Stay) : (s.setStay t x).cores = s.cores := rfl
@[simp] theorem setStay_ctxs (t : Nat) (x : Stay) : (s.setStay t x).ctxs = s.ctxs := rfl
@[simp] theorem setStay_walks (t : Nat) (x : Stay) : (s.setStay t x).walks = s.walks := rfl
@[simp] theorem setStay_parks (t : Nat) (x : Stay) : (s.setStay t x).parks = s.parks := rfl
@[simp] theorem setStay_cows (t : Nat) (x : Stay) : (s.setStay t x).cows = s.cows := rfl
@[simp] theorem setStay_invals (t : Nat) (x : Stay) : (s.setStay t x).invals = s.invals := rfl
@[simp] theorem setStay_hoists (t : Nat) (x : Stay) : (s.setStay t x).hoists = s.hoists := rfl
@[simp] theorem setStay_hoistSeq (t : Nat) (x : Stay) : (s.setStay t x).hoistSeq = s.hoistSeq := rfl
@[simp] theorem setStay_regions (t : Nat) (x : Stay) : (s.setStay t x).regions = s.regions := rfl
@[simp] theorem setStay_image (t : Nat) (x : Stay) : (s.setStay t x).image = s.image := rfl
@[simp] theorem setStay_load (t : Nat) (x : Stay) : (s.setStay t x).load = s.load := rfl
@[simp] theorem setStay_tackle (t : Nat) (x : Stay) : (s.setStay t x).tackle = s.tackle := rfl
@[simp] theorem setStay_ops (t : Nat) (x : Stay) : (s.setStay t x).ops = s.ops := rfl

@[simp] theorem setStay_up (t : Nat) (x : Stay) : (s.setStay t x).up = s.up := rfl
@[simp] theorem setStay_down (t : Nat) (x : Stay) : (s.setStay t x).down = s.down := rfl
@[simp] theorem setStay_ports (t : Nat) (x : Stay) : (s.setStay t x).ports = s.ports := rfl
@[simp] theorem setStay_qps (t : Nat) (x : Stay) : (s.setStay t x).qps = s.qps := rfl
@[simp] theorem setStay_opened (t : Nat) (x : Stay) : (s.setStay t x).opened = s.opened := rfl
@[simp] theorem setStay_addrs (t : Nat) (x : Stay) : (s.setStay t x).addrs = s.addrs := rfl
@[simp] theorem setStay_sessions (t : Nat) (x : Stay) : (s.setStay t x).sessions = s.sessions := rfl
@[simp] theorem setStay_shakes (t : Nat) (x : Stay) : (s.setStay t x).shakes = s.shakes := rfl
@[simp] theorem setStay_nextSession (t : Nat) (x : Stay) : (s.setStay t x).nextSession = s.nextSession := rfl
@[simp] theorem setStay_notes (t : Nat) (x : Stay) : (s.setStay t x).notes = s.notes := rfl
@[simp] theorem setStay_held (t : Nat) (x : Stay) : (s.setStay t x).held = s.held := rfl
@[simp] theorem setStay_step (t : Nat) (x : Stay) : (s.setStay t x).step = s.step := rfl
@[simp] theorem setStay_buffered (t : Nat) (x : Stay) : (s.setStay t x).buffered = s.buffered := rfl
@[simp] theorem setStay_flash (t : Nat) (x : Stay) : (s.setStay t x).flash = s.flash := rfl
@[simp] theorem setStay_masthead (t : Nat) (x : Stay) : (s.setStay t x).masthead = s.masthead := rfl
@[simp] theorem setStay_plumb (t : Nat) (x : Stay) : (s.setStay t x).plumb = s.plumb := rfl
@[simp] theorem setStay_enrollUntil (t : Nat) (x : Stay) : (s.setStay t x).enrollUntil = s.enrollUntil := rfl
@[simp] theorem setStay_windows (t : Nat) (x : Stay) : (s.setStay t x).windows = s.windows := rfl
@[simp] theorem setStay_telemSeq (t : Nat) (x : Stay) : (s.setStay t x).telemSeq = s.telemSeq := rfl
@[simp] theorem setStay_sent (t : Nat) (x : Stay) : (s.setStay t x).sent = s.sent := rfl
@[simp] theorem setStay_free (t : Nat) (x : Stay) : (s.setStay t x).free = s.free := rfl

/-! ### `setPort` -/

@[simp] theorem setPort_pending (h : Nat) (x : Port) : (s.setPort h x).pending = s.pending := rfl
@[simp] theorem setPort_mode (h : Nat) (x : Port) : (s.setPort h x).mode = s.mode := rfl
@[simp] theorem setPort_cause (h : Nat) (x : Port) : (s.setPort h x).cause = s.cause := rfl
@[simp] theorem setPort_pins (h : Nat) (x : Port) : (s.setPort h x).pins = s.pins := rfl
@[simp] theorem setPort_power (h : Nat) (x : Port) : (s.setPort h x).power = s.power := rfl
@[simp] theorem setPort_time (h : Nat) (x : Port) : (s.setPort h x).time = s.time := rfl
@[simp] theorem setPort_regs (h : Nat) (x : Port) : (s.setPort h x).regs = s.regs := rfl
@[simp] theorem setPort_mem (h : Nat) (x : Port) : (s.setPort h x).mem = s.mem := rfl
@[simp] theorem setPort_synd (h : Nat) (x : Port) : (s.setPort h x).synd = s.synd := rfl
@[simp] theorem setPort_sramErr (h : Nat) (x : Port) : (s.setPort h x).sramErr = s.sramErr := rfl
@[simp] theorem setPort_hurt (h : Nat) (x : Port) : (s.setPort h x).hurt = s.hurt := rfl
@[simp] theorem setPort_devWrites (h : Nat) (x : Port) : (s.setPort h x).devWrites = s.devWrites := rfl
@[simp] theorem setPort_chipCache (h : Nat) (x : Port) : (s.setPort h x).chipCache = s.chipCache := rfl
@[simp] theorem setPort_plains (h : Nat) (x : Port) : (s.setPort h x).plains = s.plains := rfl
@[simp] theorem setPort_stackUnits (h : Nat) (x : Port) : (s.setPort h x).stackUnits = s.stackUnits := rfl
@[simp] theorem setPort_cores (h : Nat) (x : Port) : (s.setPort h x).cores = s.cores := rfl
@[simp] theorem setPort_ctxs (h : Nat) (x : Port) : (s.setPort h x).ctxs = s.ctxs := rfl
@[simp] theorem setPort_walks (h : Nat) (x : Port) : (s.setPort h x).walks = s.walks := rfl
@[simp] theorem setPort_parks (h : Nat) (x : Port) : (s.setPort h x).parks = s.parks := rfl
@[simp] theorem setPort_cows (h : Nat) (x : Port) : (s.setPort h x).cows = s.cows := rfl
@[simp] theorem setPort_invals (h : Nat) (x : Port) : (s.setPort h x).invals = s.invals := rfl
@[simp] theorem setPort_hoists (h : Nat) (x : Port) : (s.setPort h x).hoists = s.hoists := rfl
@[simp] theorem setPort_hoistSeq (h : Nat) (x : Port) : (s.setPort h x).hoistSeq = s.hoistSeq := rfl
@[simp] theorem setPort_regions (h : Nat) (x : Port) : (s.setPort h x).regions = s.regions := rfl
@[simp] theorem setPort_image (h : Nat) (x : Port) : (s.setPort h x).image = s.image := rfl
@[simp] theorem setPort_load (h : Nat) (x : Port) : (s.setPort h x).load = s.load := rfl
@[simp] theorem setPort_tackle (h : Nat) (x : Port) : (s.setPort h x).tackle = s.tackle := rfl
@[simp] theorem setPort_ops (h : Nat) (x : Port) : (s.setPort h x).ops = s.ops := rfl

@[simp] theorem setPort_up (h : Nat) (x : Port) : (s.setPort h x).up = s.up := rfl
@[simp] theorem setPort_down (h : Nat) (x : Port) : (s.setPort h x).down = s.down := rfl
@[simp] theorem setPort_stays (h : Nat) (x : Port) : (s.setPort h x).stays = s.stays := rfl
@[simp] theorem setPort_qps (h : Nat) (x : Port) : (s.setPort h x).qps = s.qps := rfl
@[simp] theorem setPort_opened (h : Nat) (x : Port) : (s.setPort h x).opened = s.opened := rfl
@[simp] theorem setPort_addrs (h : Nat) (x : Port) : (s.setPort h x).addrs = s.addrs := rfl
@[simp] theorem setPort_sessions (h : Nat) (x : Port) : (s.setPort h x).sessions = s.sessions := rfl
@[simp] theorem setPort_shakes (h : Nat) (x : Port) : (s.setPort h x).shakes = s.shakes := rfl
@[simp] theorem setPort_nextSession (h : Nat) (x : Port) : (s.setPort h x).nextSession = s.nextSession := rfl
@[simp] theorem setPort_notes (h : Nat) (x : Port) : (s.setPort h x).notes = s.notes := rfl
@[simp] theorem setPort_held (h : Nat) (x : Port) : (s.setPort h x).held = s.held := rfl
@[simp] theorem setPort_step (h : Nat) (x : Port) : (s.setPort h x).step = s.step := rfl
@[simp] theorem setPort_buffered (h : Nat) (x : Port) : (s.setPort h x).buffered = s.buffered := rfl
@[simp] theorem setPort_flash (h : Nat) (x : Port) : (s.setPort h x).flash = s.flash := rfl
@[simp] theorem setPort_masthead (h : Nat) (x : Port) : (s.setPort h x).masthead = s.masthead := rfl
@[simp] theorem setPort_plumb (h : Nat) (x : Port) : (s.setPort h x).plumb = s.plumb := rfl
@[simp] theorem setPort_enrollUntil (h : Nat) (x : Port) : (s.setPort h x).enrollUntil = s.enrollUntil := rfl
@[simp] theorem setPort_windows (h : Nat) (x : Port) : (s.setPort h x).windows = s.windows := rfl
@[simp] theorem setPort_telemSeq (h : Nat) (x : Port) : (s.setPort h x).telemSeq = s.telemSeq := rfl
@[simp] theorem setPort_sent (h : Nat) (x : Port) : (s.setPort h x).sent = s.sent := rfl
@[simp] theorem setPort_free (h : Nat) (x : Port) : (s.setPort h x).free = s.free := rfl

/-! ### `setQp` -/

@[simp] theorem setQp_pending (q : Nat) (x : Qp) : (s.setQp q x).pending = s.pending := rfl
@[simp] theorem setQp_mode (q : Nat) (x : Qp) : (s.setQp q x).mode = s.mode := rfl
@[simp] theorem setQp_cause (q : Nat) (x : Qp) : (s.setQp q x).cause = s.cause := rfl
@[simp] theorem setQp_pins (q : Nat) (x : Qp) : (s.setQp q x).pins = s.pins := rfl
@[simp] theorem setQp_power (q : Nat) (x : Qp) : (s.setQp q x).power = s.power := rfl
@[simp] theorem setQp_time (q : Nat) (x : Qp) : (s.setQp q x).time = s.time := rfl
@[simp] theorem setQp_regs (q : Nat) (x : Qp) : (s.setQp q x).regs = s.regs := rfl
@[simp] theorem setQp_mem (q : Nat) (x : Qp) : (s.setQp q x).mem = s.mem := rfl
@[simp] theorem setQp_synd (q : Nat) (x : Qp) : (s.setQp q x).synd = s.synd := rfl
@[simp] theorem setQp_sramErr (q : Nat) (x : Qp) : (s.setQp q x).sramErr = s.sramErr := rfl
@[simp] theorem setQp_hurt (q : Nat) (x : Qp) : (s.setQp q x).hurt = s.hurt := rfl
@[simp] theorem setQp_devWrites (q : Nat) (x : Qp) : (s.setQp q x).devWrites = s.devWrites := rfl
@[simp] theorem setQp_chipCache (q : Nat) (x : Qp) : (s.setQp q x).chipCache = s.chipCache := rfl
@[simp] theorem setQp_plains (q : Nat) (x : Qp) : (s.setQp q x).plains = s.plains := rfl
@[simp] theorem setQp_stackUnits (q : Nat) (x : Qp) : (s.setQp q x).stackUnits = s.stackUnits := rfl
@[simp] theorem setQp_cores (q : Nat) (x : Qp) : (s.setQp q x).cores = s.cores := rfl
@[simp] theorem setQp_ctxs (q : Nat) (x : Qp) : (s.setQp q x).ctxs = s.ctxs := rfl
@[simp] theorem setQp_walks (q : Nat) (x : Qp) : (s.setQp q x).walks = s.walks := rfl
@[simp] theorem setQp_parks (q : Nat) (x : Qp) : (s.setQp q x).parks = s.parks := rfl
@[simp] theorem setQp_cows (q : Nat) (x : Qp) : (s.setQp q x).cows = s.cows := rfl
@[simp] theorem setQp_invals (q : Nat) (x : Qp) : (s.setQp q x).invals = s.invals := rfl
@[simp] theorem setQp_hoists (q : Nat) (x : Qp) : (s.setQp q x).hoists = s.hoists := rfl
@[simp] theorem setQp_hoistSeq (q : Nat) (x : Qp) : (s.setQp q x).hoistSeq = s.hoistSeq := rfl
@[simp] theorem setQp_regions (q : Nat) (x : Qp) : (s.setQp q x).regions = s.regions := rfl
@[simp] theorem setQp_image (q : Nat) (x : Qp) : (s.setQp q x).image = s.image := rfl
@[simp] theorem setQp_load (q : Nat) (x : Qp) : (s.setQp q x).load = s.load := rfl
@[simp] theorem setQp_tackle (q : Nat) (x : Qp) : (s.setQp q x).tackle = s.tackle := rfl
@[simp] theorem setQp_ops (q : Nat) (x : Qp) : (s.setQp q x).ops = s.ops := rfl

@[simp] theorem setQp_up (q : Nat) (x : Qp) : (s.setQp q x).up = s.up := rfl
@[simp] theorem setQp_down (q : Nat) (x : Qp) : (s.setQp q x).down = s.down := rfl
@[simp] theorem setQp_stays (q : Nat) (x : Qp) : (s.setQp q x).stays = s.stays := rfl
@[simp] theorem setQp_ports (q : Nat) (x : Qp) : (s.setQp q x).ports = s.ports := rfl
@[simp] theorem setQp_opened (q : Nat) (x : Qp) : (s.setQp q x).opened = s.opened := rfl
@[simp] theorem setQp_addrs (q : Nat) (x : Qp) : (s.setQp q x).addrs = s.addrs := rfl
@[simp] theorem setQp_sessions (q : Nat) (x : Qp) : (s.setQp q x).sessions = s.sessions := rfl
@[simp] theorem setQp_shakes (q : Nat) (x : Qp) : (s.setQp q x).shakes = s.shakes := rfl
@[simp] theorem setQp_nextSession (q : Nat) (x : Qp) : (s.setQp q x).nextSession = s.nextSession := rfl
@[simp] theorem setQp_notes (q : Nat) (x : Qp) : (s.setQp q x).notes = s.notes := rfl
@[simp] theorem setQp_held (q : Nat) (x : Qp) : (s.setQp q x).held = s.held := rfl
@[simp] theorem setQp_step (q : Nat) (x : Qp) : (s.setQp q x).step = s.step := rfl
@[simp] theorem setQp_buffered (q : Nat) (x : Qp) : (s.setQp q x).buffered = s.buffered := rfl
@[simp] theorem setQp_flash (q : Nat) (x : Qp) : (s.setQp q x).flash = s.flash := rfl
@[simp] theorem setQp_masthead (q : Nat) (x : Qp) : (s.setQp q x).masthead = s.masthead := rfl
@[simp] theorem setQp_plumb (q : Nat) (x : Qp) : (s.setQp q x).plumb = s.plumb := rfl
@[simp] theorem setQp_enrollUntil (q : Nat) (x : Qp) : (s.setQp q x).enrollUntil = s.enrollUntil := rfl
@[simp] theorem setQp_windows (q : Nat) (x : Qp) : (s.setQp q x).windows = s.windows := rfl
@[simp] theorem setQp_telemSeq (q : Nat) (x : Qp) : (s.setQp q x).telemSeq = s.telemSeq := rfl
@[simp] theorem setQp_sent (q : Nat) (x : Qp) : (s.setQp q x).sent = s.sent := rfl
@[simp] theorem setQp_free (q : Nat) (x : Qp) : (s.setQp q x).free = s.free := rfl

/-! ### `setStack` -/

@[simp] theorem setStack_pending (k : Nat) (x : Stack) : (s.setStack k x).pending = s.pending := rfl
@[simp] theorem setStack_mode (k : Nat) (x : Stack) : (s.setStack k x).mode = s.mode := rfl
@[simp] theorem setStack_cause (k : Nat) (x : Stack) : (s.setStack k x).cause = s.cause := rfl
@[simp] theorem setStack_pins (k : Nat) (x : Stack) : (s.setStack k x).pins = s.pins := rfl
@[simp] theorem setStack_power (k : Nat) (x : Stack) : (s.setStack k x).power = s.power := rfl
@[simp] theorem setStack_time (k : Nat) (x : Stack) : (s.setStack k x).time = s.time := rfl
@[simp] theorem setStack_regs (k : Nat) (x : Stack) : (s.setStack k x).regs = s.regs := rfl
@[simp] theorem setStack_mem (k : Nat) (x : Stack) : (s.setStack k x).mem = s.mem := rfl
@[simp] theorem setStack_synd (k : Nat) (x : Stack) : (s.setStack k x).synd = s.synd := rfl
@[simp] theorem setStack_sramErr (k : Nat) (x : Stack) : (s.setStack k x).sramErr = s.sramErr := rfl
@[simp] theorem setStack_hurt (k : Nat) (x : Stack) : (s.setStack k x).hurt = s.hurt := rfl
@[simp] theorem setStack_devWrites (k : Nat) (x : Stack) : (s.setStack k x).devWrites = s.devWrites := rfl
@[simp] theorem setStack_chipCache (k : Nat) (x : Stack) : (s.setStack k x).chipCache = s.chipCache := rfl
@[simp] theorem setStack_plains (k : Nat) (x : Stack) : (s.setStack k x).plains = s.plains := rfl
@[simp] theorem setStack_cores (k : Nat) (x : Stack) : (s.setStack k x).cores = s.cores := rfl
@[simp] theorem setStack_ctxs (k : Nat) (x : Stack) : (s.setStack k x).ctxs = s.ctxs := rfl
@[simp] theorem setStack_walks (k : Nat) (x : Stack) : (s.setStack k x).walks = s.walks := rfl
@[simp] theorem setStack_parks (k : Nat) (x : Stack) : (s.setStack k x).parks = s.parks := rfl
@[simp] theorem setStack_cows (k : Nat) (x : Stack) : (s.setStack k x).cows = s.cows := rfl
@[simp] theorem setStack_invals (k : Nat) (x : Stack) : (s.setStack k x).invals = s.invals := rfl
@[simp] theorem setStack_hoists (k : Nat) (x : Stack) : (s.setStack k x).hoists = s.hoists := rfl
@[simp] theorem setStack_hoistSeq (k : Nat) (x : Stack) : (s.setStack k x).hoistSeq = s.hoistSeq := rfl
@[simp] theorem setStack_regions (k : Nat) (x : Stack) : (s.setStack k x).regions = s.regions := rfl
@[simp] theorem setStack_image (k : Nat) (x : Stack) : (s.setStack k x).image = s.image := rfl
@[simp] theorem setStack_load (k : Nat) (x : Stack) : (s.setStack k x).load = s.load := rfl
@[simp] theorem setStack_tackle (k : Nat) (x : Stack) : (s.setStack k x).tackle = s.tackle := rfl
@[simp] theorem setStack_ops (k : Nat) (x : Stack) : (s.setStack k x).ops = s.ops := rfl

@[simp] theorem setStack_up (k : Nat) (x : Stack) : (s.setStack k x).up = s.up := rfl
@[simp] theorem setStack_down (k : Nat) (x : Stack) : (s.setStack k x).down = s.down := rfl
@[simp] theorem setStack_stays (k : Nat) (x : Stack) : (s.setStack k x).stays = s.stays := rfl
@[simp] theorem setStack_ports (k : Nat) (x : Stack) : (s.setStack k x).ports = s.ports := rfl
@[simp] theorem setStack_qps (k : Nat) (x : Stack) : (s.setStack k x).qps = s.qps := rfl
@[simp] theorem setStack_opened (k : Nat) (x : Stack) : (s.setStack k x).opened = s.opened := rfl
@[simp] theorem setStack_addrs (k : Nat) (x : Stack) : (s.setStack k x).addrs = s.addrs := rfl
@[simp] theorem setStack_sessions (k : Nat) (x : Stack) : (s.setStack k x).sessions = s.sessions := rfl
@[simp] theorem setStack_shakes (k : Nat) (x : Stack) : (s.setStack k x).shakes = s.shakes := rfl
@[simp] theorem setStack_nextSession (k : Nat) (x : Stack) : (s.setStack k x).nextSession = s.nextSession := rfl
@[simp] theorem setStack_notes (k : Nat) (x : Stack) : (s.setStack k x).notes = s.notes := rfl
@[simp] theorem setStack_held (k : Nat) (x : Stack) : (s.setStack k x).held = s.held := rfl
@[simp] theorem setStack_step (k : Nat) (x : Stack) : (s.setStack k x).step = s.step := rfl
@[simp] theorem setStack_buffered (k : Nat) (x : Stack) : (s.setStack k x).buffered = s.buffered := rfl
@[simp] theorem setStack_flash (k : Nat) (x : Stack) : (s.setStack k x).flash = s.flash := rfl
@[simp] theorem setStack_masthead (k : Nat) (x : Stack) : (s.setStack k x).masthead = s.masthead := rfl
@[simp] theorem setStack_plumb (k : Nat) (x : Stack) : (s.setStack k x).plumb = s.plumb := rfl
@[simp] theorem setStack_enrollUntil (k : Nat) (x : Stack) : (s.setStack k x).enrollUntil = s.enrollUntil := rfl
@[simp] theorem setStack_windows (k : Nat) (x : Stack) : (s.setStack k x).windows = s.windows := rfl
@[simp] theorem setStack_telemSeq (k : Nat) (x : Stack) : (s.setStack k x).telemSeq = s.telemSeq := rfl
@[simp] theorem setStack_sent (k : Nat) (x : Stack) : (s.setStack k x).sent = s.sent := rfl
@[simp] theorem setStack_free (k : Nat) (x : Stack) : (s.setStack k x).free = s.free := rfl

/-! ### `send` -/

@[simp] theorem send_pending (x : Sent) : (s.send x).pending = s.pending := rfl
@[simp] theorem send_mode (x : Sent) : (s.send x).mode = s.mode := rfl
@[simp] theorem send_cause (x : Sent) : (s.send x).cause = s.cause := rfl
@[simp] theorem send_pins (x : Sent) : (s.send x).pins = s.pins := rfl
@[simp] theorem send_power (x : Sent) : (s.send x).power = s.power := rfl
@[simp] theorem send_time (x : Sent) : (s.send x).time = s.time := rfl
@[simp] theorem send_regs (x : Sent) : (s.send x).regs = s.regs := rfl
@[simp] theorem send_mem (x : Sent) : (s.send x).mem = s.mem := rfl
@[simp] theorem send_synd (x : Sent) : (s.send x).synd = s.synd := rfl
@[simp] theorem send_sramErr (x : Sent) : (s.send x).sramErr = s.sramErr := rfl
@[simp] theorem send_hurt (x : Sent) : (s.send x).hurt = s.hurt := rfl
@[simp] theorem send_devWrites (x : Sent) : (s.send x).devWrites = s.devWrites := rfl
@[simp] theorem send_chipCache (x : Sent) : (s.send x).chipCache = s.chipCache := rfl
@[simp] theorem send_plains (x : Sent) : (s.send x).plains = s.plains := rfl
@[simp] theorem send_stackUnits (x : Sent) : (s.send x).stackUnits = s.stackUnits := rfl
@[simp] theorem send_cores (x : Sent) : (s.send x).cores = s.cores := rfl
@[simp] theorem send_ctxs (x : Sent) : (s.send x).ctxs = s.ctxs := rfl
@[simp] theorem send_walks (x : Sent) : (s.send x).walks = s.walks := rfl
@[simp] theorem send_parks (x : Sent) : (s.send x).parks = s.parks := rfl
@[simp] theorem send_cows (x : Sent) : (s.send x).cows = s.cows := rfl
@[simp] theorem send_invals (x : Sent) : (s.send x).invals = s.invals := rfl
@[simp] theorem send_hoists (x : Sent) : (s.send x).hoists = s.hoists := rfl
@[simp] theorem send_hoistSeq (x : Sent) : (s.send x).hoistSeq = s.hoistSeq := rfl
@[simp] theorem send_regions (x : Sent) : (s.send x).regions = s.regions := rfl
@[simp] theorem send_image (x : Sent) : (s.send x).image = s.image := rfl
@[simp] theorem send_load (x : Sent) : (s.send x).load = s.load := rfl
@[simp] theorem send_tackle (x : Sent) : (s.send x).tackle = s.tackle := rfl
@[simp] theorem send_ops (x : Sent) : (s.send x).ops = s.ops := rfl

@[simp] theorem send_up (x : Sent) : (s.send x).up = s.up := rfl
@[simp] theorem send_down (x : Sent) : (s.send x).down = s.down := rfl
@[simp] theorem send_stays (x : Sent) : (s.send x).stays = s.stays := rfl
@[simp] theorem send_ports (x : Sent) : (s.send x).ports = s.ports := rfl
@[simp] theorem send_qps (x : Sent) : (s.send x).qps = s.qps := rfl
@[simp] theorem send_opened (x : Sent) : (s.send x).opened = s.opened := rfl
@[simp] theorem send_addrs (x : Sent) : (s.send x).addrs = s.addrs := rfl
@[simp] theorem send_sessions (x : Sent) : (s.send x).sessions = s.sessions := rfl
@[simp] theorem send_shakes (x : Sent) : (s.send x).shakes = s.shakes := rfl
@[simp] theorem send_nextSession (x : Sent) : (s.send x).nextSession = s.nextSession := rfl
@[simp] theorem send_notes (x : Sent) : (s.send x).notes = s.notes := rfl
@[simp] theorem send_held (x : Sent) : (s.send x).held = s.held := rfl
@[simp] theorem send_step (x : Sent) : (s.send x).step = s.step := rfl
@[simp] theorem send_buffered (x : Sent) : (s.send x).buffered = s.buffered := rfl
@[simp] theorem send_flash (x : Sent) : (s.send x).flash = s.flash := rfl
@[simp] theorem send_masthead (x : Sent) : (s.send x).masthead = s.masthead := rfl
@[simp] theorem send_plumb (x : Sent) : (s.send x).plumb = s.plumb := rfl
@[simp] theorem send_enrollUntil (x : Sent) : (s.send x).enrollUntil = s.enrollUntil := rfl
@[simp] theorem send_windows (x : Sent) : (s.send x).windows = s.windows := rfl
@[simp] theorem send_telemSeq (x : Sent) : (s.send x).telemSeq = s.telemSeq := rfl
@[simp] theorem send_free (x : Sent) : (s.send x).free = s.free := rfl

/-! ### `flag` changes registers only -/

@[simp] theorem flag_pending (a n : Nat) : (s.flag a n).pending = s.pending := by
  unfold State.flag; split <;> rfl
@[simp] theorem flag_mode (a n : Nat) : (s.flag a n).mode = s.mode := by
  unfold State.flag; split <;> rfl
@[simp] theorem flag_cause (a n : Nat) : (s.flag a n).cause = s.cause := by
  unfold State.flag; split <;> rfl
@[simp] theorem flag_pins (a n : Nat) : (s.flag a n).pins = s.pins := by
  unfold State.flag; split <;> rfl
@[simp] theorem flag_power (a n : Nat) : (s.flag a n).power = s.power := by
  unfold State.flag; split <;> rfl
@[simp] theorem flag_time (a n : Nat) : (s.flag a n).time = s.time := by
  unfold State.flag; split <;> rfl
@[simp] theorem flag_mem (a n : Nat) : (s.flag a n).mem = s.mem := by
  unfold State.flag; split <;> rfl
@[simp] theorem flag_synd (a n : Nat) : (s.flag a n).synd = s.synd := by
  unfold State.flag; split <;> rfl
@[simp] theorem flag_sramErr (a n : Nat) : (s.flag a n).sramErr = s.sramErr := by
  unfold State.flag; split <;> rfl
@[simp] theorem flag_hurt (a n : Nat) : (s.flag a n).hurt = s.hurt := by
  unfold State.flag; split <;> rfl
@[simp] theorem flag_devWrites (a n : Nat) : (s.flag a n).devWrites = s.devWrites := by
  unfold State.flag; split <;> rfl
@[simp] theorem flag_chipCache (a n : Nat) : (s.flag a n).chipCache = s.chipCache := by
  unfold State.flag; split <;> rfl
@[simp] theorem flag_plains (a n : Nat) : (s.flag a n).plains = s.plains := by
  unfold State.flag; split <;> rfl
@[simp] theorem flag_stackUnits (a n : Nat) : (s.flag a n).stackUnits = s.stackUnits := by
  unfold State.flag; split <;> rfl
@[simp] theorem flag_cores (a n : Nat) : (s.flag a n).cores = s.cores := by
  unfold State.flag; split <;> rfl
@[simp] theorem flag_ctxs (a n : Nat) : (s.flag a n).ctxs = s.ctxs := by
  unfold State.flag; split <;> rfl
@[simp] theorem flag_walks (a n : Nat) : (s.flag a n).walks = s.walks := by
  unfold State.flag; split <;> rfl
@[simp] theorem flag_parks (a n : Nat) : (s.flag a n).parks = s.parks := by
  unfold State.flag; split <;> rfl
@[simp] theorem flag_cows (a n : Nat) : (s.flag a n).cows = s.cows := by
  unfold State.flag; split <;> rfl
@[simp] theorem flag_invals (a n : Nat) : (s.flag a n).invals = s.invals := by
  unfold State.flag; split <;> rfl
@[simp] theorem flag_hoists (a n : Nat) : (s.flag a n).hoists = s.hoists := by
  unfold State.flag; split <;> rfl
@[simp] theorem flag_hoistSeq (a n : Nat) : (s.flag a n).hoistSeq = s.hoistSeq := by
  unfold State.flag; split <;> rfl
@[simp] theorem flag_regions (a n : Nat) : (s.flag a n).regions = s.regions := by
  unfold State.flag; split <;> rfl
@[simp] theorem flag_image (a n : Nat) : (s.flag a n).image = s.image := by
  unfold State.flag; split <;> rfl
@[simp] theorem flag_load (a n : Nat) : (s.flag a n).load = s.load := by
  unfold State.flag; split <;> rfl
@[simp] theorem flag_tackle (a n : Nat) : (s.flag a n).tackle = s.tackle := by
  unfold State.flag; split <;> rfl
@[simp] theorem flag_ops (a n : Nat) : (s.flag a n).ops = s.ops := by
  unfold State.flag; split <;> rfl

@[simp] theorem flag_up (a n : Nat) : (s.flag a n).up = s.up := by
  unfold State.flag; split <;> rfl
@[simp] theorem flag_down (a n : Nat) : (s.flag a n).down = s.down := by
  unfold State.flag; split <;> rfl
@[simp] theorem flag_stays (a n : Nat) : (s.flag a n).stays = s.stays := by
  unfold State.flag; split <;> rfl
@[simp] theorem flag_ports (a n : Nat) : (s.flag a n).ports = s.ports := by
  unfold State.flag; split <;> rfl
@[simp] theorem flag_qps (a n : Nat) : (s.flag a n).qps = s.qps := by
  unfold State.flag; split <;> rfl
@[simp] theorem flag_opened (a n : Nat) : (s.flag a n).opened = s.opened := by
  unfold State.flag; split <;> rfl
@[simp] theorem flag_addrs (a n : Nat) : (s.flag a n).addrs = s.addrs := by
  unfold State.flag; split <;> rfl
@[simp] theorem flag_sessions (a n : Nat) : (s.flag a n).sessions = s.sessions := by
  unfold State.flag; split <;> rfl
@[simp] theorem flag_shakes (a n : Nat) : (s.flag a n).shakes = s.shakes := by
  unfold State.flag; split <;> rfl
@[simp] theorem flag_nextSession (a n : Nat) : (s.flag a n).nextSession = s.nextSession := by
  unfold State.flag; split <;> rfl
@[simp] theorem flag_notes (a n : Nat) : (s.flag a n).notes = s.notes := by
  unfold State.flag; split <;> rfl
@[simp] theorem flag_held (a n : Nat) : (s.flag a n).held = s.held := by
  unfold State.flag; split <;> rfl
@[simp] theorem flag_step (a n : Nat) : (s.flag a n).step = s.step := by
  unfold State.flag; split <;> rfl
@[simp] theorem flag_buffered (a n : Nat) : (s.flag a n).buffered = s.buffered := by
  unfold State.flag; split <;> rfl
@[simp] theorem flag_flash (a n : Nat) : (s.flag a n).flash = s.flash := by
  unfold State.flag; split <;> rfl
@[simp] theorem flag_masthead (a n : Nat) : (s.flag a n).masthead = s.masthead := by
  unfold State.flag; split <;> rfl
@[simp] theorem flag_plumb (a n : Nat) : (s.flag a n).plumb = s.plumb := by
  unfold State.flag; split <;> rfl
@[simp] theorem flag_enrollUntil (a n : Nat) : (s.flag a n).enrollUntil = s.enrollUntil := by
  unfold State.flag; split <;> rfl
@[simp] theorem flag_windows (a n : Nat) : (s.flag a n).windows = s.windows := by
  unfold State.flag; split <;> rfl
@[simp] theorem flag_telemSeq (a n : Nat) : (s.flag a n).telemSeq = s.telemSeq := by
  unfold State.flag; split <;> rfl
@[simp] theorem flag_sent (a n : Nat) : (s.flag a n).sent = s.sent := by
  unfold State.flag; split <;> rfl
@[simp] theorem flag_free (a n : Nat) : (s.flag a n).free = s.free := by
  unfold State.flag; split <;> rfl

/-! ### Reading back -/

@[simp] theorem reg_setReg_same (a : Nat) (v : Word) : (s.setReg a v).reg a = v := kget_kset_same _ _ _ _
theorem reg_setReg_ne {a b : Nat} (v : Word) (h : b ≠ a) : (s.setReg a v).reg b = s.reg b := kget_kset_ne _ _ _ _ h
theorem reg_setReg (a b : Nat) (v : Word) : (s.setReg a v).reg b = if b = a then v else s.reg b := by
  split
  · rename_i h; rw [h, reg_setReg_same]
  · rename_i h; exact reg_setReg_ne s v h
@[simp] theorem reg_count_same (a n : Nat) : (s.count a n).reg a = s.reg a + BitVec.ofNat 64 n := kget_kset_same _ _ _ _
theorem reg_count_ne {a b : Nat} (n : Nat) (h : b ≠ a) : (s.count a n).reg b = s.reg b := kget_kset_ne _ _ _ _ h
@[simp] theorem reg_setRfld_same (a hi lo v : Nat) : (s.setRfld a hi lo v).reg a = setFld (s.reg a) hi lo v :=
  kget_kset_same _ _ _ _
theorem reg_setRfld_ne {a b : Nat} (hi lo v : Nat) (h : b ≠ a) : (s.setRfld a hi lo v).reg b = s.reg b :=
  kget_kset_ne _ _ _ _ h
/-- R11: a flag that stands sets its OVERRUN bit, else the flag is set. -/
theorem reg_flag_same (a f : Nat) :
    (s.flag a f).reg a = if bitAt (s.reg a) f then setBit (s.reg a) (8 + f) else setBit (s.reg a) f := by
  unfold State.flag; split <;> exact kget_kset_same _ _ _ _
theorem reg_flag_ne {a b : Nat} (f : Nat) (h : b ≠ a) : (s.flag a f).reg b = s.reg b := by
  unfold State.flag; split <;> exact kget_kset_ne _ _ _ _ h

@[simp] theorem core_setCore_same (n : Nat) (x : Core) : (s.setCore n x).core n = x := kget_kset_same _ _ _ _
theorem core_setCore_ne {n m : Nat} (x : Core) (h : m ≠ n) : (s.setCore n x).core m = s.core m :=
  kget_kset_ne _ _ _ _ h

@[simp] theorem ctx_setCtx_same (n : Nat) (x : Ctx) : (s.setCtx n x).ctx n = x := kget_kset_same _ _ _ _
theorem ctx_setCtx_ne {n m : Nat} (x : Ctx) (h : m ≠ n) : (s.setCtx n x).ctx m = s.ctx m :=
  kget_kset_ne _ _ _ _ h

@[simp] theorem stay_setStay_same (n : Nat) (x : Stay) : (s.setStay n x).stay n = x := kget_kset_same _ _ _ _
theorem stay_setStay_ne {n m : Nat} (x : Stay) (h : m ≠ n) : (s.setStay n x).stay m = s.stay m :=
  kget_kset_ne _ _ _ _ h

@[simp] theorem port_setPort_same (n : Nat) (x : Port) : (s.setPort n x).port n = x := kget_kset_same _ _ _ _
theorem port_setPort_ne {n m : Nat} (x : Port) (h : m ≠ n) : (s.setPort n x).port m = s.port m :=
  kget_kset_ne _ _ _ _ h

@[simp] theorem qp_setQp_same (n : Nat) (x : Qp) : (s.setQp n x).qp n = x := kget_kset_same _ _ _ _
theorem qp_setQp_ne {n m : Nat} (x : Qp) (h : m ≠ n) : (s.setQp n x).qp m = s.qp m :=
  kget_kset_ne _ _ _ _ h

@[simp] theorem stack_setStack_same (n : Nat) (x : Stack) : (s.setStack n x).stack n = x := kget_kset_same _ _ _ _
theorem stack_setStack_ne {n m : Nat} (x : Stack) (h : m ≠ n) : (s.setStack n x).stack m = s.stack m :=
  kget_kset_ne _ _ _ _ h

/-! ### `setRfld` and `count` change registers only -/

@[simp] theorem setRfld_pending (a hi lo v : Nat) : (s.setRfld a hi lo v).pending = s.pending := rfl
@[simp] theorem setRfld_mode (a hi lo v : Nat) : (s.setRfld a hi lo v).mode = s.mode := rfl
@[simp] theorem setRfld_cause (a hi lo v : Nat) : (s.setRfld a hi lo v).cause = s.cause := rfl
@[simp] theorem setRfld_pins (a hi lo v : Nat) : (s.setRfld a hi lo v).pins = s.pins := rfl
@[simp] theorem setRfld_power (a hi lo v : Nat) : (s.setRfld a hi lo v).power = s.power := rfl
@[simp] theorem setRfld_time (a hi lo v : Nat) : (s.setRfld a hi lo v).time = s.time := rfl
@[simp] theorem setRfld_mem (a hi lo v : Nat) : (s.setRfld a hi lo v).mem = s.mem := rfl
@[simp] theorem setRfld_synd (a hi lo v : Nat) : (s.setRfld a hi lo v).synd = s.synd := rfl
@[simp] theorem setRfld_sramErr (a hi lo v : Nat) : (s.setRfld a hi lo v).sramErr = s.sramErr := rfl
@[simp] theorem setRfld_hurt (a hi lo v : Nat) : (s.setRfld a hi lo v).hurt = s.hurt := rfl
@[simp] theorem setRfld_devWrites (a hi lo v : Nat) : (s.setRfld a hi lo v).devWrites = s.devWrites := rfl
@[simp] theorem setRfld_chipCache (a hi lo v : Nat) : (s.setRfld a hi lo v).chipCache = s.chipCache := rfl
@[simp] theorem setRfld_plains (a hi lo v : Nat) : (s.setRfld a hi lo v).plains = s.plains := rfl
@[simp] theorem setRfld_stackUnits (a hi lo v : Nat) : (s.setRfld a hi lo v).stackUnits = s.stackUnits := rfl
@[simp] theorem setRfld_cores (a hi lo v : Nat) : (s.setRfld a hi lo v).cores = s.cores := rfl
@[simp] theorem setRfld_ctxs (a hi lo v : Nat) : (s.setRfld a hi lo v).ctxs = s.ctxs := rfl
@[simp] theorem setRfld_walks (a hi lo v : Nat) : (s.setRfld a hi lo v).walks = s.walks := rfl
@[simp] theorem setRfld_parks (a hi lo v : Nat) : (s.setRfld a hi lo v).parks = s.parks := rfl
@[simp] theorem setRfld_cows (a hi lo v : Nat) : (s.setRfld a hi lo v).cows = s.cows := rfl
@[simp] theorem setRfld_invals (a hi lo v : Nat) : (s.setRfld a hi lo v).invals = s.invals := rfl
@[simp] theorem setRfld_hoists (a hi lo v : Nat) : (s.setRfld a hi lo v).hoists = s.hoists := rfl
@[simp] theorem setRfld_hoistSeq (a hi lo v : Nat) : (s.setRfld a hi lo v).hoistSeq = s.hoistSeq := rfl
@[simp] theorem setRfld_regions (a hi lo v : Nat) : (s.setRfld a hi lo v).regions = s.regions := rfl
@[simp] theorem setRfld_image (a hi lo v : Nat) : (s.setRfld a hi lo v).image = s.image := rfl
@[simp] theorem setRfld_load (a hi lo v : Nat) : (s.setRfld a hi lo v).load = s.load := rfl
@[simp] theorem setRfld_tackle (a hi lo v : Nat) : (s.setRfld a hi lo v).tackle = s.tackle := rfl
@[simp] theorem setRfld_ops (a hi lo v : Nat) : (s.setRfld a hi lo v).ops = s.ops := rfl

@[simp] theorem setRfld_up (a hi lo v : Nat) : (s.setRfld a hi lo v).up = s.up := rfl
@[simp] theorem setRfld_down (a hi lo v : Nat) : (s.setRfld a hi lo v).down = s.down := rfl
@[simp] theorem setRfld_stays (a hi lo v : Nat) : (s.setRfld a hi lo v).stays = s.stays := rfl
@[simp] theorem setRfld_ports (a hi lo v : Nat) : (s.setRfld a hi lo v).ports = s.ports := rfl
@[simp] theorem setRfld_qps (a hi lo v : Nat) : (s.setRfld a hi lo v).qps = s.qps := rfl
@[simp] theorem setRfld_opened (a hi lo v : Nat) : (s.setRfld a hi lo v).opened = s.opened := rfl
@[simp] theorem setRfld_addrs (a hi lo v : Nat) : (s.setRfld a hi lo v).addrs = s.addrs := rfl
@[simp] theorem setRfld_sessions (a hi lo v : Nat) : (s.setRfld a hi lo v).sessions = s.sessions := rfl
@[simp] theorem setRfld_shakes (a hi lo v : Nat) : (s.setRfld a hi lo v).shakes = s.shakes := rfl
@[simp] theorem setRfld_nextSession (a hi lo v : Nat) : (s.setRfld a hi lo v).nextSession = s.nextSession := rfl
@[simp] theorem setRfld_notes (a hi lo v : Nat) : (s.setRfld a hi lo v).notes = s.notes := rfl
@[simp] theorem setRfld_held (a hi lo v : Nat) : (s.setRfld a hi lo v).held = s.held := rfl
@[simp] theorem setRfld_step (a hi lo v : Nat) : (s.setRfld a hi lo v).step = s.step := rfl
@[simp] theorem setRfld_buffered (a hi lo v : Nat) : (s.setRfld a hi lo v).buffered = s.buffered := rfl
@[simp] theorem setRfld_flash (a hi lo v : Nat) : (s.setRfld a hi lo v).flash = s.flash := rfl
@[simp] theorem setRfld_masthead (a hi lo v : Nat) : (s.setRfld a hi lo v).masthead = s.masthead := rfl
@[simp] theorem setRfld_plumb (a hi lo v : Nat) : (s.setRfld a hi lo v).plumb = s.plumb := rfl
@[simp] theorem setRfld_enrollUntil (a hi lo v : Nat) : (s.setRfld a hi lo v).enrollUntil = s.enrollUntil := rfl
@[simp] theorem setRfld_windows (a hi lo v : Nat) : (s.setRfld a hi lo v).windows = s.windows := rfl
@[simp] theorem setRfld_telemSeq (a hi lo v : Nat) : (s.setRfld a hi lo v).telemSeq = s.telemSeq := rfl
@[simp] theorem setRfld_sent (a hi lo v : Nat) : (s.setRfld a hi lo v).sent = s.sent := rfl
@[simp] theorem setRfld_free (a hi lo v : Nat) : (s.setRfld a hi lo v).free = s.free := rfl
@[simp] theorem count_pending (a k : Nat) : (s.count a k).pending = s.pending := rfl
@[simp] theorem count_mode (a k : Nat) : (s.count a k).mode = s.mode := rfl
@[simp] theorem count_cause (a k : Nat) : (s.count a k).cause = s.cause := rfl
@[simp] theorem count_pins (a k : Nat) : (s.count a k).pins = s.pins := rfl
@[simp] theorem count_power (a k : Nat) : (s.count a k).power = s.power := rfl
@[simp] theorem count_time (a k : Nat) : (s.count a k).time = s.time := rfl
@[simp] theorem count_mem (a k : Nat) : (s.count a k).mem = s.mem := rfl
@[simp] theorem count_synd (a k : Nat) : (s.count a k).synd = s.synd := rfl
@[simp] theorem count_sramErr (a k : Nat) : (s.count a k).sramErr = s.sramErr := rfl
@[simp] theorem count_hurt (a k : Nat) : (s.count a k).hurt = s.hurt := rfl
@[simp] theorem count_devWrites (a k : Nat) : (s.count a k).devWrites = s.devWrites := rfl
@[simp] theorem count_chipCache (a k : Nat) : (s.count a k).chipCache = s.chipCache := rfl
@[simp] theorem count_plains (a k : Nat) : (s.count a k).plains = s.plains := rfl
@[simp] theorem count_stackUnits (a k : Nat) : (s.count a k).stackUnits = s.stackUnits := rfl
@[simp] theorem count_cores (a k : Nat) : (s.count a k).cores = s.cores := rfl
@[simp] theorem count_ctxs (a k : Nat) : (s.count a k).ctxs = s.ctxs := rfl
@[simp] theorem count_walks (a k : Nat) : (s.count a k).walks = s.walks := rfl
@[simp] theorem count_parks (a k : Nat) : (s.count a k).parks = s.parks := rfl
@[simp] theorem count_cows (a k : Nat) : (s.count a k).cows = s.cows := rfl
@[simp] theorem count_invals (a k : Nat) : (s.count a k).invals = s.invals := rfl
@[simp] theorem count_hoists (a k : Nat) : (s.count a k).hoists = s.hoists := rfl
@[simp] theorem count_hoistSeq (a k : Nat) : (s.count a k).hoistSeq = s.hoistSeq := rfl
@[simp] theorem count_regions (a k : Nat) : (s.count a k).regions = s.regions := rfl
@[simp] theorem count_image (a k : Nat) : (s.count a k).image = s.image := rfl
@[simp] theorem count_load (a k : Nat) : (s.count a k).load = s.load := rfl
@[simp] theorem count_tackle (a k : Nat) : (s.count a k).tackle = s.tackle := rfl
@[simp] theorem count_ops (a k : Nat) : (s.count a k).ops = s.ops := rfl

@[simp] theorem count_up (a k : Nat) : (s.count a k).up = s.up := rfl
@[simp] theorem count_down (a k : Nat) : (s.count a k).down = s.down := rfl
@[simp] theorem count_stays (a k : Nat) : (s.count a k).stays = s.stays := rfl
@[simp] theorem count_ports (a k : Nat) : (s.count a k).ports = s.ports := rfl
@[simp] theorem count_qps (a k : Nat) : (s.count a k).qps = s.qps := rfl
@[simp] theorem count_opened (a k : Nat) : (s.count a k).opened = s.opened := rfl
@[simp] theorem count_addrs (a k : Nat) : (s.count a k).addrs = s.addrs := rfl
@[simp] theorem count_sessions (a k : Nat) : (s.count a k).sessions = s.sessions := rfl
@[simp] theorem count_shakes (a k : Nat) : (s.count a k).shakes = s.shakes := rfl
@[simp] theorem count_nextSession (a k : Nat) : (s.count a k).nextSession = s.nextSession := rfl
@[simp] theorem count_notes (a k : Nat) : (s.count a k).notes = s.notes := rfl
@[simp] theorem count_held (a k : Nat) : (s.count a k).held = s.held := rfl
@[simp] theorem count_step (a k : Nat) : (s.count a k).step = s.step := rfl
@[simp] theorem count_buffered (a k : Nat) : (s.count a k).buffered = s.buffered := rfl
@[simp] theorem count_flash (a k : Nat) : (s.count a k).flash = s.flash := rfl
@[simp] theorem count_masthead (a k : Nat) : (s.count a k).masthead = s.masthead := rfl
@[simp] theorem count_plumb (a k : Nat) : (s.count a k).plumb = s.plumb := rfl
@[simp] theorem count_enrollUntil (a k : Nat) : (s.count a k).enrollUntil = s.enrollUntil := rfl
@[simp] theorem count_windows (a k : Nat) : (s.count a k).windows = s.windows := rfl
@[simp] theorem count_telemSeq (a k : Nat) : (s.count a k).telemSeq = s.telemSeq := rfl
@[simp] theorem count_sent (a k : Nat) : (s.count a k).sent = s.sent := rfl
@[simp] theorem count_free (a k : Nat) : (s.count a k).free = s.free := rfl

/-! ### Readers over updates of other state -/

@[simp] theorem core_setReg (a : Nat) (v : Word) (n : Nat) : (s.setReg a v).core n = s.core n := by
  simp only [State.core, setReg_cores]
@[simp] theorem core_setRfld (a hi lo v : Nat) (n : Nat) : (s.setRfld a hi lo v).core n = s.core n := by
  simp only [State.core, State.setRfld, setReg_cores]
@[simp] theorem core_count (a k : Nat) (n : Nat) : (s.count a k).core n = s.core n := by
  simp only [State.core, State.count, setReg_cores]
@[simp] theorem core_flag (a f : Nat) (n : Nat) : (s.flag a f).core n = s.core n := by
  simp only [State.core, flag_cores]
@[simp] theorem core_setBytes (a : Nat) (bs : List Byte) (n : Nat) : (s.setBytes a bs).core n = s.core n := by
  simp only [State.core, setBytes_cores]
@[simp] theorem core_setCtx (c : Nat) (x : Ctx) (n : Nat) : (s.setCtx c x).core n = s.core n := by
  simp only [State.core, setCtx_cores]
@[simp] theorem core_setStay (k : Nat) (x : Stay) (n : Nat) : (s.setStay k x).core n = s.core n := by
  simp only [State.core, setStay_cores]
@[simp] theorem core_setPort (h : Nat) (x : Port) (n : Nat) : (s.setPort h x).core n = s.core n := by
  simp only [State.core, setPort_cores]
@[simp] theorem core_setQp (q : Nat) (x : Qp) (n : Nat) : (s.setQp q x).core n = s.core n := by
  simp only [State.core, setQp_cores]
@[simp] theorem core_setStack (k : Nat) (x : Stack) (n : Nat) : (s.setStack k x).core n = s.core n := by
  simp only [State.core, setStack_cores]
@[simp] theorem core_send (x : Sent) (n : Nat) : (s.send x).core n = s.core n := by
  simp only [State.core, send_cores]
@[simp] theorem ctx_setReg (a : Nat) (v : Word) (n : Nat) : (s.setReg a v).ctx n = s.ctx n := by
  simp only [State.ctx, setReg_ctxs]
@[simp] theorem ctx_setRfld (a hi lo v : Nat) (n : Nat) : (s.setRfld a hi lo v).ctx n = s.ctx n := by
  simp only [State.ctx, State.setRfld, setReg_ctxs]
@[simp] theorem ctx_count (a k : Nat) (n : Nat) : (s.count a k).ctx n = s.ctx n := by
  simp only [State.ctx, State.count, setReg_ctxs]
@[simp] theorem ctx_flag (a f : Nat) (n : Nat) : (s.flag a f).ctx n = s.ctx n := by
  simp only [State.ctx, flag_ctxs]
@[simp] theorem ctx_setBytes (a : Nat) (bs : List Byte) (n : Nat) : (s.setBytes a bs).ctx n = s.ctx n := by
  simp only [State.ctx, setBytes_ctxs]
@[simp] theorem ctx_setCore (k : Nat) (c : Core) (n : Nat) : (s.setCore k c).ctx n = s.ctx n := by
  simp only [State.ctx, setCore_ctxs]
@[simp] theorem ctx_setStay (k : Nat) (x : Stay) (n : Nat) : (s.setStay k x).ctx n = s.ctx n := by
  simp only [State.ctx, setStay_ctxs]
@[simp] theorem ctx_setPort (h : Nat) (x : Port) (n : Nat) : (s.setPort h x).ctx n = s.ctx n := by
  simp only [State.ctx, setPort_ctxs]
@[simp] theorem ctx_setQp (q : Nat) (x : Qp) (n : Nat) : (s.setQp q x).ctx n = s.ctx n := by
  simp only [State.ctx, setQp_ctxs]
@[simp] theorem ctx_setStack (k : Nat) (x : Stack) (n : Nat) : (s.setStack k x).ctx n = s.ctx n := by
  simp only [State.ctx, setStack_ctxs]
@[simp] theorem ctx_send (x : Sent) (n : Nat) : (s.send x).ctx n = s.ctx n := by
  simp only [State.ctx, send_ctxs]
@[simp] theorem stay_setReg (a : Nat) (v : Word) (n : Nat) : (s.setReg a v).stay n = s.stay n := by
  simp only [State.stay, setReg_stays]
@[simp] theorem stay_setRfld (a hi lo v : Nat) (n : Nat) : (s.setRfld a hi lo v).stay n = s.stay n := by
  simp only [State.stay, State.setRfld, setReg_stays]
@[simp] theorem stay_count (a k : Nat) (n : Nat) : (s.count a k).stay n = s.stay n := by
  simp only [State.stay, State.count, setReg_stays]
@[simp] theorem stay_flag (a f : Nat) (n : Nat) : (s.flag a f).stay n = s.stay n := by
  simp only [State.stay, flag_stays]
@[simp] theorem stay_setBytes (a : Nat) (bs : List Byte) (n : Nat) : (s.setBytes a bs).stay n = s.stay n := by
  simp only [State.stay, setBytes_stays]
@[simp] theorem stay_setCore (k : Nat) (c : Core) (n : Nat) : (s.setCore k c).stay n = s.stay n := by
  simp only [State.stay, setCore_stays]
@[simp] theorem stay_setCtx (c : Nat) (x : Ctx) (n : Nat) : (s.setCtx c x).stay n = s.stay n := by
  simp only [State.stay, setCtx_stays]
@[simp] theorem stay_setPort (h : Nat) (x : Port) (n : Nat) : (s.setPort h x).stay n = s.stay n := by
  simp only [State.stay, setPort_stays]
@[simp] theorem stay_setQp (q : Nat) (x : Qp) (n : Nat) : (s.setQp q x).stay n = s.stay n := by
  simp only [State.stay, setQp_stays]
@[simp] theorem stay_setStack (k : Nat) (x : Stack) (n : Nat) : (s.setStack k x).stay n = s.stay n := by
  simp only [State.stay, setStack_stays]
@[simp] theorem stay_send (x : Sent) (n : Nat) : (s.send x).stay n = s.stay n := by
  simp only [State.stay, send_stays]
@[simp] theorem port_setReg (a : Nat) (v : Word) (n : Nat) : (s.setReg a v).port n = s.port n := by
  simp only [State.port, setReg_ports]
@[simp] theorem port_setRfld (a hi lo v : Nat) (n : Nat) : (s.setRfld a hi lo v).port n = s.port n := by
  simp only [State.port, State.setRfld, setReg_ports]
@[simp] theorem port_count (a k : Nat) (n : Nat) : (s.count a k).port n = s.port n := by
  simp only [State.port, State.count, setReg_ports]
@[simp] theorem port_flag (a f : Nat) (n : Nat) : (s.flag a f).port n = s.port n := by
  simp only [State.port, flag_ports]
@[simp] theorem port_setBytes (a : Nat) (bs : List Byte) (n : Nat) : (s.setBytes a bs).port n = s.port n := by
  simp only [State.port, setBytes_ports]
@[simp] theorem port_setCore (k : Nat) (c : Core) (n : Nat) : (s.setCore k c).port n = s.port n := by
  simp only [State.port, setCore_ports]
@[simp] theorem port_setCtx (c : Nat) (x : Ctx) (n : Nat) : (s.setCtx c x).port n = s.port n := by
  simp only [State.port, setCtx_ports]
@[simp] theorem port_setStay (k : Nat) (x : Stay) (n : Nat) : (s.setStay k x).port n = s.port n := by
  simp only [State.port, setStay_ports]
@[simp] theorem port_setQp (q : Nat) (x : Qp) (n : Nat) : (s.setQp q x).port n = s.port n := by
  simp only [State.port, setQp_ports]
@[simp] theorem port_setStack (k : Nat) (x : Stack) (n : Nat) : (s.setStack k x).port n = s.port n := by
  simp only [State.port, setStack_ports]
@[simp] theorem port_send (x : Sent) (n : Nat) : (s.send x).port n = s.port n := by
  simp only [State.port, send_ports]
@[simp] theorem qp_setReg (a : Nat) (v : Word) (n : Nat) : (s.setReg a v).qp n = s.qp n := by
  simp only [State.qp, setReg_qps]
@[simp] theorem qp_setRfld (a hi lo v : Nat) (n : Nat) : (s.setRfld a hi lo v).qp n = s.qp n := by
  simp only [State.qp, State.setRfld, setReg_qps]
@[simp] theorem qp_count (a k : Nat) (n : Nat) : (s.count a k).qp n = s.qp n := by
  simp only [State.qp, State.count, setReg_qps]
@[simp] theorem qp_flag (a f : Nat) (n : Nat) : (s.flag a f).qp n = s.qp n := by
  simp only [State.qp, flag_qps]
@[simp] theorem qp_setBytes (a : Nat) (bs : List Byte) (n : Nat) : (s.setBytes a bs).qp n = s.qp n := by
  simp only [State.qp, setBytes_qps]
@[simp] theorem qp_setCore (k : Nat) (c : Core) (n : Nat) : (s.setCore k c).qp n = s.qp n := by
  simp only [State.qp, setCore_qps]
@[simp] theorem qp_setCtx (c : Nat) (x : Ctx) (n : Nat) : (s.setCtx c x).qp n = s.qp n := by
  simp only [State.qp, setCtx_qps]
@[simp] theorem qp_setStay (k : Nat) (x : Stay) (n : Nat) : (s.setStay k x).qp n = s.qp n := by
  simp only [State.qp, setStay_qps]
@[simp] theorem qp_setPort (h : Nat) (x : Port) (n : Nat) : (s.setPort h x).qp n = s.qp n := by
  simp only [State.qp, setPort_qps]
@[simp] theorem qp_setStack (k : Nat) (x : Stack) (n : Nat) : (s.setStack k x).qp n = s.qp n := by
  simp only [State.qp, setStack_qps]
@[simp] theorem qp_send (x : Sent) (n : Nat) : (s.send x).qp n = s.qp n := by
  simp only [State.qp, send_qps]
@[simp] theorem stack_setReg (a : Nat) (v : Word) (n : Nat) : (s.setReg a v).stack n = s.stack n := by
  simp only [State.stack, setReg_stackUnits]
@[simp] theorem stack_setRfld (a hi lo v : Nat) (n : Nat) : (s.setRfld a hi lo v).stack n = s.stack n := by
  simp only [State.stack, State.setRfld, setReg_stackUnits]
@[simp] theorem stack_count (a k : Nat) (n : Nat) : (s.count a k).stack n = s.stack n := by
  simp only [State.stack, State.count, setReg_stackUnits]
@[simp] theorem stack_flag (a f : Nat) (n : Nat) : (s.flag a f).stack n = s.stack n := by
  simp only [State.stack, flag_stackUnits]
@[simp] theorem stack_setBytes (a : Nat) (bs : List Byte) (n : Nat) : (s.setBytes a bs).stack n = s.stack n := by
  simp only [State.stack, setBytes_stackUnits]
@[simp] theorem stack_setCore (k : Nat) (c : Core) (n : Nat) : (s.setCore k c).stack n = s.stack n := by
  simp only [State.stack, setCore_stackUnits]
@[simp] theorem stack_setCtx (c : Nat) (x : Ctx) (n : Nat) : (s.setCtx c x).stack n = s.stack n := by
  simp only [State.stack, setCtx_stackUnits]
@[simp] theorem stack_setStay (k : Nat) (x : Stay) (n : Nat) : (s.setStay k x).stack n = s.stack n := by
  simp only [State.stack, setStay_stackUnits]
@[simp] theorem stack_setPort (h : Nat) (x : Port) (n : Nat) : (s.setPort h x).stack n = s.stack n := by
  simp only [State.stack, setPort_stackUnits]
@[simp] theorem stack_setQp (q : Nat) (x : Qp) (n : Nat) : (s.setQp q x).stack n = s.stack n := by
  simp only [State.stack, setQp_stackUnits]
@[simp] theorem stack_send (x : Sent) (n : Nat) : (s.send x).stack n = s.stack n := by
  simp only [State.stack, send_stackUnits]
@[simp] theorem reg_setBytes (a : Nat) (bs : List Byte) (n : Nat) : (s.setBytes a bs).reg n = s.reg n := by
  simp only [State.reg, setBytes_regs]
@[simp] theorem reg_setCore (k : Nat) (c : Core) (n : Nat) : (s.setCore k c).reg n = s.reg n := by
  simp only [State.reg, setCore_regs]
@[simp] theorem reg_setCtx (c : Nat) (x : Ctx) (n : Nat) : (s.setCtx c x).reg n = s.reg n := by
  simp only [State.reg, setCtx_regs]
@[simp] theorem reg_setStay (k : Nat) (x : Stay) (n : Nat) : (s.setStay k x).reg n = s.reg n := by
  simp only [State.reg, setStay_regs]
@[simp] theorem reg_setPort (h : Nat) (x : Port) (n : Nat) : (s.setPort h x).reg n = s.reg n := by
  simp only [State.reg, setPort_regs]
@[simp] theorem reg_setQp (q : Nat) (x : Qp) (n : Nat) : (s.setQp q x).reg n = s.reg n := by
  simp only [State.reg, setQp_regs]
@[simp] theorem reg_setStack (k : Nat) (x : Stack) (n : Nat) : (s.setStack k x).reg n = s.reg n := by
  simp only [State.reg, setStack_regs]
@[simp] theorem reg_send (x : Sent) (n : Nat) : (s.send x).reg n = s.reg n := by
  simp only [State.reg, send_regs]

end Sys2Proof.Machine.State
end

