-- ==== Sys2Proof/Laws/Memory.lean ====
section
/-! SUPPORT. Laws of memory: reading after writing, and the canonical form. -/
namespace Sys2Proof.Machine

theorem kget_putBytes_below (m : KMap Byte) (bs : List Byte) :
    ∀ (a j : Nat), j < a → kget 0 (putBytes m a bs) j = kget 0 m j := by
  induction bs generalizing m with
  | nil => intros; rfl
  | cons b r ih =>
    intro a j h
    rw [putBytes, ih _ (a + 1) j (by omega), kget_kset_ne _ _ _ _ (by omega)]

theorem kget_putBytes_above (m : KMap Byte) (bs : List Byte) :
    ∀ (a j : Nat), a + bs.length ≤ j → kget 0 (putBytes m a bs) j = kget 0 m j := by
  induction bs generalizing m with
  | nil => intros; rfl
  | cons b r ih =>
    intro a j h
    rw [List.length_cons] at h
    rw [putBytes, ih _ (a + 1) j (by omega), kget_kset_ne _ _ _ _ (by omega)]

theorem kget_putBytes_in (m : KMap Byte) (bs : List Byte) :
    ∀ (a i : Nat), (h : i < bs.length) → kget 0 (putBytes m a bs) (a + i) = bs[i] := by
  induction bs generalizing m with
  | nil => intro _ i h; exact absurd h (by simp)
  | cons b r ih =>
    intro a i h
    rw [putBytes]
    cases i with
    | zero =>
      rw [kget_putBytes_below _ _ _ _ (by omega)]
      exact kget_kset_same _ _ _ _
    | succ i =>
      rw [show a + (i + 1) = a + 1 + i by omega, ih _ (a + 1) i (by simpa using h)]
      rfl

/-- A read of the bytes just written gives them. -/
theorem State.bytes_setBytes_same (s : State) (a : Nat) (bs : List Byte) :
    (s.setBytes a bs).bytes a bs.length = bs := by
  unfold State.bytes State.setBytes
  apply List.ext_getElem
  · simp
  · intro i h1 h2
    simp only [List.getElem_map, List.getElem_range]
    exact kget_putBytes_in s.mem bs a i h2

/-- A write leaves every byte outside it alone. -/
theorem State.byte_setBytes_out (s : State) (a : Nat) (bs : List Byte) (j : Nat)
    (h : j < a ∨ a + bs.length ≤ j) : kget 0 (s.setBytes a bs).mem j = kget 0 s.mem j := by
  rcases h with h | h
  · exact kget_putBytes_below s.mem bs a j h
  · exact kget_putBytes_above s.mem bs a j h

theorem Memory.wf_putBytes (bs : List Byte) :
    ∀ (m : KMap Byte) (a : Nat), Memory.wf m = true → Memory.wf (putBytes m a bs) = true := by
  induction bs with
  | nil => intro m _ h; exact h
  | cons b r ih => intro m a h; exact ih _ _ (kwf_kset (fun _ => (0 : Byte)) m a b h)

theorem Memory.wf_setBytes (s : State) (a : Nat) (bs : List Byte) (h : Memory.wf s.mem = true) :
    Memory.wf (s.setBytes a bs).mem = true := wf_putBytes bs s.mem a h

theorem Memory.wf_filter (m : KMap Byte) (p : Nat × Byte → Bool) (h : Memory.wf m = true) :
    Memory.wf (m.filter p) = true := kwf_filter _ m p h

theorem Memory.wf_reset : Memory.wf State.reset.mem = true := rfl

end Sys2Proof.Machine
end

