-- ==== Sys2Proof/Laws/Inv.lean ====
section
/-! SUPPORT. What each shared operation does to the invariant of a run: most are quiet (they leave memory, the mode, FAULT_N,
the ledger and the enrolment window alone and keep the registers' form); the others keep `State.Inv` itself. -/
namespace Sys2Proof.Machine

/-! ## Quiet operations -/

/-- Nothing that `State.Inv` speaks of changed, and the registers keep their canonical form. -/
structure State.Quiet (s t : State) : Prop where
  mem    : t.mem = s.mem
  mode   : t.mode = s.mode
  faultN : t.pins.faultN = s.pins.faultN
  ledger : t.flash.ledger = s.flash.ledger
  window : t.enrollUntil = s.enrollUntil
  regs   : kwf regReset s.regs = true → kwf regReset t.regs = true

theorem State.Quiet.refl (s : State) : s.Quiet s := ⟨rfl, rfl, rfl, rfl, rfl, id⟩

theorem State.Quiet.trans {s t u : State} (h : s.Quiet t) (g : t.Quiet u) : s.Quiet u :=
  ⟨g.mem.trans h.mem, g.mode.trans h.mode, g.faultN.trans h.faultN, g.ledger.trans h.ledger,
    g.window.trans h.window, fun w => g.regs (h.regs w)⟩

/-- A quiet change keeps the invariant. -/
theorem State.Quiet.inv {s t : State} (h : s.Quiet t) (i : s.Inv) : t.Inv :=
  ⟨h.mem ▸ i.mem, h.regs i.regs, by rw [h.faultN, h.mode, i.faultN], h.ledger ▸ i.ledger,
    fun w => by rw [h.mode]; exact i.window (by rwa [← h.window])⟩

/-- Two updates of the same state that agree in what the invariant speaks of are quiet alike. -/
theorem State.Quiet.congr {s t u : State} (h : s.Quiet t) (e1 : u.mem = t.mem) (e2 : u.mode = t.mode)
    (e3 : u.pins.faultN = t.pins.faultN) (e4 : u.flash.ledger = t.flash.ledger)
    (e5 : u.enrollUntil = t.enrollUntil) (e6 : u.regs = t.regs) : s.Quiet u :=
  h.trans ⟨e1, e2, e3, e4, e5, fun w => e6 ▸ w⟩

/-- A run of quiet changes is quiet. -/
theorem State.Quiet.foldl {β : Type} {f : State → β → State} (hf : ∀ (s : State) (b : β), s.Quiet (f s b)) (l : List β) :
    ∀ s : State, s.Quiet (l.foldl f s) := by
  induction l with
  | nil => exact State.Quiet.refl
  | cons b r ih => exact fun s => (hf s b).trans (ih _)

/-- A run of changes that each keep the invariant keeps it. -/
theorem State.Inv.foldl {β : Type} {f : State → β → State} (hf : ∀ (s : State) (b : β), s.Inv → (f s b).Inv) (l : List β) :
    ∀ s : State, s.Inv → (l.foldl f s).Inv := by
  induction l with
  | nil => exact fun _ h => h
  | cons b r ih => exact fun s h => ih _ (hf s b h)

variable (s : State)

theorem State.quiet_setReg (a : Nat) (v : Word) : s.Quiet (s.setReg a v) :=
  ⟨rfl, rfl, rfl, rfl, rfl, fun h => kwf_kset regReset s.regs a v h⟩

theorem State.quiet_setRfld (a hi lo v : Nat) : s.Quiet (s.setRfld a hi lo v) := s.quiet_setReg a _

theorem State.quiet_count (a n : Nat) : s.Quiet (s.count a n) := s.quiet_setReg a _

theorem State.quiet_flag (a f : Nat) : s.Quiet (s.flag a f) := by
  unfold State.flag
  split
  · exact s.quiet_setReg a _
  · exact s.quiet_setReg a _

theorem State.quiet_setCore (n : Nat) (x : Core) : s.Quiet (s.setCore n x) := ⟨rfl, rfl, rfl, rfl, rfl, id⟩
theorem State.quiet_modCore (n : Nat) (f : Core → Core) : s.Quiet (s.modCore n f) := s.quiet_setCore n _
theorem State.quiet_setCtx (n : Nat) (x : Ctx) : s.Quiet (s.setCtx n x) := ⟨rfl, rfl, rfl, rfl, rfl, id⟩
theorem State.quiet_modCtx (n : Nat) (f : Ctx → Ctx) : s.Quiet (s.modCtx n f) := s.quiet_setCtx n _
theorem State.quiet_setStay (n : Nat) (x : Stay) : s.Quiet (s.setStay n x) := ⟨rfl, rfl, rfl, rfl, rfl, id⟩
theorem State.quiet_modStay (n : Nat) (f : Stay → Stay) : s.Quiet (s.modStay n f) := s.quiet_setStay n _
theorem State.quiet_setPort (n : Nat) (x : Port) : s.Quiet (s.setPort n x) := ⟨rfl, rfl, rfl, rfl, rfl, id⟩
theorem State.quiet_modPort (n : Nat) (f : Port → Port) : s.Quiet (s.modPort n f) := s.quiet_setPort n _
theorem State.quiet_setQp (n : Nat) (x : Qp) : s.Quiet (s.setQp n x) := ⟨rfl, rfl, rfl, rfl, rfl, id⟩
theorem State.quiet_modQp (n : Nat) (f : Qp → Qp) : s.Quiet (s.modQp n f) := s.quiet_setQp n _
theorem State.quiet_setStack (n : Nat) (x : Stack) : s.Quiet (s.setStack n x) := ⟨rfl, rfl, rfl, rfl, rfl, id⟩
theorem State.quiet_modStack (n : Nat) (f : Stack → Stack) : s.Quiet (s.modStack n f) := s.quiet_setStack n _
theorem State.quiet_send (x : Sent) : s.Quiet (s.send x) := ⟨rfl, rfl, rfl, rfl, rfl, id⟩
theorem State.quiet_takeFree : s.Quiet s.takeFree.2 := ⟨rfl, rfl, rfl, rfl, rfl, id⟩

/-! ## Messages -/

theorem State.quiet_gramOut (words : Nat) : s.Quiet (s.gramOut words) := by
  unfold State.gramOut
  exact ((s.quiet_takeFree.trans (State.quiet_takeFree _)).trans (State.quiet_count _ _ _)).trans
    (State.quiet_count _ _ _)

theorem State.quiet_notifySession (x : Session) (code : Nat) (ws : List Word) :
    s.Quiet (s.notifySession x code ws) := by
  unfold State.notifySession
  refine State.Quiet.trans ?_ (State.quiet_gramOut _ _)
  exact ⟨rfl, rfl, rfl, rfl, rfl, id⟩

theorem State.quiet_notifyWhere (p : Session → Bool) (code : Nat) (ws : List Word) :
    s.Quiet (s.notifyWhere p code ws) :=
  State.Quiet.foldl (f := fun t x => t.notifySession x code ws) (fun t x => t.quiet_notifySession x code ws) _ s

theorem State.quiet_answer (session seq tag code status : Nat) (ws : List Word) :
    s.Quiet (s.answer session seq tag code status ws) := ⟨rfl, rfl, rfl, rfl, rfl, id⟩

theorem State.quiet_mhRequest (member code : Nat) (ws : List Word) : s.Quiet (s.mhRequest member code ws) := by
  unfold State.mhRequest
  refine State.Quiet.trans ?_ (State.quiet_gramOut _ _)
  exact ⟨rfl, rfl, rfl, rfl, rfl, id⟩

theorem State.quiet_abandonLoad : s.Quiet s.abandonLoad := by
  unfold State.abandonLoad
  split
  · exact State.Quiet.refl s
  · refine State.Quiet.trans ?_ (State.quiet_flag _ _ _)
    exact ⟨rfl, rfl, rfl, rfl, rfl, id⟩

theorem State.quiet_transferCut : s.Quiet s.transferCut := by
  unfold State.transferCut
  extract_lets f
  split
  · exact s.quiet_takeFree.trans (State.quiet_abandonLoad _)
  · exact s.quiet_takeFree

theorem State.quiet_closeSession (id : Nat) : s.Quiet (s.closeSession id) := by
  unfold State.closeSession
  split
  · extract_lets a b
    have ha : s.Quiet a := ⟨rfl, rfl, rfl, rfl, rfl, fun w => w⟩
    have hb : s.Quiet b := ha.trans (a.quiet_flag _ _)
    clear_value b
    split
    · split
      · exact hb.trans b.quiet_transferCut
      · exact hb
    · exact hb
  · exact State.Quiet.refl s

/-! ## Events, faults, fences: recording buffers an entry and writes nothing to flash -/

theorem State.quiet_bufferAbsorbed (e : Ev) : s.Quiet (s.bufferAbsorbed e) := by
  unfold State.bufferAbsorbed
  split
  · refine State.Quiet.trans ?_ (State.quiet_count _ _ _)
    exact ⟨rfl, rfl, rfl, rfl, rfl, id⟩
  · split
    · exact (s.quiet_count _ _).trans (State.quiet_flag _ _ _)
    · exact ⟨rfl, rfl, rfl, rfl, rfl, id⟩

theorem State.quiet_record (e : Ev) : s.Quiet (s.record e) := by
  unfold State.record
  extract_lets t u v
  have ht : s.Quiet t := by
    unfold t
    split
    · exact (s.quiet_count _ _).trans (State.quiet_flag _ _ _)
    · exact State.Quiet.refl s
  have h2 : ∀ a f, t.Quiet ((t.count a 1).flag (bFault + 0x08) f) := fun a f =>
    (t.quiet_count _ _).trans (State.quiet_flag _ _ _)
  have hu : t.Quiet u := h2 _ _
  have hv : t.Quiet v := h2 _ _
  clear_value u v t
  refine ht.trans ?_
  split
  · exact (h2 _ _).trans (State.quiet_bufferAbsorbed _ _)
  · exact hu.trans ⟨rfl, rfl, rfl, rfl, rfl, id⟩
  · exact hv.trans ⟨rfl, rfl, rfl, rfl, rfl, id⟩
  · exact ⟨rfl, rfl, rfl, rfl, rfl, id⟩

theorem State.quiet_classify (ut u : Nat) : s.Quiet (s.classify ut u) := by
  unfold State.classify
  split
  · exact State.Quiet.refl s
  · exact (s.quiet_record _).trans (State.quiet_flag _ _ _)

theorem State.quiet_publishEntry (e : LedgerItem) : s.Quiet (s.publishEntry e) := s.quiet_notifyWhere _ _ _

theorem State.quiet_turnParks (c : Nat) : s.Quiet (s.turnParks c) := ⟨rfl, rfl, rfl, rfl, rfl, id⟩

theorem State.quiet_beginSave (c : Nat) : s.Quiet (s.beginSave c) := by
  unfold State.beginSave
  simp only
  split
  · split
    · exact (s.quiet_turnParks c).trans (State.quiet_setCtx _ _ _)
    · exact (s.quiet_setReg _ _).trans (State.quiet_setCtx _ _ _)
  · exact State.Quiet.refl s

theorem State.quiet_closeWindow (w : Nat) : s.Quiet (s.closeWindow w) := by
  unfold State.closeWindow
  split
  · refine State.Quiet.trans ?_ (State.quiet_beginSave _ _)
    exact ⟨rfl, rfl, rfl, rfl, rfl, id⟩
  · exact State.Quiet.refl s

theorem State.quiet_closeWindowsOf (c : Nat) : s.Quiet (s.closeWindowsOf c) :=
  State.Quiet.foldl (f := fun t w => t.closeWindow w) (fun t w => t.quiet_closeWindow w) _ s

theorem State.quiet_sayEnding (c : Nat) : s.Quiet (s.sayEnding c) :=
  State.Quiet.foldl (f := State.send) (fun t m => t.quiet_send m) _ s

theorem quiet_eachMe {f : State → Nat → State} (hf : ∀ (t : State) (e : Nat), t.Quiet (f t e)) (s : State) :
    s.Quiet (eachMe f s) :=
  State.Quiet.foldl (f := f) hf _ s

theorem State.quiet_countStream (n : Nat) (p : Pass) (stop : Nat) : s.Quiet (s.countStream n p stop) := by
  unfold State.countStream
  extract_lets fa fb fed a
  have ha : s.Quiet a := quiet_eachMe (fun t e => by
    split
    · exact t.quiet_count _ _
    · exact State.Quiet.refl t) s
  clear_value a
  exact ha.trans (State.quiet_count _ _ _)

theorem State.quiet_countStopped (n : Nat) (p : Pass → Bool) : s.Quiet (s.countStopped n p) :=
  State.Quiet.foldl (f := fun (t : State) q =>
      let f := t.takeFree
      f.2.countStream n q (q.kFrom + f.1 % (q.k - q.kFrom + 1)))
    (fun t _ => t.quiet_takeFree.trans (State.quiet_countStream _ _ _ _)) _ s

theorem State.quiet_countAllStopped : s.Quiet s.countAllStopped :=
  State.Quiet.foldl (f := fun (t : State) (x : Nat × Core) => t.countStopped x.1 (fun _ => true))
    (fun t _ => t.quiet_countStopped _ _) _ s

theorem State.quiet_dropWork (c : Nat) : s.Quiet (s.dropWork c) := by
  unfold State.dropWork
  extract_lets e a b
  have ha : s.Quiet a := ⟨rfl, rfl, rfl, rfl, rfl, id⟩
  have hb : s.Quiet b := ha.trans (a.quiet_sayEnding c)
  clear_value b
  exact hb.trans (State.Quiet.foldl (f := fun t n =>
      (t.countStopped n (fun p => p.ctx == c)).modCore n (fun k => k.dropCtx c))
    (fun t n => (t.quiet_countStopped n _).trans (State.quiet_modCore _ n _)) _ b)

theorem State.quiet_dropCtl (c : Nat) : s.Quiet (s.dropCtl c) := s.quiet_setReg _ _

theorem State.quiet_dropAllCtl : s.Quiet s.dropAllCtl :=
  State.Quiet.foldl (f := fun t c => t.dropCtl c) (fun t c => t.quiet_dropCtl c) _ s

theorem State.quiet_endAllContexts : s.Quiet s.endAllContexts := by
  unfold State.endAllContexts
  extract_lets a
  have ha : s.Quiet a := s.quiet_countAllStopped.trans (State.quiet_dropAllCtl _)
  clear_value a
  exact ha.trans ⟨rfl, rfl, rfl, rfl, rfl, id⟩

theorem State.quiet_linksDown : s.Quiet s.linksDown := by
  unfold State.linksDown
  extract_lets a
  have ha : s.Quiet a := ⟨rfl, rfl, rfl, rfl, rfl, id⟩
  clear_value a
  exact ha.trans (State.Quiet.foldl
    (f := fun t h => (t.setRfld (bPort h + 0x08) 1 0 0).setRfld (bPort h + 0x08) 4 3 3)
    (fun t h => (t.quiet_setRfld _ _ _ _).trans (State.quiet_setRfld _ _ _ _ _)) _ a)

theorem State.quiet_idle : s.Quiet s.idle := by
  unfold State.idle
  split
  · simp only
    split
    · exact ⟨rfl, rfl, rfl, rfl, rfl, id⟩
    · exact ⟨rfl, rfl, rfl, rfl, rfl, id⟩
  · exact State.Quiet.refl s

/-! ## Memory -/

theorem State.inv_setBytes (a : Nat) (bs : List Byte) (h : s.Inv) : (s.setBytes a bs).Inv :=
  ⟨Memory.wf_setBytes s a bs h.mem, h.regs, h.faultN, h.ledger, h.window⟩

theorem State.inv_putCode (cw : Nat) (d : List Byte) (z : Nat) (h : s.Inv) : (s.putCode cw d z).Inv :=
  ⟨Memory.wf_putBytes d s.mem (64 * cw) h.mem, h.regs, h.faultN, h.ledger, h.window⟩

/-! ## Device states -/

theorem State.quiet_stateChanged : s.Quiet s.stateChanged := by
  unfold State.stateChanged
  simp only
  split
  · exact (s.quiet_setRfld _ _ _ _).trans (State.quiet_setReg _ _ _)
  · exact (s.quiet_setRfld _ _ _ _).trans (State.quiet_setReg _ _ _)

theorem State.stateChanged_flash : s.stateChanged.flash = s.flash := by
  unfold State.stateChanged
  extract_lets a
  have ha : a.flash = s.flash := State.setRfld_flash s _ _ _ _
  clear_value a
  split
  · exact ha
  · exact ha

/-- R37: after `enter m` the module is in `m`. -/
theorem State.enter_mode (m : ModState) : (s.enter m).mode = m := by
  unfold State.enter
  split
  · assumption
  · rfl

/-- R535: FAULT_N after a change of state. -/
theorem State.enter_faultN (m : ModState) (h : s.pins.faultN = (s.mode != .faulted)) :
    (s.enter m).pins.faultN = (m != .faulted) := by
  unfold State.enter
  split
  · rename_i e; rw [h, e]
  · rfl

theorem State.enter_mem (m : ModState) : (s.enter m).mem = s.mem := by
  unfold State.enter
  split
  · rfl
  · exact s.quiet_stateChanged.mem

theorem State.enter_flash (m : ModState) : (s.enter m).flash = s.flash := by
  unfold State.enter
  split
  · rfl
  · exact s.stateChanged_flash

/-- Entering a state keeps the invariant. -/
theorem State.inv_enter (m : ModState) (h : s.Inv) : (s.enter m).Inv := by
  have hq := s.quiet_stateChanged
  refine ⟨by rw [enter_mem]; exact h.mem, ?_, by rw [enter_mode]; exact s.enter_faultN m h.faultN,
    by rw [enter_flash]; exact h.ledger, ?_⟩
  · unfold State.enter
    split
    · exact h.regs
    · exact hq.regs h.regs
  · unfold State.enter
    split
    · exact h.window
    · simp only
      split
      · intro w; exact absurd rfl w
      · rename_i r; intro w; exact absurd (h.window w) r

/-! ## Contained faults: a halt in progress may end with one (R33, R472) -/

theorem State.inv_haltDone (h : s.Inv) : s.haltDone.Inv := by
  unfold State.haltDone
  split
  · exact State.inv_enter _ _ ((s.quiet_setReg _ _).inv h)
  · exact h

theorem State.inv_ctxFault (c code : Nat) (d0 d1 : Word) (injected : Bool) (h : s.Inv) :
    (s.ctxFault c code d0 d1 injected).Inv := by
  unfold State.ctxFault
  extract_lets x a b d
  have ha : s.Quiet a := s.quiet_record _
  have hb : s.Quiet b := ha.trans (a.quiet_setCtx _ _)
  have hd : d.Inv := (hb.trans ((b.quiet_dropWork _).trans (State.quiet_dropCtl _ _))).inv h
  clear_value d x
  split
  · exact h
  · split
    · refine State.inv_haltDone _ ((State.quiet_closeWindowsOf _ _).inv ?_)
      exact ⟨hd.mem, hd.regs, hd.faultN, hd.ledger, hd.window⟩
    · split
      · exact State.inv_haltDone _ ⟨hd.mem, hd.regs, hd.faultN, hd.ledger, hd.window⟩
      · exact hd

theorem State.inv_stepFault (c : Nat) (stale : Bool) (h : s.Inv) : (s.stepFault c stale).Inv := by
  unfold State.stepFault
  split
  · exact ((State.quiet_count _ _ _).trans (State.quiet_flag _ _ _)).inv (s.inv_ctxFault _ _ _ _ _ h)
  · exact ((State.quiet_count _ _ _).trans (State.quiet_flag _ _ _)).inv (s.inv_ctxFault _ _ _ _ _ h)

theorem State.inv_fenceCore (n reason : Nat) (injected : Bool) (h : s.Inv) :
    (s.fenceCore n reason injected).Inv := by
  unfold State.fenceCore
  split
  · exact h
  · extract_lets a b hit d src e
    have ha : s.Quiet a := s.quiet_setReg _ _
    have hb : b.Inv := (ha.trans (a.quiet_record _)).inv h
    have hd : d.Inv := State.Inv.foldl
      (f := fun t c => t.ctxFault c 0x0F (BitVec.ofNat 64 n) 0 injected)
      (fun t c ht => t.inv_ctxFault _ _ _ _ _ ht) hit b hb
    clear_value d
    have he : e.Inv := ⟨hd.mem, hd.regs, hd.faultN, hd.ledger, hd.window⟩
    clear_value e
    exact ((e.quiet_countStopped n _).trans (State.quiet_modCore _ _ _)).inv he

/-! ## The ledger (R487) -/

theorem ledgerChain_tail {a : LedgerItem} {r : List LedgerItem} (h : ledgerChain (a :: r)) : ledgerChain r := by
  cases r with
  | nil => trivial
  | cons b r => exact h.2.2

theorem ledgerChain_drop_one {l : List LedgerItem} (h : ledgerChain l) : ledgerChain (l.drop 1) := by
  cases l with
  | nil => trivial
  | cons a r => exact ledgerChain_tail h

/-- An entry that follows the last one extends the chain. -/
theorem ledgerChain_append {l : List LedgerItem} {e : LedgerItem} (h : ledgerChain l)
    (he : ∀ p, l.getLast? = some p → e.seq = p.seq + 1 ∧ e.prev = ofLeBytes ((ledgerDigest p).take 8)) :
    ledgerChain (l ++ [e]) := by
  induction l with
  | nil => trivial
  | cons a r ih =>
    cases r with
    | nil => exact ⟨(he a rfl).1, (he a rfl).2, trivial⟩
    | cons b r =>
      exact ⟨h.1, h.2.1, ih h.2.2 (fun p hp => he p (by rw [List.getLast?_cons_cons]; exact hp))⟩

/-- R487: writing a stamped entry keeps the chain. -/
theorem ledgerChain_push (f : Flash) (e : LedgerItem) (h : ledgerChain f.ledger) :
    ledgerChain (ringPush f.ledger (f.stamp e)) := by
  have hc : ledgerChain (f.ledger ++ [f.stamp e]) := by
    refine ledgerChain_append h (fun p hp => ?_)
    unfold Flash.stamp lastOf
    rw [hp]
    exact ⟨rfl, rfl⟩
  unfold ringPush
  simp only
  split
  · exact ledgerChain_drop_one hc
  · exact hc

theorem State.inv_writeEntry (e : LedgerItem) (h : s.Inv) : (s.writeEntry e).Inv := by
  have h1 : State.Inv { s with flash := { s.flash with ledger := ringPush s.flash.ledger (s.flash.stamp e) } } :=
    ⟨h.mem, h.regs, h.faultN, ledgerChain_push s.flash e h.ledger, h.window⟩
  unfold State.writeEntry
  simp only
  have h2 := ((State.quiet_count _ (bFault + 0x118) 1).trans
    (State.quiet_publishEntry _ (s.flash.stamp e))).inv h1
  split
  · exact (State.quiet_classify _ _ _).inv h2
  · exact h2

theorem State.inv_flushLedger (h : s.Inv) : s.flushLedger.Inv := by
  unfold State.flushLedger
  exact State.Inv.foldl (f := fun (t : State) (b : Buffered) => t.writeEntry b.item)
    (fun t b ht => t.inv_writeEntry b.item ht) s.buffered _ ⟨h.mem, h.regs, h.faultN, h.ledger, h.window⟩

/-! ## Module-class events and resets -/

theorem State.inv_moduleEvent (cause kind : Nat) (injected : Bool) (h : s.Inv) :
    (s.moduleEvent cause kind injected).Inv := by
  unfold State.moduleEvent
  extract_lets a b x d
  split
  · exact h
  · split
    · exact State.inv_flushLedger _ ((s.quiet_record _).inv h)
    · have ha : a.Inv := (s.quiet_record _).inv h
      have hb : b.Inv := (((a.quiet_endAllContexts).trans (State.quiet_linksDown _)).trans (State.quiet_setReg _ _ _)).inv ha
      clear_value b
      have hd : d.Inv := ⟨hb.mem, hb.regs, hb.faultN, hb.ledger, hb.window⟩
      exact State.inv_enter _ _ (State.inv_flushLedger _ hd)

/-- R12: what a module reset leaves of the registers keeps their canonical form. -/
theorem kwf_resetRegs (m : KMap Word) (h : kwf regReset m = true) : kwf regReset (resetRegs m) = true := by
  rw [kwf_iff] at *
  unfold resetRegs
  refine ⟨ksorted_filterMap m _ ?_ h.1, ?_⟩
  · intro p q hq
    split at hq
    · cases hq
    · simp only at hq
      split at hq
      · cases hq
      · cases hq; rfl
  · intro q hq
    obtain ⟨p, -, hp⟩ := List.mem_filterMap.mp hq
    split at hp
    · cases hp
    · rename_i r hr
      simp only at hp
      split at hp
      · cases hp
      · rename_i hne
        cases hp
        simp only [regReset, hr]
        exact hne

theorem State.inv_moduleReset (h : s.Inv) : s.moduleReset.Inv := by
  have ht := State.inv_enter s.countAllStopped .powering (s.quiet_countAllStopped.inv h)
  unfold State.moduleReset
  exact ⟨ht.mem, kwf_resetRegs _ ht.regs, rfl, ht.ledger, fun w => absurd rfl w⟩

/-- R37, R543: power-up keeps of the module only its flash, pins and what a test bench sees of it. -/
theorem State.inv_powerUp (h : s.Inv) : s.powerUp.Inv := by
  unfold State.powerUp
  exact ⟨rfl, rfl, rfl, h.ledger, fun w => absurd rfl w⟩

/-- R37, R544: power-down too. -/
theorem State.inv_powerDown (h : s.Inv) : s.powerDown.Inv := by
  unfold State.powerDown
  exact ⟨rfl, rfl, rfl, h.ledger, fun w => absurd rfl w⟩

/-- R553: writing a boot record changes no ledger entry. -/
theorem Flash.writeBoot_ledger (f : Flash) (r : BootRec) : (f.writeBoot r).ledger = f.ledger := by
  unfold Flash.writeBoot
  split <;> rfl

/-- R554: booting keeps the invariant. -/
theorem State.inv_bootRom (h : s.Inv) : s.bootRom.Inv := by
  have hl : s.flash.trialStep.ledger = s.flash.ledger := by
    unfold Flash.trialStep
    extract_lets r g
    split
    · exact s.flash.writeBoot_ledger _
    · split
      · exact s.flash.writeBoot_ledger _
      · rfl
  have hf : ∀ x : Flash, x.ledger = s.flash.ledger → State.Inv { s with flash := x } := fun x e =>
    ⟨h.mem, h.regs, h.faultN, e ▸ h.ledger, h.window⟩
  unfold State.bootRom
  extract_lets f p a
  split
  · split
    · exact hf _ hl
    · split
      · exact hf _ hl
      · have ha : a.Inv := hf _ hl
        have he := a.inv_enter .faulted ha
        exact ⟨he.mem, he.regs, he.faultN, he.ledger, he.window⟩
  · exact h

theorem State.inv_leakCheck (h : s.Inv) : s.leakCheck.Inv := by
  unfold State.leakCheck
  split
  · exact h
  · exact s.inv_moduleEvent 5 0x4C false h

end Sys2Proof.Machine
end

