-- ==== Sys2Proof/Laws/MemInv.lean ====
section
/-! SUPPORT. The memory operations and the invariant of a run: codeword and SRAM reads and writes, the chip cache, the core
cache and the copies inside a stack all keep it. -/
namespace Sys2Proof.Machine.State

variable (s : State)

/-! ## Codewords -/

theorem quiet_logStack (k : Nat) (log : Word) : s.Quiet (s.logStack k log) :=
  (s.quiet_setReg _ _).trans (quiet_setReg _ _ _)

theorem quiet_noteWrite (cw : Nat) : s.Quiet (s.noteWrite cw) := by
  unfold noteWrite
  extract_lets k
  split
  · exact Quiet.refl s
  · exact s.quiet_modStack _ _

/-- R216, R218: reading a codeword, with its logs, counts, records and write-back. -/
theorem inv_readCode (cw source : Nat) (h : s.Inv) : (s.readCode cw source).2.Inv := by
  have flags : ∀ (t : State) (b f g : Nat), t.Quiet
      (if source = 0 then t.flag b f else if source = 1 then t.flag b g else t) := by
    intro t b f g
    split
    · exact t.quiet_flag _ _
    · split
      · exact t.quiet_flag _ _
      · exact Quiet.refl t
  have cc : ∀ (t : State) (a b k : Nat) (log : Word), t.Quiet (((t.count a 1).count b 1).logStack k log) :=
    fun t a b k log => ((t.quiet_count _ _).trans (quiet_count _ _ _)).trans (quiet_logStack _ _ _)
  unfold readCode
  simp only
  generalize s.bytes (64 * cw) 64 = d
  generalize s.hurt.contains cw = inj
  have h1 := (s.quiet_count (bStack (paStack (64 * cw)) + 0x100) 1).inv h
  revert h1
  generalize s.count (bStack (paStack (64 * cw)) + 0x100) 1 = t
  intro h1
  split
  · exact h1
  · exact inv_putCode _ _ _ _ ((((cc t _ _ _ _).trans (flags _ _ _ _)).trans (quiet_record _ _)).inv h1)
  · exact (((t.quiet_count _ _).trans (quiet_logStack _ _ _)).trans (quiet_flag _ _ _)).inv h1
  · exact inv_putCode _ _ _ _ (((cc t _ _ _ _).trans (quiet_flag _ _ _)).inv h1)
  · exact inv_putCode _ _ _ _ ((((cc t _ _ _ _).trans (flags _ _ _ _)).trans (quiet_record _ _)).inv h1)

theorem inv_writeCode (cw : Nat) (d : List Byte) (poison : Bool) (h : s.Inv) : (s.writeCode cw d poison).Inv := by
  unfold writeCode
  exact inv_putCode _ _ _ _ (((s.quiet_noteWrite cw).trans (quiet_count _ _ _)).inv h)

theorem inv_writeMasked (cw : Nat) (d : List Byte) (mask : Nat) (poison : Bool) (h : s.Inv) :
    (s.writeMasked cw d mask poison).Inv := by
  unfold writeMasked
  split
  · exact s.inv_writeCode _ _ _ h
  · exact inv_writeCode _ _ _ _ (s.inv_readCode cw 2 h)

/-! ## On-die SRAM and the core store -/

theorem quiet_setSramMask (key e : Nat) : s.Quiet (s.setSramMask key e) := ⟨rfl, rfl, rfl, rfl, rfl, id⟩

theorem quiet_freshWords (target unit lo k : Nat) : s.Quiet (s.freshWords target unit lo k) :=
  ⟨rfl, rfl, rfl, rfl, rfl, id⟩

theorem quiet_sramEvent (target unit word : Nat) (ue : Bool) : s.Quiet (s.sramEvent target unit word ue) := by
  unfold sramEvent
  extract_lets inj t
  have ht : s.Quiet t := s.quiet_record _
  clear_value t
  refine ht.trans ?_
  split
  · split
    · exact (t.quiet_count _ _).trans (quiet_flag _ _ _)
    · exact (t.quiet_count _ _).trans (quiet_flag _ _ _)
  · exact t.quiet_count _ _
  · exact Quiet.refl t

theorem quiet_sramRead (target unit word x : Nat) : s.Quiet (s.sramRead target unit word x).2 := by
  unfold sramRead
  extract_lets key e
  split
  · exact Quiet.refl s
  · exact Quiet.refl s
  · exact (s.quiet_sramEvent _ _ _ _).trans (quiet_setSramMask _ _ _)
  · exact (s.quiet_sramEvent _ _ _ _).trans (quiet_setSramMask _ _ _)

theorem quiet_hurtWords (target unit : Nat) : s.Quiet (s.hurtWords target unit).2 := by
  unfold hurtWords
  have go : ∀ (l : List (Nat × Nat)) (a : Bool × State), s.Quiet a.2 →
      s.Quiet (l.foldl (fun (a : Bool × State) e =>
        match classifySram e.2 with
        | .clean => a
        | .poisoned => (true, a.2.setSramMask e.1 0)
        | .corrected _ => (a.1, (a.2.sramEvent target unit (e.1 % 2 ^ 21) false).setSramMask e.1 0)
        | .uncorrectable => (true, (a.2.sramEvent target unit (e.1 % 2 ^ 21) true).setSramMask e.1 0)) a).2 := by
    intro l
    induction l with
    | nil => exact fun _ ha => ha
    | cons e r ih =>
      intro a ha
      refine ih _ ?_
      dsimp only
      split
      · exact ha
      · exact ha.trans (quiet_setSramMask _ _ _)
      · exact ha.trans ((quiet_sramEvent _ _ _ _ _).trans (quiet_setSramMask _ _ _))
      · exact ha.trans ((quiet_sramEvent _ _ _ _ _).trans (quiet_setSramMask _ _ _))
  exact go _ _ (Quiet.refl s)

theorem quiet_meshWord (route : List Nat) (bs : List PByte) : s.Quiet (s.meshWord route bs).2 := by
  unfold meshWord
  split
  · exact Quiet.refl s
  · exact s.quiet_setSramMask _ _

theorem quiet_csWord (n w : Nat) : s.Quiet (s.csWord n w).2 := s.quiet_sramRead _ _ _ _

theorem quiet_csWords (n : Nat) : ∀ (k : Nat) (s : State) (w : Nat), s.Quiet (s.csWords n w k).2
  | 0, s, _ => Quiet.refl s
  | k + 1, s, w => (s.quiet_csWord n w).trans (quiet_csWords n k _ (w + 1))

/-- R219: reading a core store counts and records, and changes no stored byte. -/
theorem quiet_csRead (n off len : Nat) : s.Quiet (s.csRead n off len).2 := by
  unfold csRead
  split
  · exact Quiet.refl s
  · exact quiet_csWords n _ s _

theorem inv_csWriteWord (n w at_ : Nat) (bs : List PByte) (h : s.Inv) : (s.csWriteWord n w at_ bs).Inv := by
  unfold csWriteWord
  extract_lets key pz r old
  split
  · exact (quiet_setSramMask _ _ _).inv (s.inv_setBytes _ _ h)
  · exact (quiet_setSramMask _ _ _).inv (inv_setBytes _ _ _ ((s.quiet_csWord n w).inv h))

theorem inv_csWriteN (n : Nat) : ∀ (k : Nat) (s : State) (off : Nat) (bs : List PByte), s.Inv →
    (s.csWriteN n k off bs).Inv
  | 0, _, _, _, h => h
  | k + 1, s, off, bs, h => by
    unfold csWriteN
    split
    · exact h
    · exact inv_csWriteN n k _ _ _ (s.inv_csWriteWord _ _ _ _ h)

theorem quiet_rewritten (n : Nat) (ws : List (Nat × Nat)) : s.Quiet (s.rewritten n ws) := by
  unfold rewritten
  split
  · exact Quiet.refl s
  · exact s.quiet_modCore n _

theorem inv_csWrite (n off : Nat) (bs : List PByte) (h : s.Inv) : (s.csWrite n off bs).Inv :=
  inv_csWriteN n _ _ _ _ ((s.quiet_rewritten n _).inv h)

theorem quiet_watchWrite (lo hi : Nat) : s.Quiet (s.watchWrite lo hi) := by
  unfold watchWrite
  extract_lets hit n t
  split
  · exact Quiet.refl s
  · have ht : s.Quiet t := ⟨rfl, rfl, rfl, rfl, rfl, id⟩
    exact ht.trans ((quiet_count _ _ _).trans (quiet_flag _ _ _))

/-! ## The chip cache -/

theorem quiet_setLines (key : Nat) (ls : List CLine) : s.Quiet (s.setLines key ls) := ⟨rfl, rfl, rfl, rfl, rfl, id⟩
theorem quiet_putLine (l : CLine) : s.Quiet (s.putLine l) := s.quiet_setLines _ _
theorem quiet_dropLine (line : Nat) : s.Quiet (s.dropLine line) := s.quiet_setLines _ _

theorem quiet_lineScan : ∀ (k : Nat) (s : State) (l : CLine) (w : Nat), s.Quiet (s.lineScan l w k).2
  | 0, s, _, _ => Quiet.refl s
  | k + 1, s, l, w => by
    unfold lineScan
    extract_lets pa key x t r l'
    split
    · exact quiet_lineScan k s l (w + 1)
    · have ht : s.Quiet t := by
        unfold t
        split
        · exact ⟨rfl, rfl, rfl, rfl, rfl, id⟩
        · exact Quiet.refl s
      exact ((ht.trans (t.quiet_sramRead _ _ _ _)).trans (quiet_setSramMask _ _ _)).trans (quiet_lineScan k _ _ _)

theorem inv_demandCode (cw : Nat) (h : s.Inv) : (s.demandCode cw).2.Inv := by
  unfold demandCode
  split
  · exact h
  · exact s.inv_readCode _ _ h

theorem inv_fetchPart (line lo k : Nat) (h : s.Inv) : (s.fetchPart line lo k).2.Inv := by
  unfold fetchPart
  have go : ∀ (l : List Nat) (a : (List Byte × List Bool) × State), a.2.Inv →
      (l.foldl (fun a i =>
        let r := if lo ≤ i ∧ i < lo + k then a.2.demandCode (4 * line + i) else ((List.replicate 64 0, false), a.2)
        ((a.1.1 ++ r.1.1, a.1.2 ++ List.replicate 8 r.1.2), r.2)) a).2.Inv := by
    intro l
    induction l with
    | nil => exact fun _ ha => ha
    | cons i r ih =>
      intro a ha
      refine ih _ ?_
      dsimp only
      split
      · exact a.2.inv_demandCode _ ha
      · exact ha
  exact go _ _ h

theorem inv_fetchLine (line : Nat) (h : s.Inv) : (s.fetchLine line).2.Inv := s.inv_fetchPart line 0 4 h

theorem inv_writeBack (l : CLine) (h : s.Inv) : (s.writeBack l).Inv := by
  unfold writeBack
  extract_lets r t
  have ht : t.Inv := ((quiet_lineScan 32 s l 0).trans (quiet_count _ _ _)).inv h
  clear_value t
  exact Inv.foldl (fun u i hu => u.inv_writeCode _ _ _ hu) _ t ht

theorem quiet_lineFix (l : CLine) (o n : Nat) : s.Quiet (s.lineFix l o n).2 := by
  unfold lineFix
  extract_lets pa w0 w1 a b
  have ha : s.Quiet a.2 := by
    unfold a
    split
    · exact Quiet.refl s
    · exact quiet_lineScan _ _ _ _
  have hb : s.Quiet b.2 := by
    unfold b
    split
    · exact ha
    · exact ha.trans (quiet_lineScan _ _ _ _)
  exact hb.trans (quiet_freshWords _ _ _ _ _)

theorem quiet_loseHoist (order : Nat) : s.Quiet (s.loseHoist order) := ⟨rfl, rfl, rfl, rfl, rfl, id⟩

theorem inv_evict (v : CLine) (h : s.Inv) : (s.evict v).Inv := by
  unfold evict
  split
  · exact (s.quiet_loseHoist _).inv h
  · split
    · exact s.inv_writeBack _ h
    · exact h

theorem inv_install (c line : Nat) (dirty : Bool) (data : List Byte) (poison : List Bool) (hoist : Option (Nat × Nat))
    (h : s.Inv) : (s.install c line dirty data poison hoist).Inv := by
  have hf := s.quiet_takeFree.inv h
  unfold install
  extract_lets key held mk
  split
  · split
    · exact s.inv_evict _ h
    · exact h
  · split
    · exact ((s.quiet_freshWords _ _ _ _).trans (quiet_setLines _ _ _)).inv h
    · refine ((quiet_freshWords _ _ _ _ _).trans (quiet_setLines _ _ _)).inv ?_
      split
      · exact inv_evict _ _ hf
      · exact hf

theorem inv_readInLine (c policy pa n : Nat) (h : s.Inv) : (s.readInLine c policy pa n).2.Inv := by
  unfold readInLine
  extract_lets line o cnt u
  split
  · exact (((s.quiet_count _ _).trans (quiet_lineScan _ _ _ _)).trans (quiet_putLine _ _)).inv h
  · have hu : u.Inv := (s.quiet_count _ _).inv h
    clear_value u
    split
    · exact u.inv_fetchPart _ _ _ hu
    · exact inv_install _ _ _ _ _ _ _ (u.inv_fetchLine _ hu)

theorem inv_writeInLine (c policy pa : Nat) (bs : List PByte) (h : s.Inv) : (s.writeInLine c policy pa bs).Inv := by
  unfold writeInLine
  simp only
  have h1 := (s.quiet_watchWrite pa (pa + bs.length)).inv h
  revert h1
  generalize s.watchWrite pa (pa + bs.length) = t
  intro h1
  split
  · exact (((t.quiet_count _ _).trans (quiet_lineFix _ _ _ _)).trans (quiet_putLine _ _)).inv h1
  · have h2 := (t.quiet_count (bCache + 0x1000 + paSlice pa * 0x100 + 8) 1).inv h1
    revert h2
    generalize t.count (bCache + 0x1000 + paSlice pa * 0x100 + 8) 1 = u
    intro h2
    split
    · refine Inv.foldl (fun v i hv => ?_) _ u h2
      split
      · exact hv
      · exact v.inv_writeMasked _ _ _ _ hv
    · split
      · exact u.inv_install _ _ _ _ _ _ h2
      · exact inv_install _ _ _ _ _ _ _ (u.inv_fetchLine _ h2)

theorem inv_readPaN (c policy : Nat) : ∀ (k : Nat) (s : State) (pa n : Nat), s.Inv →
    (s.readPaN c policy k pa n).2.Inv
  | 0, _, _, _, h => h
  | k + 1, s, pa, n, h => by
    unfold readPaN
    split
    · exact h
    · exact inv_readPaN c policy k _ _ _ (s.inv_readInLine _ _ _ _ h)

theorem inv_readPa (c policy pa n : Nat) (h : s.Inv) : (s.readPa c policy pa n).2.Inv := inv_readPaN c policy _ s _ _ h

theorem inv_writePaN (c policy : Nat) : ∀ (k : Nat) (s : State) (pa : Nat) (bs : List PByte), s.Inv →
    (s.writePaN c policy k pa bs).Inv
  | 0, _, _, _, h => h
  | k + 1, s, pa, bs, h => by
    unfold writePaN
    split
    · exact h
    · exact inv_writePaN c policy k _ _ _ (s.inv_writeInLine _ _ _ _ h)

theorem inv_writePa (c policy pa : Nat) (bs : List PByte) (h : s.Inv) : (s.writePa c policy pa bs).Inv :=
  inv_writePaN c policy _ s _ _ h

theorem inv_readWordPa (c pa : Nat) (h : s.Inv) : (s.readWordPa c pa).2.Inv := s.inv_readPa c 1 pa 8 h

theorem inv_writeWordPa (c pa : Nat) (w : Word) (h : s.Inv) : (s.writeWordPa c pa w).Inv := s.inv_writePa c 1 pa _ h

theorem inv_flushRange (lo hi : Nat) (h : s.Inv) : (s.flushRange lo hi).Inv := by
  unfold flushRange
  refine Inv.foldl (fun t e ht => Inv.foldl (fun u l hu => (quiet_dropLine _ _).inv ?_) _ t ht) _ s h
  split
  · exact u.inv_writeBack l hu
  · exact hu

/-! ## The core cache -/

theorem quiet_kScan (n : Nat) : ∀ (k : Nat) (s : State) (l : KLine) (w : Nat), s.Quiet (s.kScan n l w k).2
  | 0, s, _, _ => Quiet.refl s
  | k + 1, s, l, w => by
    unfold kScan
    extract_lets word key own e shown
    split
    · exact quiet_kScan n k s _ _
    · split
      · exact quiet_kScan n k s _ _
      · exact quiet_kScan n k s _ _
      · exact ((s.quiet_sramEvent _ _ _ _).trans (quiet_setSramMask _ _ _)).trans (quiet_kScan n k _ _ _)
      · exact (s.quiet_sramEvent _ _ _ _).trans (quiet_setSramMask _ _ _)

theorem inv_fillKLine (n c pa : Nat) (h : s.Inv) : (s.fillKLine n c pa).2.Inv := by
  unfold fillKLine
  extract_lets line set f data poison held put g
  have hf : f.2.Inv := s.inv_readPa _ _ _ _ h
  have hput : ∀ (t : State) (w : Nat), t.Quiet (put t w) := fun t w =>
    (t.quiet_freshWords _ _ _ _).trans (quiet_modCore _ _ _)
  split
  · exact (hput _ _).inv hf
  · exact ((quiet_takeFree _).trans (hput _ _)).inv hf

theorem inv_loadInKLine (n c pa m : Nat) (h : s.Inv) : (s.loadInKLine n c pa m).2.Inv := by
  unfold loadInKLine
  extract_lets o miss
  have hm : ∀ t : State, t.Inv → (miss t).2.Inv := fun t ht => inv_fillKLine _ _ _ _ (((t.quiet_modCore _ _).trans (quiet_count _ _ _)).inv ht)
  clear_value miss
  split
  · exact hm s h
  · extract_lets r
    have hr : r.2.Inv := ((s.quiet_count _ _).trans (quiet_kScan _ _ _ _ _)).inv h
    clear_value r
    split
    · exact hm _ ((quiet_flag _ _ _).inv hr)
    · exact hr

theorem inv_loadPaN (n c : Nat) : ∀ (k : Nat) (s : State) (pa len : Nat), s.Inv → (s.loadPaN n c k pa len).2.Inv
  | 0, _, _, _, h => h
  | k + 1, s, pa, len, h => by
    unfold loadPaN
    split
    · exact h
    · exact inv_loadPaN n c k _ _ _ (s.inv_loadInKLine _ _ _ _ h)

theorem inv_loadPa (n c policy pa len : Nat) (h : s.Inv) : (s.loadPa n c policy pa len).2.Inv := by
  unfold loadPa
  split
  · exact inv_loadPaN n c _ s _ _ h
  · exact s.inv_readPa _ _ _ _ h

theorem quiet_setKLine (n line : Nat) (x : Option KLine) : s.Quiet (s.setKLine n line x) := s.quiet_modCore n _

theorem quiet_putKLine (n : Nat) (l : KLine) (o : Nat) (bs : List PByte) : s.Quiet (s.putKLine n l o bs) := by
  unfold putKLine
  extract_lets w0 w1 a b m
  have ha : s.Quiet a.2 := by
    unfold a
    split
    · exact Quiet.refl s
    · exact quiet_kScan _ _ _ _ _
  have hb : s.Quiet b.2 := by
    unfold b
    split
    · exact ha
    · exact ha.trans (quiet_kScan _ _ _ _ _)
  split
  · exact (hb.trans (quiet_flag _ _ _)).trans (quiet_setKLine _ _ _ _)
  · exact (hb.trans (quiet_freshWords _ _ _ _ _)).trans (quiet_setKLine _ _ _ _)

theorem inv_storePa (n c policy pa : Nat) (bs : List PByte) (h : s.Inv) : (s.storePa n c policy pa bs).Inv := by
  unfold storePa
  extract_lets hi ls
  exact inv_writePa _ _ _ _ _ (Quiet.inv (Quiet.foldl (fun t l => t.quiet_putKLine _ _ _ _) ls s) h)

theorem quiet_acquire (n : Nat) : s.Quiet (s.acquire n) := (s.quiet_modCore _ _).trans (quiet_count _ _ _)

/-! ## Copying inside a stack -/

theorem inv_copyCodes : ∀ (k : Nat) (s : State) (src dst : Nat), s.Inv → (s.copyCodes src dst k).Inv
  | 0, _, _, _, h => h
  | k + 1, s, src, _, h => inv_copyCodes k _ _ _ (inv_writeCode _ _ _ _ (s.inv_readCode src 3 h))

theorem inv_zeroCodes : ∀ (k : Nat) (s : State) (dst : Nat), s.Inv → (s.zeroCodes dst k).Inv
  | 0, _, _, h => h
  | k + 1, s, _, h => inv_zeroCodes k _ _ (s.inv_writeCode _ _ _ h)

theorem inv_stackCopy (src dst units : Nat) (h : s.Inv) : (s.stackCopy src dst units).Inv := by
  unfold stackCopy
  exact (quiet_count _ _ _).inv (inv_copyCodes _ _ _ _
    ((quiet_watchWrite _ _ _).inv (inv_flushRange _ _ _ (s.inv_flushRange _ _ h))))

theorem inv_fillZero (dst units : Nat) (h : s.Inv) : (s.fillZero dst units).Inv := by
  unfold fillZero
  exact (quiet_count _ _ _).inv (inv_zeroCodes _ _ _ ((quiet_watchWrite _ _ _).inv (s.inv_flushRange _ _ h)))

end Sys2Proof.Machine.State
end

