-- ==== Sys2Proof/Laws/Track.lean ====
section
/-! SUPPORT. Laws of the track: what the operations on a direction's buffers and credits can do. -/
namespace Sys2Proof.Machine
namespace State
variable (s : State)

@[simp] theorem setDir_dir (d : Bool) (x : TrackDir) : (s.setDir d x).dir d = x := by cases d <;> rfl
@[simp] theorem setDir_dir_not (d : Bool) (x : TrackDir) : (s.setDir d x).dir (!d) = s.dir (!d) := by cases d <;> rfl
@[simp] theorem setDir_regs (d : Bool) (x : TrackDir) : (s.setDir d x).regs = s.regs := by cases d <;> rfl
@[simp] theorem setDir_mem (d : Bool) (x : TrackDir) : (s.setDir d x).mem = s.mem := by cases d <;> rfl
@[simp] theorem setDir_image (d : Bool) (x : TrackDir) : (s.setDir d x).image = s.image := by cases d <;> rfl

/-- R179: credits only move from those owed to those at hand; nothing else of the direction, and no register, changes. -/
theorem creditBack_dir (d : Bool) : ∃ k, k ≤ (s.dir d).owed ∧
    (s.creditBack d).dir d = { s.dir d with credits := (s.dir d).credits + k, owed := (s.dir d).owed - k } ∧
    (s.creditBack d).dir (!d) = s.dir (!d) ∧ (s.creditBack d).regs = s.regs ∧ (s.creditBack d).image = s.image := by
  refine ⟨Config.freeValue s.free % ((s.dir d).owed + 1), Nat.le_of_lt_succ (Nat.mod_lt _ (by omega)), ?_, ?_, ?_, ?_⟩ <;>
    cases d <;> rfl

/-- One of several is one of them. -/
theorem pickOf_mem (l : List Nat) (x : Nat × State) (h : s.pickOf l = some x) : x.1 ∈ l := by
  unfold pickOf at h
  split at h
  · cases h
  · rename_i hl
    cases h
    have hn : 0 < l.length := List.length_pos_iff.2 hl
    rw [List.getD_eq_getElem?_getD, List.getElem?_eq_getElem (Nat.mod_lt _ hn), Option.getD_some]
    exact List.getElem_mem _

/-- Freeing buffers sends only credits: what was seen, kept, counted and owed stays. -/
theorem freeBufs_dir (d : Bool) :
    ((s.freeBufs d).dir d).seen = (s.dir d).seen ∧ ((s.freeBufs d).dir d).kept = (s.dir d).kept ∧
    ((s.freeBufs d).dir d).credits = (s.dir d).credits ∧ ((s.freeBufs d).dir d).owed = (s.dir d).owed ∧
    (s.freeBufs d).dir (!d) = s.dir (!d) ∧ (s.freeBufs d).regs = s.regs ∧ (s.freeBufs d).mem = s.mem := by
  have key : ∀ (l : List TrackBuf) (y : Sent) (t : State),
      (l.foldl (fun u _ => u.send y) t).up = t.up ∧ (l.foldl (fun u _ => u.send y) t).down = t.down ∧
      (l.foldl (fun u _ => u.send y) t).regs = t.regs ∧ (l.foldl (fun u _ => u.send y) t).mem = t.mem := by
    intro l y
    induction l with
    | nil => intro t; exact ⟨rfl, rfl, rfl, rfl⟩
    | cons b r ih => intro t; rw [List.foldl_cons]; exact ih _
  unfold freeBufs
  extract_lets x out t
  have hk := key (out.filter (fun b => b.hop != s.lastHop d b.travel))
    { kind := .pageCredit, dest := (s.trackStays (!d)).headD 0, code := if d then 1 else 0
      words := [BitVec.ofNat 64 (s.bufSlots d)] } t
  generalize List.foldl _ t (List.filter _ out) = u at hk ⊢
  obtain ⟨h1, h2, h3, h4⟩ := hk
  have hd : u.dir d = t.dir d ∧ u.dir (!d) = t.dir (!d) := by
    cases d <;> exact ⟨by first | exact h1 | exact h2, by first | exact h1 | exact h2⟩
  rw [hd.1, hd.2, h3, h4]
  cases d <;> exact ⟨rfl, rfl, rfl, rfl, rfl, rfl, rfl⟩

end State
end Sys2Proof.Machine
end

