-- ==== Sys2Proof/Laws/Vector.lean ====
section
/-! SUPPORT. What issuing, checking and retiring a vector instruction does, once for every instruction. -/
namespace Sys2Proof.Machine

/-! ## Checks that pass -/

theorem State.takeCheck_unarmed (s : State) (p : Word → Bool) (h : s.armed = false) : s.takeCheck p = (none, s) := by
  simp [State.takeCheck, h]

theorem State.settle_clean (s : State) (n : Nat) (sfe : Bool) (opc q : Nat) (k : Chk) (inj : Bool) (h : k.fails = 0) :
    s.settle n sfe opc q k inj = (true, s) := by
  simp [State.settle, h]

theorem State.checkStep_clean (s : State) (n : Nat) (sfe tree : Bool) (opc q : Nat) (k : Chk) (ha : s.armed = false)
    (hk : k.fails = 0) : s.checkStep n sfe tree opc q k = (true, s) := by
  simp [State.checkStep, State.takeCheck_unarmed, ha, State.settle_clean, hk]

theorem State.checkSteps_clean (s : State) (n : Nat) (sfe tree : Bool) (opc : Nat) (ha : s.armed = false) :
    ∀ (m q j : Nat) (k : Chk), k.fails = 0 → s.checkSteps n sfe tree opc k j q m = (true, s) := by
  intro m
  induction m with
  | zero => intro q j k _; rfl
  | succ m ih =>
    intro q j k hk
    have h1 : (if j = 0 then k else ({} : Chk)).fails = 0 := by split <;> simp [hk]
    have h2 : (if j = 0 then ({} : Chk) else k).fails = 0 := by split <;> simp [hk]
    simp only [State.checkSteps, State.checkStep_clean s n sfe tree opc q _ ha h1, if_true]
    exact ih (q + 1) (j - 1) _ h2

/-- The state after issuing `steps` steps whose checks pass. -/
def State.veIssuedOk (s : State) (n : Nat) (sfe : Bool) (opc steps : Nat) : State :=
  if sfe then s.modCore n (fun c => { c with sfeSeq := (c.sfeSeq + steps) % 2 ^ 32 })
  else (s.modCore n (fun c => { c with veSeq := (c.veSeq + steps) % 2 ^ 32 })).veIssued n opc
    ((s.core n).veSeq + 1 + steps - 1)

/-- The register of armed injections is no engine's. -/
theorem bVe_ne_pert (n : Nat) : bPert ≠ bVe n + 0x08 := by
  simp only [bPert, bVe, bCore]; omega

theorem State.issueSteps_clean (s : State) (n : Nat) (sfe tree : Bool) (opc steps : Nat) (k : Chk)
    (ha : s.armed = false) (hk : k.fails = 0) :
    s.issueSteps n sfe tree opc steps k = (true, s.veIssuedOk n sfe opc steps) := by
  unfold State.issueSteps State.veIssuedOk
  cases sfe
  · simp only [Bool.false_eq_true, if_false]
    apply State.checkSteps_clean _ _ _ _ _ _ _ _ _ _ hk
    unfold State.armed State.veIssued at *
    rw [State.reg_setReg_ne _ _ (bVe_ne_pert n)]
    exact ha
  · simp only [if_true]
    have hb : (s.modCore n (fun c => { c with sfeSeq := (c.sfeSeq + steps) % 2 ^ 32 })).armed = false := ha
    exact State.checkSteps_clean _ _ _ _ _ hb _ _ _ _ hk

/-- An instruction that meets no poison and whose checks pass retires. -/
theorem State.veIssue_clean (s : State) (v : VeOp) (sfe tree : Bool) (steps : Nat) (o : VeOut)
    (ha : s.armed = false) (hk : v.chk.fails = 0) :
    s.veIssue v sfe tree steps false o =
      (s.veIssuedOk v.core sfe (fld v.word 63 56) steps).veRetire v.core v.ctx sfe o := by
  simp [State.veIssue, State.issueSteps_clean s v.core sfe tree _ steps v.chk ha hk]

/-! ## Register writes -/

theorem State.vreg_setVreg_same (s : State) (n k : Nat) (r : VReg) : (s.setVreg n k r).vreg n k = r := by
  simp only [State.setVreg, State.vreg, Core.vreg, State.modCore, State.core_setCore_same]
  exact kget_kset_same _ _ _ _

theorem State.vreg_setVreg_ne (s : State) (n : Nat) {k j : Nat} (r : VReg) (h : j ≠ k) :
    (s.setVreg n k r).vreg n j = s.vreg n j := by
  simp only [State.setVreg, State.vreg, Core.vreg, State.modCore, State.core_setCore_same]
  exact kget_kset_ne _ _ _ _ h

/-- The registers written by a list of writes. -/
def vregWrites (m : KMap VReg) (ws : List (Nat × VReg)) : KMap VReg :=
  ws.foldl (fun m w => kset VReg.zero m w.1 w.2) m

theorem kget_vregWrites_out (ws : List (Nat × VReg)) : ∀ (m : KMap VReg) (k : Nat), k ∉ ws.map (fun p => p.1) →
    kget VReg.zero (vregWrites m ws) k = kget VReg.zero m k := by
  induction ws with
  | nil => intros; rfl
  | cons p r ih =>
    intro m k h
    simp only [List.map_cons, List.mem_cons, not_or] at h
    rw [vregWrites, List.foldl_cons]
    exact (ih _ k h.2).trans (kget_kset_ne _ _ _ _ h.1)

theorem kget_vregWrites_in (ws : List (Nat × VReg)) : ∀ (m : KMap VReg), (ws.map (fun p => p.1)).Nodup →
    ∀ p ∈ ws, kget VReg.zero (vregWrites m ws) p.1 = p.2 := by
  induction ws with
  | nil => intro _ _ p hp; exact absurd hp List.not_mem_nil
  | cons q r ih =>
    intro m hn p hp
    simp only [List.map_cons, List.nodup_cons] at hn
    rw [vregWrites, List.foldl_cons]
    rcases List.mem_cons.mp hp with rfl | hp
    · exact (kget_vregWrites_out r _ _ hn.1).trans (kget_kset_same _ _ _ _)
    · exact ih _ hn.2 p hp

/-! ## Changes to the cores only -/

theorem State.withCR_withCR (s : State) (C : KMap Core) (R : KMap Word) (D : KMap Core) (Q : KMap Word) :
    (s.withCR C R).withCR D Q = s.withCR D Q := by unfold State.withCR; rfl

theorem State.withCR_setReg (s : State) (a : Nat) (v : Word) (C : KMap Core) (R : KMap Word) :
    (s.setReg a v).withCR C R = s.withCR C R := by unfold State.withCR State.setReg; rfl

theorem State.coreIs_modCore (s : State) (n : Nat) (f : Core → Core) : s.coreIs (s.modCore n f) n (f (s.core n)) :=
  ⟨_, rfl, kget_kset_same _ _ _ _, fun _ h => kget_kset_ne _ _ _ _ h⟩

theorem State.coreIs.core {s t : State} {n : Nat} {c : Core} (h : s.coreIs t n c) : t.core n = c := by
  obtain ⟨C, rfl, h, -⟩ := h; exact h

theorem State.coreIs.trans {s t u : State} {n : Nat} {c d : Core} (h : s.coreIs t n c) (g : t.coreIs u n d) :
    s.coreIs u n d := by
  obtain ⟨C, rfl, -, h2⟩ := h
  obtain ⟨D, rfl, g1, g2⟩ := g
  exact ⟨D, rfl, g1, fun m hm => (g2 m hm).trans (h2 m hm)⟩

/-- Register writes change the vector registers of their core and nothing else. -/
theorem State.setVregs_coreIs (n : Nat) (ws : List (Nat × VReg)) : ∀ s : State,
    s.coreIs (ws.foldl (fun t w => t.setVreg n w.1 w.2) s) n
      { s.core n with vregs := vregWrites (s.core n).vregs ws } := by
  induction ws with
  | nil => intro s; exact ⟨s.cores, rfl, rfl, fun _ _ => rfl⟩
  | cons p r ih =>
    intro s
    have h := State.coreIs_modCore s n (fun c => { c with vregs := kset VReg.zero c.vregs p.1 p.2 })
    have g := ih (s.setVreg n p.1 p.2)
    rw [show (s.setVreg n p.1 p.2).core n = _ from h.core] at g
    exact h.trans g

/-- The core an instruction leaves at retire, with the maxima `g` that it holds then. -/
def Core.retired (c : Core) (ctx : Nat) (g : KMap Nat × KMap Seq) (o : VeOut) : Core :=
  { c with
    vregs := vregWrites c.vregs o.writes
    rsFifo := c.rsFifo ++ o.scale.map (fun v => (v, false))
    fifos := if o.out = [] then c.fifos else kmod [] c.fifos o.queue (fun q => q ++ o.out)
    logits := g.1
    seqs := g.2
    veCtx := ctx }

/-- The maxima and the sequencers of the core after retiring, for an instruction of context `c` that retires in state `s`. -/
def Core.held (k : Core) (p n x : Nat) (l : List Nat) : KMap Nat × KMap Seq := (k.noted p n x l, k.stepped x l)

def State.heldMaxima (s : State) (n c : Nat) (o : VeOut) : KMap Nat × KMap Seq :=
  (s.core n).held s.step.phase n c o.maxima

/-- The count of retired instructions. -/
def retireCount (n : Nat) (sfe : Bool) : Nat × Nat := if sfe then (bSfe n + 0x100, 256) else (bVe n + 0x100, 1)

/-- What retiring does: the core, the counts of its site, those of the fills it consumed, and the instructions retired. -/
theorem State.veRetire_spec (s : State) (n c : Nat) (sfe : Bool) (o : VeOut) :
    ∃ u, s.coreIs u n ((s.core n).retired c (s.heldMaxima n c o) o) ∧
      s.veRetire n c sfe o = ((if o.tally = {} then u else u.addTally o.site o.fmt o.tally).addDues o.dues).count
        (retireCount n sfe).1 (retireCount n sfe).2 := by
  have h := State.setVregs_coreIs n o.writes s
  have g := State.coreIs_modCore (o.writes.foldl (fun t w => t.setVreg n w.1 w.2) s) n (fun k => { k with
    rsFifo := k.rsFifo ++ o.scale.map (fun v => (v, false))
    fifos := if o.out = [] then k.fifos else kmod [] k.fifos o.queue (fun q => q ++ o.out)
    logits := k.noted s.step.phase n c o.maxima
    seqs := k.stepped c o.maxima
    veCtx := c })
  rw [h.core] at g
  have hp : (o.writes.foldl (fun t w => t.setVreg n w.1 w.2) s).step = s.step := by
    obtain ⟨C, e, -, -⟩ := h; rw [e]; rfl
  refine ⟨_, h.trans g, ?_⟩
  rw [← hp]
  unfold State.veRetire retireCount
  cases sfe <;> rfl

@[simp] theorem State.addDues_nil (s : State) : s.addDues [] = s := rfl

/-- What retiring does without counts. -/
theorem State.veRetire_plain (s : State) (n c : Nat) (sfe : Bool) (o : VeOut) (ht : o.tally = {}) (hd : o.dues = []) :
    ∃ u, s.coreIs u n ((s.core n).retired c (s.heldMaxima n c o) o) ∧
      s.veRetire n c sfe o = u.count (retireCount n sfe).1 (retireCount n sfe).2 := by
  obtain ⟨u, hu, e⟩ := s.veRetire_spec n c sfe o
  exact ⟨u, hu, by rw [e, ht, hd]; simp⟩

/-- What retiring does with counts of a conversion site. -/
theorem State.veRetire_tally (s : State) (n c : Nat) (sfe : Bool) (o : VeOut) (ht : o.tally ≠ {}) (hd : o.dues = []) :
    ∃ u, s.coreIs u n ((s.core n).retired c (s.heldMaxima n c o) o) ∧
      s.veRetire n c sfe o = (u.addTally o.site o.fmt o.tally).count (retireCount n sfe).1 (retireCount n sfe).2 := by
  obtain ⟨u, hu, e⟩ := s.veRetire_spec n c sfe o
  exact ⟨u, hu, by rw [e, hd]; simp [ht]⟩

/-- The core after issuing. -/
def Core.issued (c : Core) (sfe : Bool) (steps : Nat) : Core :=
  if sfe then { c with sfeSeq := (c.sfeSeq + steps) % 2 ^ 32 } else { c with veSeq := (c.veSeq + steps) % 2 ^ 32 }

theorem State.veIssuedOk_spec (s : State) (n : Nat) (sfe : Bool) (opc steps : Nat) :
    ∃ u, s.coreIs u n ((s.core n).issued sfe steps) ∧ s.veIssuedOk n sfe opc steps =
      if sfe then u
      else u.setReg (bVe n + 0x08) (packWord [(32, ((s.core n).veSeq + steps) % 2 ^ 32), (24, opc)]) := by
  cases sfe
  · refine ⟨s.modCore n (fun c => { c with veSeq := (c.veSeq + steps) % 2 ^ 32 }), State.coreIs_modCore s n _, ?_⟩
    simp only [State.veIssuedOk, Bool.false_eq_true, if_false, State.veIssued,
      show (s.core n).veSeq + 1 + steps - 1 = (s.core n).veSeq + steps by omega]
  · exact ⟨s.modCore n (fun c => { c with sfeSeq := (c.sfeSeq + steps) % 2 ^ 32 }), State.coreIs_modCore s n _, by
      simp only [State.veIssuedOk, if_true]⟩

theorem State.step_withCR (s : State) (C : KMap Core) (R : KMap Word) : (s.withCR C R).step = s.step := by
  unfold State.withCR; rfl

theorem State.step_setReg (s : State) (a : Nat) (v : Word) : (s.setReg a v).step = s.step := by
  unfold State.setReg; rfl

theorem bVe_sep (n : Nat) : bVe n + 0x100 ≠ bVe n + 0x08 := by omega

/-- An instruction that retires ran: `base` is the state with the FIFOs as it leaves them. -/
theorem State.veRan_of_retire (s base : State) (v : VeOp) (sfe : Bool) (steps : Nat) (o : VeOut)
    (hn : (o.writes.map (fun p => p.1)).Nodup) (ht : o.tally = {}) (hd : o.dues = [])
    (hb : s.coreIs base v.core ((s.core v.core).retired (s.core v.core).veCtx
      (((s.core v.core).issued sfe steps).held s.step.phase v.core v.ctx o.maxima) { o with writes := [] })) :
    base.veRan ((s.veIssuedOk v.core sfe (fld v.word 63 56) steps).veRetire v.core v.ctx sfe o) v sfe steps o.writes := by
  obtain ⟨u, hu, e⟩ := s.veIssuedOk_spec v.core sfe (fld v.word 63 56) steps
  obtain ⟨x, hx, e2⟩ := (s.veIssuedOk v.core sfe (fld v.word 63 56) steps).veRetire_plain v.core v.ctx sfe o ht hd
  rw [e2]
  generalize s.veIssuedOk v.core sfe (fld v.word 63 56) steps = i at *
  have hi : i.core v.core = (s.core v.core).issued sfe steps := by
    rw [e]; split
    · exact hu.core
    · rw [State.core_setReg]; exact hu.core
  have hi' : ∀ m, m ≠ v.core.val → i.core m = s.core m := by
    obtain ⟨D, rfl, -, hD'⟩ := hu
    intro m hm; rw [e]; split
    · exact hD' m hm
    · rw [State.core_setReg]; exact hD' m hm
  have hq : i.heldMaxima v.core v.ctx o = ((s.core v.core).issued sfe steps).held s.step.phase v.core v.ctx o.maxima := by
    unfold State.heldMaxima
    rw [hi]
    have : i.step = s.step := by
      obtain ⟨D, rfl, -, -⟩ := hu
      rw [e]
      cases sfe
      · exact (State.step_setReg _ _ _).trans (State.step_withCR s D s.regs)
      · exact State.step_withCR s D s.regs
    rw [this]
  rw [hi, hq] at hx
  have ir : i.regs = if sfe then s.regs
      else kset (regReset (bVe v.core + 0x08)) s.regs (bVe v.core + 0x08)
        (packWord [(32, ((s.core v.core).veSeq + steps) % 2 ^ 32), (24, fld v.word 63 56)]) := by
    obtain ⟨D, rfl, -, -⟩ := hu
    rw [e]
    cases sfe
    · simp only [Bool.false_eq_true, if_false, State.setReg, State.withCR]
    · simp only [if_true, State.withCR]
  have ie : ∀ C R, i.withCR C R = s.withCR C R := by
    obtain ⟨D, rfl, -, -⟩ := hu
    intro C R; rw [e]; split
    · exact State.withCR_withCR s D s.regs C R
    · rw [State.withCR_setReg]; exact State.withCR_withCR s D s.regs C R
  obtain ⟨E, rfl, hE, hE'⟩ := hx
  obtain ⟨C, rfl, hC, hC'⟩ := hb
  rw [ie]
  generalize hR : i.regs = R at *
  have cE : (State.count (s.withCR E R) (retireCount v.core sfe).1 (retireCount v.core sfe).2).core v.core =
      ((s.core v.core).issued sfe steps).retired v.ctx
        (((s.core v.core).issued sfe steps).held s.step.phase v.core v.ctx o.maxima) o := by rw [State.core_count]; exact hE
  have cC : (s.withCR C s.regs).core v.core = (s.core v.core).retired (s.core v.core).veCtx
      (((s.core v.core).issued sfe steps).held s.step.phase v.core v.ctx o.maxima) { o with writes := [] } := hC
  refine ⟨?_, ?_, ?_, ?_, ?_, ?_⟩
  · intro p hp
    unfold State.vreg Core.vreg
    rw [cE]
    exact kget_vregWrites_in o.writes _ hn p hp
  · intro k hk
    unfold State.vreg Core.vreg
    rw [cE, cC]
    refine (kget_vregWrites_out o.writes _ k hk).trans ?_
    cases sfe <;> rfl
  · unfold State.veCounts
    rw [cE, cC]
    have rb : ∀ C Q b, (s.withCR C Q).reg b = kget (regReset b) Q b := fun _ _ _ => rfl
    have rs : ∀ b, s.reg b = kget (regReset b) s.regs b := fun _ => rfl
    cases sfe
    · simp only [Bool.false_eq_true, if_false] at ir ⊢
      refine ⟨by simp only [Core.retired, Core.issued, Bool.false_eq_true, if_false],
        by simp only [Core.retired, Core.issued, Bool.false_eq_true, if_false], ?_, ?_, ?_⟩
      · simp only [retireCount, Bool.false_eq_true, if_false]
        rw [State.reg_count_ne _ _ (bVe_sep v.core).symm, rb, ir, kget_kset_same]
        simp only [Core.retired]
      · simp only [retireCount, Bool.false_eq_true, if_false]
        rw [State.reg_count_same, rb, rb, ir, kget_kset_ne _ _ _ _ (bVe_sep v.core)]
        rfl
      · intro a ha
        simp only [List.mem_cons, List.not_mem_nil, or_false, not_or] at ha
        simp only [retireCount, Bool.false_eq_true, if_false]
        rw [State.reg_count_ne _ _ ha.2, rb, rb, ir, kget_kset_ne _ _ _ _ ha.1]
    · simp only [if_true] at ir ⊢
      refine ⟨by simp only [Core.retired, Core.issued, if_true], by simp only [Core.retired, Core.issued, if_true],
        ?_, ?_⟩
      · simp only [retireCount, if_true]
        rw [State.reg_count_same, rb, rb, ir]
        rfl
      · intro a ha
        simp only [List.mem_cons, List.not_mem_nil, or_false] at ha
        simp only [retireCount, if_true]
        rw [State.reg_count_ne _ _ ha, rb, rb, ir]
  · rw [cE, cC]
    cases sfe <;> rfl
  · intro m hm
    rw [State.core_count]
    exact (hE' m hm).trans ((hi' m hm).trans (hC' m hm).symm)
  · unfold State.onlyCoresRegs State.count
    rw [State.setReg_cores]
    unfold State.withCR State.setReg
    rfl

theorem State.veReady_of {s : State} {v : VeOp} (h : s.veFree v) : s.veReady v.core v.ctx = true := by
  simp [State.veReady, h.issue, h.routine]

theorem Core.held_nil (c : Core) (p n x : Nat) : c.held p n x [] = (c.logits, c.seqs) := by
  simp [Core.held, Core.noted, Core.stepped]

@[simp] theorem Core.issued_logits (c : Core) (sfe : Bool) (k : Nat) : (c.issued sfe k).logits = c.logits := by
  unfold Core.issued; split <;> rfl

@[simp] theorem Core.issued_seqs (c : Core) (sfe : Bool) (k : Nat) : (c.issued sfe k).seqs = c.seqs := by
  unfold Core.issued; split <;> rfl

theorem Core.retired_nothing (c : Core) (o : VeOut) (hw : o.writes = []) (hs : o.scale = []) (ho : o.out = []) :
    c.retired c.veCtx (c.logits, c.seqs) o = c := by
  simp [Core.retired, hw, hs, ho, vregWrites]

/-- An instruction over whole source registers without poison runs and writes what `o` says. -/
theorem State.veSimple_ran (s : State) (v : VeOp) (sfe tree : Bool) (used : List Nat) (o : VeOut) (h : s.veCan v)
    (hp : s.poisonIn v.core used = false) (hn : (o.writes.map (fun p => p.1)).Nodup) (ht : o.tally = {})
    (hd : o.dues = []) (hs : o.scale = []) (ho : o.out = []) (hm : o.maxima = []) :
    ∃ t, s.veSimple v sfe tree used o = .next t ∧ s.veRan t v sfe 1 o.writes := by
  refine ⟨_, ?_, s.veRan_of_retire s v sfe 1 o hn ht hd ?_⟩
  · unfold State.veSimple
    rw [State.veReady_of h.toveFree, h.stream, hp]
    simp only [List.isEmpty_nil, Bool.and_self, if_true, State.veIssue_clean s v sfe tree 1 o h.inject h.checks]
  · rw [hm, Core.held_nil, Core.issued_logits, Core.issued_seqs]
    exact ⟨s.cores, rfl, (Core.retired_nothing _ { o with writes := [] } rfl hs ho).symm, fun _ _ => rfl⟩

theorem regWrites_nodup (f : Fmt) (d : Nat) (es : List Nat) : ((regWrites f d es).map (fun p => p.1)).Nodup := by
  unfold regWrites
  split <;> simp

end Sys2Proof.Machine
end

