-- ==== Sys2Proof/Laws/XInv.lean ====
section
/-! SUPPORT. Translation, stays, datagrams and sessions and the invariant of a run: what each shared operation of theirs
keeps. -/
namespace Sys2Proof.Machine.State

variable (s : State)

/-! ## Translation (R308–R316) -/

theorem inv_walkFrom (c va regions : Nat) : ∀ (n : Nat) (s : State) (level table : Nat), s.Inv →
    (s.walkFrom c va regions n level table).2.Inv
  | 0, _, _, _, h => h
  | n + 1, s, level, table, h => by
    unfold walkFrom
    extract_lets at_ r e next
    have hr : r.2.Inv := s.inv_readWordPa c at_ h
    clear_value r
    split
    · exact hr
    split
    · exact hr
    split
    · exact hr
    split
    · exact hr
    split
    · split
      · exact hr
      · exact hr
    split
    · exact hr
    · exact inv_walkFrom c va regions n _ _ _ hr

/-- A walk reads the tables through the chip cache and writes no entry. -/
theorem inv_walk (c va : Nat) (h : s.Inv) : (s.walk c va).2.Inv := by
  unfold walk
  extract_lets root
  split
  · exact h
  · exact inv_walkFrom c _ _ 4 s 0 root h

theorem quiet_tlbInsert (n : Nat) (e : TlbEntry) : s.Quiet (s.tlbInsert n e) := by
  unfold tlbInsert
  extract_lets old f
  split
  · exact s.quiet_modCore _ _
  · exact s.quiet_takeFree.trans (quiet_modCore _ _ _)

theorem quiet_invalidate (asid lo hi : Nat) : s.Quiet (s.invalidate asid lo hi) := by
  unfold invalidate
  extract_lets t
  have ht : s.Quiet t := ⟨rfl, rfl, rfl, rfl, rfl, id⟩
  exact ht.trans (t.quiet_count _ _)

theorem quiet_askWalk (c va : Nat) : s.Quiet (s.askWalk c va) := by
  unfold askWalk
  split
  · exact Quiet.refl s
  · exact ⟨rfl, rfl, rfl, rfl, rfl, id⟩

theorem quiet_noteMiss (n c va : Nat) : s.Quiet (s.noteMiss n c va) := by
  unfold noteMiss
  split
  · exact s.quiet_count _ _
  · exact Quiet.refl s

theorem quiet_tlbMiss (n c va : Nat) : s.Quiet (s.tlbMiss n c va) := (s.quiet_noteMiss _ _ _).trans (quiet_askWalk _ _ _)

/-- R314: a park records, logs and counts. -/
theorem quiet_park (p : Park) (kind level : Nat) (noWalk : Bool) : s.Quiet (s.park p kind level noWalk) := by
  unfold park
  extract_lets l0 l1 a b d e
  have ha : s.Quiet a := ⟨rfl, rfl, rfl, rfl, rfl, id⟩
  have hb : a.Quiet b := ((a.quiet_setReg _ _).trans (quiet_setReg _ _ _)).trans (quiet_setReg _ _ _)
  have hd : b.Quiet d := (b.quiet_flag _ _).trans (quiet_count _ _ _)
  have he : d.Quiet e := by
    unfold e
    split
    · exact d.quiet_flag _ _
    · exact Quiet.refl d
  exact (((ha.trans hb).trans hd).trans he).trans (e.quiet_record _)

theorem quiet_retryParks (c : Nat) : s.Quiet (s.retryParks c) :=
  Quiet.foldl (f := fun t (p : Park) => t.askWalk c p.va) (fun t p => t.quiet_askWalk c p.va) _ s

theorem inv_fetchPieces (n c : Nat) : ∀ (l : List (Nat × Nat)) (s : State), s.Inv → (s.fetchPieces n c l).2.Inv
  | [], _, h => h
  | p :: r, s, h => by
    unfold fetchPieces
    split
    · exact inv_fetchPieces n c r _ ((quiet_meshWord _ _ _).inv (inv_loadPa _ _ _ _ _ _ ((s.quiet_count _ _).inv h)))
    · exact inv_fetchPieces n c r s h

/-! ## Stays (R374–R384) -/

theorem quiet_freeBuffer (t : Nat) (f : Flit) : s.Quiet (s.freeBuffer t f) := by
  unfold freeBuffer
  split
  · exact s.quiet_modStay _ _
  · exact Quiet.refl s

/-- R373: the rest of a frame goes out as idle flits. -/
theorem quiet_fillFrame (t : Nat) : s.Quiet (s.fillFrame t) := by
  unfold fillFrame
  extract_lets n
  split
  · exact Quiet.refl s
  · exact Quiet.foldl (f := State.send) (fun t m => t.quiet_send m) _ s

theorem quiet_beginFrame (t : Nat) : s.Quiet (s.beginFrame t) :=
  ((s.quiet_fillFrame t).trans (quiet_send _ _)).trans (quiet_modStay _ _ _)

theorem quiet_openSlot (t : Nat) : s.Quiet (s.openSlot t) := by
  unfold openSlot
  split
  · exact s.quiet_beginFrame t
  · exact Quiet.refl s

theorem quiet_sendFlit (t : Nat) (x : Flit × Nat) : s.Quiet (s.sendFlit t x) := by
  unfold sendFlit
  extract_lets b st g f a
  have ha : s.Quiet a := (s.quiet_openSlot t).trans (b.quiet_setStay _ _)
  clear_value a
  exact ((ha.trans (a.quiet_freeBuffer _ _)).trans (quiet_count _ _ _)).trans (quiet_send _ _)

theorem quiet_pumpStay (t : Nat) : ∀ (k : Nat) (s : State), s.Quiet (s.pumpStay t k)
  | 0, s => Quiet.refl s
  | k + 1, s => by
    unfold pumpStay
    extract_lets st
    split
    · exact Quiet.refl s
    split
    · exact Quiet.refl s
    split
    · exact s.quiet_count _ _
    split
    · exact Quiet.refl s
    · exact ((s.quiet_setStay _ _).trans (quiet_sendFlit _ _ _)).trans (quiet_pumpStay t k _)

theorem quiet_pump (t : Nat) : s.Quiet (s.pump t) := quiet_pumpStay t _ s

theorem quiet_forward (from_ : Nat) (f : Flit) : s.Quiet (s.forward from_ f) := by
  unfold forward
  split
  · exact s.quiet_freeBuffer _ _
  · exact (s.quiet_modStay _ _).trans (quiet_pump _ _)

theorem quiet_sendMsg (dest vc : Nat) (bs : List PByte) : s.Quiet (s.sendMsg dest vc bs) :=
  Quiet.foldl (f := fun t f => t.forward 12 f) (fun t f => t.quiet_forward 12 f) _ s

theorem quiet_freeMsg (dest vc : Nat) : s.Quiet (s.freeMsg dest vc) := s.quiet_takeFree.trans (s.takeFree.2.quiet_sendMsg _ _ _)

/-! ## Datagrams and sessions (R461–R471) -/

theorem quiet_frameOut (h bytes : Nat) : s.Quiet (s.frameOut h bytes) := by
  unfold frameOut
  exact (s.quiet_takeFree.trans (quiet_count _ _ _)).trans (quiet_count _ _ _)

theorem quiet_frameIn (h bytes : Nat) : s.Quiet (s.frameIn h bytes) := by
  unfold frameIn
  exact (s.quiet_takeFree.trans (quiet_count _ _ _)).trans (quiet_count _ _ _)

theorem quiet_dropGram (h : Nat) : s.Quiet (s.dropGram h) := s.quiet_count _ _
theorem quiet_takeGram (h : Nat) : s.Quiet (s.takeGram h) := (s.quiet_frameIn _ _).trans (quiet_count _ _ _)

theorem quiet_respond (e : Env) (code status : Nat) (ws : List Word) : s.Quiet (s.respond e code status ws) :=
  (s.quiet_answer _ _ _ _ _ _).trans (quiet_frameOut _ _ _)

theorem quiet_modSession (id : Nat) (f : Session → Session) : s.Quiet (s.modSession id f) :=
  ⟨rfl, rfl, rfl, rfl, rfl, fun w => w⟩

theorem quiet_touch (id : Nat) : s.Quiet (s.touch id) := s.quiet_modSession _ _

/-- R464: taking a request's turn. -/
theorem quiet_taken (e : Env) : s.Quiet (s.taken e) :=
  (((s.quiet_takeGram _).trans (quiet_touch _ _)).trans (quiet_modSession _ _ _)).trans (quiet_count _ _ _)

theorem quiet_answerAgain (e : Env) (r : Response) : s.Quiet (s.answerAgain e r) :=
  ((((s.quiet_takeGram _).trans (quiet_touch _ _)).trans (quiet_count _ _ _)).trans (quiet_frameOut _ _ _)).trans
    (quiet_send _ _)

theorem quiet_sendQp (q : Nat) (u : Unacked) : s.Quiet (s.sendQp q u) := by
  unfold sendQp
  exact ((s.quiet_setQp _ _).trans (quiet_frameOut _ _ _)).trans (quiet_send _ _)

end Sys2Proof.Machine.State
end

