-- ==== Sys2Proof/Tests/Slice0.lean ====
section
/-! SUPPORT. Tests: ill-formed commands that the checks refuse, the spec's worked examples, and for every statement a
state and operands that meet its hypotheses. -/

namespace Sys2Proof.Tests
open Sys2Proof Sys2Proof.Machine

set_option Elab.async false

/-! ## Small states -/

/-- RUNNING, with primary context 1 running on cores 0 and 1. -/
def run : State :=
  { mode := .running
    ctxs := [(1, { cls := 2, state := 2, asid := 1, cores := 3, csSize := 1536, cntCount := 4096 })] }

/-- A vector instruction of context 1 on core 0. -/
def op (w : Word) : VeOp := { core := 0, ctx := 1, word := w }

/-- `run` with core 0 replaced. -/
def runCore (c : Core) : State := { run with cores := [(0, c)] }

/-- A descriptor of context 1 on core 0 with words 0 and 1, the others zero. -/
def desc (w0 w1 : Word) : Desc := { core := 0, ctx := 1, words := [w0, w1, 0, 0, 0, 0, 0, 0] }

/-- A vector of zeros, with lane 0 poisoned. -/
def poisonReg : VReg := ⟨List.replicate 256 0, true :: List.replicate 255 false⟩

/-- The next state of an outcome. -/
def after : Host.Outcome State Fault Refusal → Option State
  | .next t => some t
  | _ => none

theorem run_veCan (w : Word) : run.veCan (op w) :=
  have h : run.mayIssue 0 1 = true := by decide +kernel
  { issue := h, routine := by simp [op, run, State.core, kget], checks := rfl, inject := by decide +kernel,
    stream := by simp [op, run, State.core, kget] }

/-! ## Witnesses: the vector and special-function engines -/

/-- VeElementwiseResult: every hypothesis of the elementwise statements, with no register written yet. -/
theorem witness_VeElementwise : run.veCan (op 0) ∧
    run.poisonIn 0 (regsOf (veFields 0).fmt (veFields 0).src1 ++ regsOf (veFields 0).fmt (veFields 0).src2 ++
      regsOf (veFields 0).fmt (veFields 0).src3) = false ∧
    run.selPoison 0 (veFields 0) = false :=
  ⟨run_veCan 0, by decide +kernel, by decide +kernel⟩

/-- VeQueueResult: a FIFO with one vector feeds LDQ, and has room for STQ; the row-scale FIFO has room. -/
theorem witness_VeQueue : (runCore { fifos := [(0, [VReg.zero])] }).veCan (op 0) ∧
    (regsOf (veFields 0).fmt (veFields 0).dst).length ≤ ((runCore { fifos := [(0, [VReg.zero])] }).fifo 0 0).length ∧
    ((runCore { fifos := [(0, [VReg.zero])] }).fifo 0 0).length + (regsOf (veFields 0).fmt (veFields 0).src1).length ≤ 8 ∧
    (runCore { fifos := [(0, [VReg.zero])] }).poisonIn 0 [0] = false :=
  ⟨⟨⟨by decide +kernel, by decide +kernel, rfl, by decide +kernel⟩, by decide +kernel⟩, by decide +kernel, by decide +kernel, by decide +kernel⟩

/-- VeQueueResult, the waits: an empty FIFO, a full one, a full row-scale FIFO. -/
theorem witness_VeQueueWait :
    (run.fifo 0 0).length < (regsOf (veFields 0).fmt (veFields 0).dst).length ∧
    8 < ((runCore { fifos := [(0, List.replicate 8 VReg.zero)] }).fifo 0 0).length +
      (regsOf (veFields 0).fmt (veFields 0).src1).length ∧
    4 ≤ ((runCore { rsFifo := List.replicate 4 ([], false) }).core 0).rsFifo.length :=
  ⟨by decide +kernel, by decide +kernel, by decide +kernel⟩

/-- VePoisonFaults: a register of zeros with one poisoned lane. -/
theorem witness_VePoison : (runCore { vregs := [(0, poisonReg)] }).veCan (op 0) ∧
    (runCore { vregs := [(0, poisonReg)] }).poisonIn 0
      (regsOf (veFields 0).fmt (veFields 0).src1 ++ regsOf (veFields 0).fmt (veFields 0).src2) = true :=
  ⟨⟨⟨by decide +kernel, by decide +kernel, rfl, by decide +kernel⟩, by decide +kernel⟩, by decide +kernel⟩


/-- VeReductionResult and SfeResult: one source with no poison; POW: two. -/
theorem witness_VeReduction : run.veCan (op 0) ∧ run.poisonIn 0 (regsOf (veFields 0).fmt (veFields 0).src1) = false ∧
    run.poisonIn 0 [(veFields 0).src1, (veFields 0).src2] = false :=
  ⟨run_veCan 0, by decide +kernel, by decide +kernel⟩

/-- Core 0 with two vectors in FIFO 0. -/
def streamCore : Core := { fifos := [(0, [VReg.zero, VReg.zero])] }

/-- VeStreamResult: a reduction of one FP64 vector, two registers, stands ready in FIFO 0; so does NSTAT of one
element with its two passes, and one with a vector taken before it was pre-empted. -/
theorem witness_VeStream : (runCore streamCore).veFree (op 0) ∧
    ((streamCore.fifos.head!.2.take 2).length = 2 ∧
      (streamCore.fifos.head!.2.take 2).all (fun r => r.poison.all (fun b => !b)) = true) ∧
    (runCore { streamCore with stream := [VReg.zero] }).veFree (op 0) :=
  ⟨⟨by decide +kernel, by decide +kernel, rfl, by decide +kernel⟩, by decide +kernel,
    ⟨by decide +kernel, by decide +kernel, rfl, by decide +kernel⟩⟩

/-- VeSoftmaxAndDrainResult: an empty row-scale FIFO and one drained column; at the boundary three vectors wait. -/
theorem witness_VeSoftmaxAndDrain : (runCore { smFifo := [⟨0, [(1, 0, false)]⟩] }).veCan (op 0) ∧
    ((runCore { rsFifo := List.replicate 3 ([], false) }).core 0).rsFifo.length < 4 ∧
    ((runCore { smFifo := [⟨0, [(1, 0, false)]⟩] }).core 0).smFifo = ⟨0, [(1, 0, false)]⟩ :: [] ∧
    (runCore { smFifo := [⟨0, [(1, 0, false)]⟩] }).poisonIn 0 (regsOf .fp64 0) = false :=
  ⟨⟨⟨by decide +kernel, by decide +kernel, rfl, by decide +kernel⟩, by decide +kernel⟩, by decide +kernel,
    by decide +kernel, by decide +kernel⟩

/-- A user table of one segment. -/
def table : UTable := { lo := 0, hi := 0x3F800000, scale := 0x3F800000, log2Seg := 0, outLo := 0, outHi := 0, coef := [0, 0, 0, 0] }

/-- UserTableResult and TableSwapResult: slot 0 with an active table; slot 0 with a shadow; an empty slot 3. -/
theorem witness_UserTable : (runCore { slots := [(0, { active := some table })] }).veCan (op 0) ∧
    ((runCore { slots := [(0, { active := some table })] }).core 0).slot 0 = { active := some table } ∧
    (runCore { slots := [(0, { shadow := some table })] }).veCan (op 0) ∧
    (((runCore { slots := [(0, { shadow := some table })] }).core 0).slot 0).shadow = some table ∧
    (run.core 0).slot 3 = {} ∧ run.fenced 0 = false :=
  ⟨⟨⟨by decide +kernel, by decide +kernel, rfl, by decide +kernel⟩, by decide +kernel⟩, by decide +kernel,
    ⟨⟨by decide +kernel, by decide +kernel, rfl, by decide +kernel⟩, by decide +kernel⟩, by decide +kernel,
    by decide +kernel, by decide +kernel⟩

/-- TableLoadResult: an empty slot, room in the fence, a view in the context's partition. -/
theorem witness_TableLoad : run.veCan (op 0) ∧ run.sramErr = [] ∧ ((run.core 0).slot 0).shadow = none ∧
    run.fenceRoom 0 1 = true ∧ run.viewAllowed 1 (run.view run.plan 0) = true :=
  ⟨run_veCan 0, by decide +kernel, by decide +kernel, by decide +kernel, by decide +kernel⟩

/-! ## Witnesses: the matrix engines, small matrices and layouts -/

/-- A pass of M = N = K = 1. -/
def onePass : Desc := desc 0 0x0081000000000001

/-- MatrixPassIssues: a pass of one row, and of no row. -/
theorem witness_MatrixPass : run.mayIssue 0 1 = true ∧
    run.passAllowed 1 (run.issueWords onePass [(2, 48), (2, 32), (2, 16), (2, 0)]) = true ∧
    wfld onePass.words 1 63 55 = 1 ∧ wfld onePass.words 1 54 48 = 1 ∧ pK onePass.words = 1 ∧
    run.fenceRoom 0 4 = true ∧ wfld (desc 0 0).words 1 63 55 = 0 ∧ pK (desc 0 0).words = 0 := by decide +kernel

/-- `run` with one buffer of the plan at the bottom of stack 0, whose first byte is 5: run-time shape slot 1. -/
def shaped : State :=
  { run with image := some { placed := [{ id := 0, words := [0, 0, 4096, 0, 0, 0, 0, 0], phys := [(0, 0)] }] }, mem := [(0, 5)] }

/-- MatrixPassShapeOver: slot 1 gives five rows where one is planned. -/
theorem witness_MatrixPassShapeOver : shaped.mayIssue 0 1 = true ∧
    ((shaped.shapeOf 1 shaped.plan 1 [1, 1, 1]).1 = ([5, 0, 0], false)) ∧
    ((shaped.shapeOf 1 shaped.plan 1 [1, 1, 1]).2.ctx 1).state = 2 ∧
    wfld (desc 0 0x0081010000000001).words 1 47 40 = 1 := by decide +kernel

/-- A pass of one row and column in a phase, with descriptor word 0. -/
def pass (ph : PassPhase) (w0 : Word) : Pass :=
  { seq := 1, ctx := 1, plan := 0, words := [w0, 0x0081000000000001, 0, 0, 0, 0, 0, 0], m := 1, n := 1, k := 1, phase := ph }

/-- The bit of word 0 that `q` looks for. -/
def bitFor (q : List Word → Bool) : Nat := ((List.range 64).find? (fun i => q [BitVec.ofNat 64 (2 ^ i)])).getD 64

/-- PreloadShiftResult: a queued pass that preloads, without row scale, with it and a vector there, with it and none. -/
theorem witness_PreloadShift :
    let pre : Word := BitVec.ofNat 64 (2 ^ bitFor pPreload)
    let both : Word := pre ||| BitVec.ofNat 64 (2 ^ bitFor pRowScale)
    let q := fun p : Pass => p.phase == .queued && pPreload p.words && !p.resumed
    firstPass q [] [pass .queued pre] = some ([], pass .queued pre, []) ∧ bankFree [] (pass .queued pre) = true ∧
    pRowScale (pass .queued pre).words = false ∧
    firstPass q [] [pass .queued both] = some ([], pass .queued both, []) ∧ pRowScale (pass .queued both).words = true ∧
    run.fenced 0 = false := by decide +kernel

/-- PassStreamResult, PassDrainResult, PassCheckFails, PassRetireResult: one pass queued, failed, streamed, drained. -/
theorem witness_Passes :
    firstPass (fun p => p.phase != .streamed && p.phase != .drained) [] [pass .queued 0] = some ([], pass .queued 0, []) ∧
    streamReady (pass .queued 0) = true ∧ bankFree [] (pass .queued 0) = true ∧
    firstPass (fun p => p.phase == .failed) [] [pass .failed 0] = some ([], pass .failed 0, []) ∧
    firstPass (fun p => p.phase == .streamed) [] [pass .streamed 0] = some ([], pass .streamed 0, []) ∧
    firstPass (fun p => p.phase == .drained) [] [pass .drained 0] = some ([], pass .drained 0, []) ∧
    (pass .streamed 0).replay = [] ∧ passFails (pass .streamed 0) {} = [] ∧ passFails (pass .streamed 0) { fails := 1 } = [(1, 0, 0)] ∧ (pass .drained 0).poison = false ∧
    ((runCore { passes := [pass .drained 0] }).fenced 0 = false) ∧ run.armed = false := by decide +kernel

/-- RoutineIssues: a batch of four, and of none, on an idle core. -/
theorem witness_RoutineIssues : run.veReady 0 1 = true ∧ (run.core 0).stream = [] ∧
    wfld (run.issueWords (desc 0 0x400000000) [(2, 48), (2, 32), (2, 16), (2, 0)]) 1 63 32 = 4 ∧
    (run.routineViews run.plan (desc 0 0x400000000).words).all (fun v => run.viewAllowed 1 v.2) = true ∧
    run.fenceRoom 0 3 = true := by decide +kernel

/-- RoutineGroupResult: a routine of four elements has one group left, one of five has two. -/
theorem witness_RoutineGroup :
    let r : Routine := { ctx := 1, plan := 0, words := (desc 0 0).words, batch := 4 }
    ((runCore { routine := some r }).core 0).routine = some r ∧ r.batch ≤ 4 * (r.group + 1) ∧
    4 * (r.group + 1) < { r with batch := 5 }.batch ∧ (runCore { routine := some r }).sramErr = [] ∧
    (runCore { routine := some r }).armed = false := by decide +kernel

/-- An image with one plan, whose tensor descriptor 0 is one element in a core store and 1 one element in memory. -/
def planImage : Image :=
  { sections := [(0x10, 0, [0, 64, 0, 0, 0, 0, 0, 0, 0, 0x0080000000000000, 0, 0, 0, 0, 1, 0, 0, 0, 4, 0, 0, 0, 0, 0,
      0, 0, 0, 0, 0, 0, 1, 0, 0, 0, 4, 0, 0, 0, 0, 0])]
    placed := [{ id := 0, words := [0, 0, 4096, 0, 0, 0, 0, 0], phys := [(0, 0)] }] }

/-- `run` with that image, and run-time shape slot 1 of five. -/
def planned : State := { run with image := some planImage, mem := [(0, 5)] }

/-- LayoutIssues and LayoutTileResult: one element within core stores, in its last tile. -/
theorem witness_Layout :
    let op : LayoutOp := { seq := 1, ctx := 1, plan := 0, words := (desc 0 0).words, sizes := [1] }
    let s := { planned with cores := [(0, { layouts := [op] })] }
    planned.mayIssue 0 1 = true ∧ (planned.view 0 0).plan = [1] ∧ (planned.view 0 0).space = 1 ∧
    layoutSizeOk (planned.issueWords (desc 0 0) [(1, 48), (1, 32)]) [1] = true ∧
    planned.viewAllowed 1 (planned.view 0 0) = true ∧ planned.fenceRoom 0 1 = true ∧
    (s.core 0).layouts = op :: [] ∧ s.sramErr = [] ∧ s.armed = false ∧
    (runsOf ((s.view 0 0).writes ((tileIndices (lFmt op.words) (layoutDst op.words op.sizes) op.tile).map
      (fun i => (i, { code := 0 }))))).any (fun r => s.fenceHitBy 0 r.1 r.2 (fun x => x.kind != ownLayout)) = false ∧
    volume (layoutDst op.words op.sizes) ≤ (op.tile + 1) * tileElems (lFmt op.words) := by decide +kernel

/-- LayoutTileResult, a tile with another to follow: more elements than one tile holds. -/
theorem witness_LayoutMore : (0 + 1) * tileElems (lFmt (desc 0 0).words) <
    volume (layoutDst (desc 0 0).words [tileElems (lFmt (desc 0 0).words) + 1]) := by decide +kernel

/-! ## Witnesses: the access engine and pages -/

/-- Descriptor words with words 0, 1 and 3. -/
def desc3 (w0 w1 w3 : Word) : Desc := { core := 0, ctx := 1, words := [w0, w1, 0, w3, 0, 0, 0, 0] }

/-- AeDescriptorQueues: one element queues; slot 1 gives five of one planned; a view of no elements. -/
theorem witness_AeDescriptorQueues : planned.mayIssue 0 1 = true ∧ (planned.queue 0 0).length < 32 ∧
    ((runCore { queues := [(0, List.replicate 31 { num := 0, ctx := 1, plan := 0, words := [], sizes := [] })] }).queue 0 0).length
      < 32 ∧
    (planned.shapeOf 1 planned.plan 0 (planned.shapedView (desc 0 0).words).plan).1 = ([1], false) ∧
    planned.aeAllowed 1 (desc 0 0).words = true ∧ planned.fenceRoom 0 2 = true ∧
    (planned.shapeOf 1 planned.plan 1 (planned.shapedView (desc3 0 0 0x1000000000000).words).plan).1 = ([5], false) ∧
    ((planned.shapeOf 1 planned.plan 1 [1]).2.ctx 1).state = 2 ∧ wfld (desc3 0 0 0x1000000000000).words 3 55 48 = 1 ∧
    (run.shapeOf 1 run.plan 0 (run.shapedView (desc 0 0).words).plan).1 = ([0], false) := by decide +kernel

/-- An item of context 1 in a phase. -/
def item (ph : AePhase) : AeItem := { num := 3, ctx := 1, plan := 0, words := (desc 0x2000000000000000 0).words, sizes := [1], phase := ph }

/-- AeRetireResult: a finished head; a parked head that stays. -/
theorem witness_AeRetire :
    let s := fun ph => runCore { queues := [(0, [item ph])] }
    ((s .finished).runQueue 0 0).queue 0 0 = item .finished :: [] ∧ (((s .finished).runQueue 0 0).ctx 1).state = 2 ∧
    ((s .parked).runQueue 0 0).queue 0 0 = item .parked :: [] ∧ AePhase.parked ≠ .finished := by decide +kernel

/-- A hoist of context 1 whose reads have returned. -/
def hoist : Hoist :=
  { core := 0, ctx := 1, id := 1, num := 1, pair := 0, lo := 0, hi := 4, words := (desc 0 0).words, sizes := [1], src := 1, dst := 0,
    plan := 0, order := 0 }

/-- HoistLandedResult. -/
theorem witness_HoistLanded :
    let s := { planned with hoists := [hoist] }
    s.hoists.find? (fun h => h.core == 0 && h.id == 1 && !h.landed) = some hoist ∧ (s.ctx hoist.ctx).state = 2 ∧
    hoist.need = [] ∧ hoist.wait = 0 ∧ hoist.usable = true ∧ (s.view hoist.plan hoist.dst).space = 1 ∧
    (runsOf (s.hoistBits hoist).1.1).any (fun x => s.fenceHit 0 x.1 x.2) = false := by decide +kernel

/-- `planned` with a counter wait on core 0 and the given TLB entries. -/
def waits (l : List TlbEntry) : State :=
  { planned with cores := [(0, { seqs := [(1, { waitCnt := some (0, 1, false) })], tlb := l })], regions := [(4096, { length := 64 })] }

/-- RunAheadResult and StreamPrefetchResult: a LOAD with RA_LOG2 = 1 of a memory view while its core waits; its page is
a stack page without run-ahead, a host page, or not in the TLB. -/
theorem witness_RunAhead :
    let ws := (desc3 0x2000000000000000 0x0001000000000000 0x08000000).words
    let leaf := fun pte : Word => ({ asid := 1, base := 0, size := 65536, pte := pte, level := 3 } : TlbEntry)
    let s := waits []
    (s.ctx 1).state = 2 ∧ s.fenced 0 = false ∧ s.trackers 0 ≤ 512 ∧ (kget {} (s.core 0).seqs 1).waitCnt.isSome = true ∧
    aOp (s.issueWords (desc3 0x2000000000000000 0x0001000000000000 0x08000000) [(1, 48), (1, 32), (1, 16)]) = 0x20 ∧
    wfld ws 3 31 27 = 1 ∧ (s.view s.plan (aSrc ws)).space = 0 ∧
    (cutRuns (runsOf ((s.view s.plan (aSrc ws)).reads [[0]]))).map (fun p => p.1) = [0] ∧
    s.translate 0 1 0 false = .miss ∧ (waits [leaf 0x0F]).translate 0 1 0 false = .stack 0 0 false ∧
    (waits [leaf 0x4F]).translate 0 1 0 false = .host 0 0 ∧ s.translate 0 1 128 false = .miss ∧
    wfld (desc3 0 0 0).words 3 31 27 = 0 := by decide +kernel

/-- StreamPrefetchResult: an item at the head, the prefetcher on and off, two misses at consecutive lines, and at others. -/
theorem witness_StreamPrefetch :
    let leaf : TlbEntry := { asid := 1, base := 0, size := 65536, pte := 0x0F, level := 3 }
    let with_ := fun (p : Nat × Nat) => runCore { queues := [(0, [item .ready])], tlb := [leaf], misses := [(0, p)] }
    let s := with_ (1, 2)
    let t := s.setReg (bAe 0 + 0x10) 1
    t.queue 0 0 = item .ready :: [] ∧ bitAt (t.reg (bAe 0 + 0x10)) 0 = true ∧ (t.ctx 1).state = 2 ∧ t.trackers 0 ≤ 512 ∧
    t.translate 0 1 256 false = .stack 256 0 false ∧ kget (0, 0) (t.core 0).misses 0 = (256 / 128 - 1, 256 / 128) ∧
    (kget (0, 0) ((with_ (1, 3)).core 0).misses 0).2 ≠ (kget (0, 0) ((with_ (1, 3)).core 0).misses 0).1 + 1 ∧
    bitAt ((s.setReg (bAe 0 + 0x10) 0).reg (bAe 0 + 0x10)) 0 = false ∧ run.queue 0 0 = [] := by decide +kernel

/-- RemoteReadResult: an exported buffer and its range's last byte, a range one byte longer, and a waiting reader. -/
theorem witness_RemoteRead :
    let image : Image := { sections := [(0x0004, 0, [0x08000000, 0, 64, 64, 0x100000000, 0, 0, 0])] }
    let s := { run with image := some image }
    let reader := { item .waiting with words := (desc 0x2E00000000000000 0).words, vstage := 1 }
    (s.exportedAt 0 64).isSome = true ∧ s.exportedAt 0 65 = none ∧ State.reset.mode ≠ .running ∧
    State.reset.mode ≠ .halted ∧
    ((runCore { queues := [(0, [reader])] }).queue 0 0).find? (fun i => aOp i.words == 0x2E && i.vstage == 1) = some reader ∧
    ((runCore { queues := [(0, [reader])] }).ctx reader.ctx).state = 2 := by decide +kernel

/-- PageOperationIssues: a count of one, and of none. -/
theorem witness_PageOperation : run.mayIssue 0 1 = true ∧ wfld (desc3 0 0 0x100000000000).words 3 63 44 = 1 ∧
    (run.shapeOf 1 run.plan (wfld (desc3 0 0 0x100000000000).words 1 31 24) [1]).1 = ([1], false) ∧
    (run.shapeOf 1 run.plan 0 [wfld (desc3 0 0 0).words 3 63 44]).1 = ([0], false) := by decide +kernel

/-- Three levels of tables from the root at 0 and the entry `pte` for the page at virtual address 0; a pool of four frames. -/
def tables (pte : Word) : State :=
  { run.setReg (bLedger 0) 4 with
    mem := [(0, 0x1001), (0x1000, 0x2001), (0x2000, 0x3001), (0x3000, pte)].foldl
      (fun m e => putBytes m e.1 (leBytes 8 (BitVec.toNat e.2))) [] }

/-- PageCounts: an entry not valid, a page of frame 1 whose count is 1 and one whose count is 2. -/
theorem witness_PageCounts :
    let at_ := fun s : State => match (s.pageEntry 0 1 0).1 with
      | .at a e => some (a, e)
      | _ => none
    at_ (tables 0) = some (0x3000, 0) ∧ ((tables 0).pageEntry 0 1 0).2.freeFrame 0 = some 0 ∧
    at_ (tables 0x1000F) = some (0x3000, 0x1000F) ∧
    ((tables 0x1000F).pageEntry 0 1 0).2.poolFrame (fld 0x1000F 47 16 * 65536) = some (0, 1) ∧
    ledgerBusy 1 = false ∧ ledgerCount 1 = 1 ∧ ledgerCount 2 = 2 ∧
    ((tables 0x1000F).setLedger 0 1 2).ledgerOf 0 1 = 2 := by decide +kernel

/-- A page operation of one page: OP, and the destination's page number. -/
def pageDesc (op dst : Nat) : Desc :=
  { core := 0, ctx := 1, words := [packWord [(54, op)], 0, packWord [(44, dst)], packWord [(44, 1)], 0, 0, 0, 0] }

/-- `s` with a page operation of one page in core 0, and where its destination and its source stand. -/
def opened (s : State) (d : Desc) : State :=
  s.modCore 0 (fun k => { k with aeNum := (s.core 0).aeNum + 1, pageOps := k.pageOps ++
    [({ ctx := 1, words := d.words, count := 1, num := (s.core 0).aeNum } : PageOp)] })

/-- PageOperationResult, one page: ALLOC of an unmapped page and of a mapped one, RELEASE of a page of frame 1, SHARE of page 0
at page 1. -/
theorem witness_OnePage :
    let at_ := fun (s : State) (va : Nat) => match (s.pageEntry 0 1 va).1 with
      | .at a e => some (a, e)
      | _ => none
    let s := tables 0x1000F
    let va := fun (op dst : Nat) => (opened s (pageDesc op dst)).pageVas { ctx := 1, words := (pageDesc op dst).words, count := 1, num := 0 } 0
    s.mayIssue 0 1 = true ∧ pOp (pageDesc 0 0).words = 0 ∧ pOp (pageDesc 1 1).words = 1 ∧ pOp (pageDesc 2 0).words = 2 ∧
    wfld (pageDesc 1 1).words 3 63 44 = 1 ∧ va 0 0 = (0, 0) ∧ va 1 1 = (65536, 0) ∧
    at_ (opened (tables 0) (pageDesc 0 0)) 0 = some (0x3000, 0) ∧
    ((opened (tables 0) (pageDesc 0 0)).pageEntry 0 1 0).2.freeFrame 0 = some 0 ∧
    at_ (opened s (pageDesc 1 1)) 0 = some (0x3000, 0x1000F) ∧
    at_ ((opened s (pageDesc 1 1)).pageEntry 0 1 0).2 65536 = some (0x3008, 0) ∧
    (((opened s (pageDesc 1 1)).pageEntry 0 1 0).2.pageEntry 0 1 65536).2.poolFrame (fld 0x1000F 47 16 * 65536) = some (0, 1) ∧
    ledgerCount ((((opened s (pageDesc 1 1)).pageEntry 0 1 0).2.pageEntry 0 1 65536).2.ledgerOf 0 1) < 65535 ∧
    ledgerBusy ((((opened s (pageDesc 1 1)).pageEntry 0 1 0).2.pageEntry 0 1 65536).2.ledgerOf 0 1) = false := by decide +kernel

/-- PageOperationResult: services that keep the frame, that wait for BUSY, and that find it clear. -/
theorem witness_CowStages :
    let w : Cow := { ctx := 1, va := 0, stack := 0, frame := some 1, stage := .busy }
    let s := { run with cows := [w, { w with stage := .keep }] }
    s.cows[0]? = some w ∧ s.cows[1]? = some { w with stage := .keep } ∧ ledgerBusy (s.ledgerOf 0 1) = false ∧
    ledgerBusy ((s.setLedger 0 1 0x80000001).ledgerOf 0 1) = true := by decide +kernel

/-- CowServiceResult: a copy from frame 1 to frame 2. -/
theorem witness_CowService :
    ([{ ctx := 1, va := 0, stack := 0, frame := some 1, stage := .copy 2 }] : List Cow)[0]? =
      some { ctx := 1, va := 0, stack := 0, frame := some 1, stage := .copy 2 } ∧ (1 : Nat) ≠ 2 := by decide +kernel

/-- WalkResult: a walk that finds the leaf, one that meets poison, one that is queued. -/
theorem witness_Walk :
    ((tables 0x1000F).walk 1 0).1 = .leaf 0x1000F 3 0 65536 0x3000 ∧
    (State.walk { tables 0x1000F with synd := [(0, poisonSynd)] } 1 0).1 = .poison ∧
    (State.ctx (State.walk { tables 0x1000F with synd := [(0, poisonSynd)] } 1 0).2 1).state = 2 ∧
    ([⟨1, 0, true⟩, ⟨1, 1, false⟩] : List Walk)[0]? = some ⟨1, 0, true⟩ := by decide +kernel

/-- ParkLimitResult: a limit of one microsecond, at 1001 ns and at 1000 ns. -/
theorem witness_ParkLimit :
    let p : Park := { core := 0, ctx := 1, engine := 3, queue := 0, granule := 0, va := 0, write := false, code := 9, since := 0 }
    let s := fun t => { run.setReg (bXl + 0x300 + 8 * 1) 1 with parks := [p], time := { now := t } }
    (s 1001).parks[0]? = some p ∧ (s 1001).rfld (bXl + 0x300 + 8 * 1) 31 0 = 1 ∧ p.since + 1000 * 1 < (s 1001).time.now ∧
    ((s 1001).ctx 1).state = 2 ∧ (s 1000).time.now ≤ p.since + 1000 * 1 := by decide +kernel

/-! ## Witnesses: contexts, windows and the sequencer -/

/-- `run` with context 1 changed. -/
def runCtx (f : Ctx → Ctx) : State := { run with ctxs := [(1, f (run.ctx 1))] }

/-- ContextRequests and ContextSaving: a primary in each state asked for; a filler whose window is open. -/
theorem witness_Contexts :
    run.preemptible 1 = true ∧ (run.ctx 1).state = 2 ∧ run.preemptible 2 = false ∧
    (runCtx (fun x => { x with state := 4 })).preemptible 1 = true ∧ ((runCtx (fun x => { x with state := 4 })).ctx 1).state = 4 ∧
    (runCtx (fun x => { x with state := 4 })).mode = .running ∧ ((runCtx (fun x => { x with state := 4 })).ctx 1).cls = 2 ∧
    (run.ctx 2).state = 0 ∧
    ((runCtx (fun x => { x with state := 3, pending := [0, 1] })).ctx 1).pending.contains 1 = true ∧
    ((runCtx (fun x => { x with state := 3 })).ctx 1).pending = [] ∧ run.cows.all (fun w => w.ctx ≠ 1) = true ∧
    ((runCtx (fun x => { x with state := 5 })).ctx 1).state = 5 := by decide +kernel

/-- A job of one bubble window of context 2, from 0 of counter 0 to `close` of counter 1, in a running phase. -/
def bubbles (close : Word) (state : Nat) : State :=
  { run with
    image := some { sections := [(0x0022, 0, [0x0200000001000000, 0, close, 1, 0, 0, 0, 0])] }
    step := { phaseOn := true }
    ctxs := [(1, run.ctx 1), (2, { cls := 3, primary := 1, state := state, cores := 1 })] }

/-- BubbleWindows: a window that may open for a ready and a saved filler, one that may not, and an open one that is due. -/
theorem witness_BubbleWindows : (bubbles 1 1).mayOpen 0 = true ∧ ((bubbles 1 1).ctx ((bubbles 1 1).windowFiller 0)).state = 1 ∧
    (bubbles 1 4).mayOpen 0 = true ∧ ((bubbles 1 4).ctx ((bubbles 1 4).windowFiller 0)).state = 4 ∧
    (bubbles 1 2).mayOpen 1 = false ∧
    (let s := { bubbles 0 2 with windows := [0] }
     s.windows.contains 0 = true ∧ s.windowDue (s.bubble 0) = true ∧ (s.ctx (s.windowFiller 0)).state = 2) ∧
    ((bubbles 1 1).ctx 2).cls = 3 ∧ ((bubbles 1 1).ctx 1).cls ≠ 3 := by decide +kernel

/-- WaitAndSignal: a threshold that its counter has just reached, and one that it has not. -/
theorem witness_WaitAndSignal :
    let s := { run with tackle := [(0, 7)] }
    s.mayIssue 0 1 = true ∧ 7 ≤ s.tackleOf (wfld (desc 0 7).words 0 55 40) ∧ s.tackleOf 0 < 8 ∧
    (let t := { runCore { seqs := [(1, { waitCnt := some (0, 7, true), signals := [{ cnt := 0, inc := 1 }] })] } with
                tackle := [(0, 7)] }
     (t.seq 0 1).waitCnt = some (0, 7, true) ∧ 7 ≤ t.tackleOf 0 ∧ (t.ctx 1).state = 2 ∧
     (t.seq 0 1).signals.find? (fun g => g.before.all (fun i => !((t.itemsOut 0 1).contains i))) =
       some { cnt := 0, inc := 1 }) := by decide +kernel

/-- LoopResult: a loop of two, of none, one whose accumulation count is above its planned count; a frame at its
last and not at its last iteration; a skipped body. -/
theorem witness_Loop :
    let over_ := run.setReg (bTell + 8) 0x0003000000000000
    let inside := runCore { seqs := [(1, { loops := [{ count := 2, descStep := 0, thrStep := 0 }] })] }
    let skips := runCore { seqs := [(1, { skip := 1 })] }
    run.mayLoop 0 1 = true ∧ (run.seq 0 1).skip = 0 ∧ wfld (desc 0 0x200000000).words 1 63 32 = 2 ∧
    wfld (desc 0 0).words 0 55 54 = 0 ∧ wfld (desc 0 0).words 1 63 32 = 0 ∧
    over_.mayLoop 0 1 = true ∧ wfld (desc 0x40000000000000 0x200000000).words 0 55 54 = 1 ∧ over_.accumNow = 3 ∧
    (over_.ctx 1).state = 2 ∧
    inside.mayLoop 0 1 = true ∧ (inside.seq 0 1).loops = { count := 2, descStep := 0, thrStep := 0 } :: [] ∧
    skips.mayLoop 0 1 = true ∧ (skips.seq 0 1).skip ≠ 0 := by decide +kernel

/-- A job of two phases with no lists, in phase `p`. -/
def phases (p : Nat) (tack : Bool) : State :=
  { mode := .running, image := some { sections := [(0x0006, 0, [0, 0, 0x80000000000, 0, 0xFF00FF00, 0])] }
    step := { phase := p, phaseOn := !tack, tackOn := tack } }

/-- PhaseResult: phase 0 of two, phase 1 of two, a tack. -/
theorem witness_Phase : (phases 0 false).mode = .running ∧ (phases 0 false).listsDone = true ∧
    (phases 0 false).coresEnded = true ∧ 0 + 1 < (phases 0 false).phases ∧ (phases 1 false).phases ≤ 1 + 1 ∧
    (phases 1 false).coresEnded = true ∧ (phases 0 true).step.tackOn = true ∧
    (phases 0 false).phaseTack 1 = 0xFF := by decide +kernel

/-! ## Witnesses: stacks, stays, collectives, the track -/

/-- CodewordResult: each class of codeword, from the errors it has: none, one symbol, the poison pattern, errors beyond
correction; and a mask that is not full. -/
theorem witness_Codeword : run.mode.powered = true ∧
    classifyCode (run.rfld (bStack (paStack 0) + 0x10) 1 0) (run.codeSynd 0) = .clean ∧
    classifyCode 1 (symSynd 3 1) = .corrected [(3, 1)] ∧ classifyCode 1 poisonSynd = .poisoned ∧
    classifyCode 1 (symSynd 0 1 ^^^ symSynd 1 2 ^^^ symSynd 2 3) = .uncorrectable ∧
    (1 : BitVec 64) ≠ BitVec.allOnes 64 := by decide +kernel

/-- CopyAndFillResult: the last unit of stack 0, two units next to each other, and a range that crosses into stack 1. -/
theorem witness_CopyAndFill : copyFits 1048575 1 = true ∧ copyFits 1048575 2 = false ∧ copyFits 0 16384 = true ∧
    copyFits 0 16385 = false ∧ (0 : Nat) / 1048576 = 1 / 1048576 ∧ (0 : Nat) + 1 ≤ 1 ∧ run.chipCache = [] ∧
    run.codeSynd 1023 = 0 := by decide +kernel

/-- StackUpkeepResult: a refresh postponed for the eighth and due for the ninth time; patrol on and off; the last
codeword of a patrol. -/
theorem witness_StackUpkeep :
    (7 < 8 ∧ ¬ (8 < 8)) ∧ run.rfld (bStack (paStack (64 * 0)) + 0x18) 7 0 ≠ 0 ∧
    (run.setReg (bStack 0 + 0x18) 0).rfld (bStack (paStack (64 * 0)) + 0x18) 7 0 = 0 ∧
    (State.stack { run with stackUnits := [(0, { patrolled := 2 ^ 30 - 1 })] } 0).patrolled + 1 = 2 ^ 30 := by decide +kernel

/-- FurlCodecExact: a size nibble beside the granule, nothing in the chip cache. -/
theorem witness_FurlCodec : run.mode.powered = true ∧ run.chipCache = [] ∧ run.codeSynd (4096 / 64) = 0 ∧
    4096 * 0 + 4096 ≤ 4096 ∧ (List.replicate 4096 (0 : Byte)).length = 4096 ∧ (List.replicate 256 (0 : Byte)).length = 256 * 1 := by
  decide +kernel

/-- StayStateResult: dropping lane 7 leaves seven; dropping one of four leaves three; four lanes lock, three do not. -/
theorem witness_StayState :
    let s := { run with stays := [(0, { up := true, lanes := 0xFF }), (1, { up := true, lanes := 0x0F }), (2, { training := true })] }
    (s.stay 0).up = true ∧ (s.stay 0).lanes.testBit 7 = true ∧ 4 ≤ popcount 8 ((s.stay 0).lanes - 2 ^ 7) ∧
    (s.stay 1).lanes.testBit 3 = true ∧ popcount 8 ((s.stay 1).lanes - 2 ^ 3) < 4 ∧ (s.stay 1).lanes.testBit 4 = false ∧
    (s.stay 2).training = true ∧ popcount 8 0x0F = 4 ∧ popcount 8 0x07 < 4 ∧ s.mode.powered = true ∧
    (s.stay 3).up = false := by decide +kernel

/-- Two modules in dimension 0: this one is module 0 and member 0 of both the ring and a sequence group of two. Tackle
operation 0 is an all-reduce that counter 5 triggers at 1. -/
def ring2 : State :=
  { run with image := some { sections := [
      (0x0001, 0, [0, packWord [(54, 1), (40, 3), (36, 1), (28, 3), (24, 2), (23, 1), (22, 1)], 0, 0, 0, 0, 0, 0]),
      (0x0012, 0, [0, packWord [(59, 2), (54, 1), (49, 1), (44, 1)], 64, 128, 80, 4096, 0, 0, 0, 0, packWord [(60, 1)], 0, 0, 0, 0, 0,
        packWord [(56, 0x10), (16, 5), (0, 6)], 1, 0x00000000FFFF0000, 0, 0, 0, 0, 0])] } }

/-- StayLinkResult: a flit in sequence for this module and for module 1, one with a bad CRC, one out of sequence. -/
theorem witness_StayLink :
    let s := { ring2 with stays := [(0, { up := true })] }
    let f : Flit := { header := packWord [(56, 4), (24, 1)], payload := [], poison := 0, crcOk := true }
    (s.stay 0).up = true ∧ s.armed = false ∧ flitType f ≠ 0 ∧ flitSeq f = (s.stay 0).rxSeq ∧ flitDest f = s.moduleNo ∧
    flitDest { f with header := packWord [(56, 4), (40, 1), (24, 1)] } ≠ s.moduleNo ∧
    flitSeq { f with header := packWord [(56, 4), (12, 1)] } ≠ (s.stay 0).rxSeq ∧ (s.stay 1).up = false := by decide +kernel

/-- CollectiveStarts: its counter at the threshold and below it. -/
theorem witness_CollectiveStarts :
    let o : CollOp := { op := 0, ctx := 1 }
    let s := { ring2 with ops := [o], tackle := [(5, 1)] }
    s.ops.find? (fun o => o.op = 0 ∧ o.phase = .armed) = some o ∧ oOpc (s.opWords o) = 0x10 ∧
    oThreshold (s.opWords o) ≤ s.tackleOf (oTrig (s.opWords o)) ∧ s.ctxOver 1 = false ∧ s.mode = .running ∧
    s.fenceRoom (s.collCore 1) (s.opRanges { o with phase := .reading }).length = true ∧
    ring2.tackleOf (oTrig (ring2.opWords o)) < oThreshold (ring2.opWords o) := by decide +kernel

/-- CollectivePhase0: agreeing signatures, one bit of difference, a member over its plan. -/
theorem witness_CollectivePhase0 :
    let o : CollOp := { op := 0, ctx := 1, phase := .phase0 }
    let s := { ring2 with ops := [o] }
    let sig := s.signature o
    s.ops.find? (fun o => o.op = 0 ∧ o.phase = .phase0) = some o ∧ s.overPlanned o = false ∧ s.ctxOver 1 = false ∧
    (s.ctx 1).state = 2 ∧ ((sig &&& sig) ^^^ (sig ||| sig)) = 0 ∧ (0 : Nat) % 4 = 0 ∧
    (((sig ^^^ 1) &&& sig) ^^^ ((sig ^^^ 1) ||| sig)) ≠ 0 ∧ (1 : Nat).testBit 1 = false ∧ (1 : Nat).testBit 0 = true := by decide +kernel

/-- An all-reduce that moves its data, ten elements from each of two members. -/
def moving : CollOp := { op := 0, ctx := 1, phase := .moving, counts := [10, 10] }

/-- The chunk it expects from rank 1. -/
def goodChunk : ChunkMsg :=
  { op := 0, payload := [], crcOk := true
    header := [packWord [(8, chunkKind (ring2.opWords moving))], packWord [(16, 1)], ring2.reg bTell,
      packWord [(32, chunkLength (ring2.opWords moving) 10)]] }

/-- CollectiveChunks: a new chunk, the same again, a re-send with and without a copy, and every chunk in. -/
theorem witness_CollectiveChunks :
    let s := { ring2 with ops := [moving] }
    s.ops.find? (fun o => o.op = 0 ∧ (o.phase = .moving ∨ o.phase = .phase0)) = some moving ∧ s.armed = false ∧
    s.headerFits moving goodChunk.header = true ∧ (s.expected_ moving) = [(1, 0)] ∧ moving.got.contains (1, 0) = false ∧
    { moving with got := [(1, 0)] }.got.contains (1, 0) = true ∧ moving.retained.contains (1, 0) = false ∧
    (let o := { moving with retained := [(1, 0)] }
     let u := { ring2 with ops := [o] }
     u.resendOp 0 = some o ∧ u.keepsCopy o 1 0 = true ∧ (u.copyOk o 1 0).1 = true) ∧ s.resendOp 0 = some moving ∧
    moving.writes = [] ∧
    (s.expected_ { moving with got := [(1, 0)] }).all (fun x => { moving with got := [(1, 0)] }.got.contains x) = true ∧
    (s.expected_ moving).all (fun x => moving.got.contains x) = false ∧
    wfld goodChunk.header 1 31 16 = 1 ∧ wfld goodChunk.header 1 63 32 = 0 := by decide +kernel

/-- A page of the up direction at hop 1, from the other member. -/
def page : Page :=
  { header := [packWord [(60, 1), (55, 2), (44, 1), (33, 1)], ring2.reg bTell, 0, 0, 0], payload := [], crcOk := true }

/-- The header of a page of the member's own at a hop. -/
def ownHeader (kind hop : Nat) : List Word := [packWord [(60, kind), (55, 2), (33, hop)], ring2.reg bTell, 0, 0, 0]

/-- Member 0 of two with one KV head in the up direction, two buffers of one page each, its traveller under way: its own first
page stands in buffer 0, and buffer 1 takes the ring step that arrives. -/
def tracked : State :=
  { ring2.setReg (bTell + 8) (packWord [(48, 1)]) with
    image := ring2.image.map (fun g => { g with
      placed := [⟨0, [packWord [(44, 5)], 0, 65536, 65536, packWord [(32, 2)], 0, 0, 0], [(0, 0), (65536, 65536)]⟩]
      seq := { up := [0], down := [0], travels := [{}] } })
    stays := [(0, { up := true })]
    up := { active := true, own := true, credits := 1, bufs := [⟨0, 0, 0, 0⟩, ⟨0, 1, 1, 0⟩]
            held := [{ page := { page with header := ownHeader 1 0 }, place := 0 }]
            kept := [{ page with header := ownHeader 2 1 }] } }

/-- TravellerResult: a kept copy, a page that fits and its place, one of hop 2. -/
theorem witness_Traveller :
    let s := tracked
    let sent : Page := { page with header := ownHeader 2 1 }
    s.mode = .running ∧ s.dirUsed false = true ∧ 2 ≤ s.seqSize ∧ (s.ctx s.trackCtx).state = 2 ∧ (s.ctx s.trackCtx).cls = 2 ∧
    (s.trackStay false).isSome = true ∧ { s with stays := [] }.trackStay false = none ∧
    ({ s with stays := [] }.nextHeld false).isSome = true ∧ (s.dir false).kept.find? (fun k => pageId k = pageId sent) = some sent ∧
    s.ctxOver s.trackCtx = false ∧ s.armed = false ∧ s.pageFits false page = true ∧ s.isNext false page = false ∧
    (s.holdPage false page).isSome = true ∧ s.pageFits false { page with header := ownHeader 1 2 } = false := by
  decide +kernel

/-- What is ready, where nothing is owed. -/
theorem trackReady_owedNone (s : State) (o : (s.dir false).owed = 0) (r : (s.nextHeld false).isSome = true)
    (n : (s.creditBack false).nextHeld false = s.nextHeld false) :
    (s.trackReady false).nextHeld false = s.nextHeld false ∧
      ((s.trackReady false).dir false).credits = (s.dir false).credits := by
  obtain ⟨k, hk, hd, _⟩ := s.creditBack_dir false
  have e : s.trackReady false = s.creditBack false := by
    have : ((s.creditBack false).nextHeld false).isNone = false := by rw [n]; cases h : s.nextHeld false <;> simp_all
    simp [State.trackReady, this]
  rw [e, n, hd]
  exact ⟨rfl, by simp only; omega⟩

/-- TravellerResult: a page that is ready, with a credit and without. -/
theorem witness_TravellerReady :
    let s := tracked
    let t : State := { tracked with up := { tracked.up with credits := 0 } }
    ((s.trackReady false).nextHeld false).map (fun x => s.sendCost false x.page) = some 1 ∧
    ((s.trackReady false).dir false).credits = 1 ∧
    ((t.trackReady false).nextHeld false).map (fun x => s.sendCost false x.page) = some 1 ∧
    ((t.trackReady false).dir false).credits = 0 := by
  dsimp only
  have a := trackReady_owedNone tracked rfl (by decide +kernel) rfl
  have b := trackReady_owedNone { tracked with up := { tracked.up with credits := 0 } } rfl (by decide +kernel) rfl
  rw [a.1, a.2, b.1, b.2]
  exact ⟨by decide +kernel, rfl, by decide +kernel, rfl⟩

/-- The counter that a WAIT descriptor names. -/
theorem wait_counter (n : Fin 4096) : wfld (desc (packWord [(40, n.val)]) 1).words 0 55 40 = n.val := by
  have h : ∀ a b : Fin 64, wfld (desc (packWord [(40, 64 * a.val + b.val)]) 1).words 0 55 40 = 64 * a.val + b.val := by
    decide +kernel
  have e : 64 * (n.val / 64) + n.val % 64 = n.val := by omega
  have g := h ⟨n.val / 64, by omega⟩ ⟨n.val % 64, by omega⟩
  simpa only [e] using g

/-- SequencerResult: a wait for pages of a direction with both stays down. -/
theorem witness_WaitDown :
    let s := { tracked with stays := [] }
    let d := desc (packWord [(40, (Config.pageCounter false).val)]) 1
    s.mayIssue d.core d.ctx = true ∧ s.tackleOf (wfld d.words 0 55 40) < (wd d.words 1).toNat ∧ thrOffset (s.seq 0 1) = 0 ∧
    s.waitsDown (wfld d.words 0 55 40) = true ∧ (s.ctx d.ctx).state = 2 := by
  dsimp only
  rw [wait_counter]
  have h : State.dirDown { tracked with stays := [] } false = true := by decide +kernel
  exact ⟨by decide +kernel, by decide +kernel, by decide +kernel, by simp [State.waitsDown, h], by decide +kernel⟩

/-- R194: a return page is not ready before the module's part stands in it, and is once it does. -/
theorem test_return_page_waits :
    let p : Page := { page with header := [packWord [(60, 3)], 0, 0, packWord [(0, 200)], 0] }
    let x : HeldPage := { page := p, place := 0, due := partOf p }
    partOf p = [(0, 102400)] ∧ x.ready = false ∧
    { x with due := x.due.flatMap (outside [(0, 512), (0, 65536), (65536, 131072)]) }.ready = true := by decide +kernel

/-- R172's table: rank 2 of 8 with segments of 8,192 tokens holds positions 16,384 on and 106,496 on. -/
theorem test_segment_positions :
    seqPosition { seg := 8192 } 8 2 0 = 16384 ∧ seqPosition { seg := 8192 } 8 2 31 = 16384 + 31 * 256 ∧
    seqPosition { seg := 8192 } 8 2 32 = 106496 := by decide

/-! ## Witnesses: host ports and module time -/

/-- Port 0 of a running module, up at its highest speed, with queue pair 0 on it. -/
def linked : State :=
  { (run.setReg (bPort 0) (packWord [(39, 1), (1, 2), (0, 1)])).setReg (bPort 0 + 0x08) 2 with
    qps := [(0, { connected := true, unacked := [⟨0, 0, 0, 3, 0, false, { kind := .rdmaWrite }⟩] })] }

/-- PortResult: a port up, one down that is enabled, MACsec with a CAK, pause with and without PFC_EN. -/
theorem witness_Port :
    let down := linked.setReg (bPort 0 + 0x08) 0
    let sec := { linked.setReg (bPort 0) 9 with ports := [(0, { cak := some 1 })] }
    linked.mode.powered = true ∧ linked.rfld (bPort 0 + 0x08) 1 0 = 2 ∧ linked.portEnabled 0 = true ∧ linked.mode ≠ .faulted ∧
    down.rfld (bPort 0 + 0x08) 1 0 = 0 ∧ down.portEnabled 0 = true ∧ down.retryDue 0 = true ∧
    State.retryDue { down with ports := [(0, { triedAt := some 0 })] } 0 = false ∧ bitAt (sec.reg (bPort 0)) 3 = true ∧
    (sec.port 0).cak.isSome = true ∧ sec.rfld (bPort 0 + 0x08) 1 0 = 2 ∧ bitAt (linked.reg (bPort 0)) 39 = true ∧
    bitAt (sec.reg (bPort 0)) 39 = false := by decide +kernel

/-- RoceResult: a queue pair with one message outstanding, and with none; 50 µs after a CNP and 1 ns before that. -/
theorem witness_Roce :
    let u : Unacked := ⟨0, 0, 0, 3, 0, false, { kind := .rdmaWrite }⟩
    let s := { linked with cores := [(0, { queues := [(0, [item .waiting])] })], time := { now := 50000 } }
    linked.qpUp 0 = true ∧ (linked.qp 0).unacked = [u] ∧ [u].any (fun u => u.psn = 0) = true ∧
    [u].any (fun u => u.psn = 1) = false ∧ (linked.qp 1).unacked = [] ∧
    (s.qp 0).lastCnp + 50000 ≤ s.time.now ∧ linked.time.now < (linked.qp 0).lastCnp + 50000 ∧
    [u].find? (fun u => u.core = 0 ∧ u.queue = 0) = some u ∧
    (s.queue 0 0).find? (fun i => i.num = u.num) = some (item .waiting) ∧
    (State.qp { linked with qps := [(0, { rateLow := true })] } 0).rateLow = true := by decide +kernel

/-- HostAccessResult: the last byte of an opened region, and one byte beyond it. -/
theorem witness_HostAccess :
    let s := { linked with
      image := some { sections := [(0x0004, 0, [0, 0, 64, 64, 0x100000000, 0, 0, 0])]
                      placed := [{ id := 0, words := [0, 0, 64, 64, 0x100000000, 0, 0, 0], phys := [(0, 0)] }] }
      opened := [(7, 0)] }
    s.qpUp 0 = true ∧ s.hostRange 7 63 1 = some (0, 63) ∧ s.hostRange 7 63 2 = none ∧ s.hostRange 8 0 1 = none := by decide +kernel

/-- `linked` as a worker, or as the top masthead, with PTP_STATUS.STATE. -/
def clock (top : Bool) (state : Nat) : State :=
  { (linked.setReg (bTime + 0x18) (BitVec.ofNat 64 state)).setReg (bTime + 0x10) 0x10000 with
    image := some { sections := [(0x0001, 0, [packWord [(62, if top then 2 else 0)], 0, 0, packWord [(48, 1), (32, 2)]])] }
    time := { now := 2 * 10 ^ 9, batten := some ⟨1, 0, 2 * 10 ^ 9, 2 * 10 ^ 9⟩ } }

/-- ClockResult and PtpMessages: a client and a time source, in each state they start from, at the edge of their times. -/
theorem witness_Clock :
    (clock false 2).mode.powered = true ∧ (clock false 2).portUp 0 = true ∧ (clock false 2).timeSource = false ∧
    (clock false 2).syncPort = some 0 ∧ (clock false 1).ptpState = 1 ∧ (clock false 2).ptpState = 2 ∧
    (clock true 2).timeSource = true ∧ (clock true 2).ppsEnabled = true ∧
    (clock false 1).time.lastSync + 10 ^ 9 ≤ (clock false 1).time.now ∧
    (State.time { clock false 1 with time := { now := 10 ^ 9 - 1 } }).now < 0 + 10 ^ 9 ∧
    (clock true 2).time.lastPps + 2 * 10 ^ 9 ≤ (clock true 2).time.now ∧ linked.ppsEnabled = false ∧
    (clock true 2).ptpTime % 10 ^ 9 ≤ 2 ∧ 2 < (State.ptpTime { clock true 2 with time := { now := 3 } }) % 10 ^ 9 ∧
    (999 : Int).natAbs < 1000 ∧ ¬ ((1000 : Int).natAbs < 1000) ∧ (clock true 2).ptpDomains = [0, 0] ∧
    (clock false 2).ptpDomains = [] := by decide +kernel

/-- ClockResult: the 10 MHz reference enabled, locked and not. -/
theorem witness_Reference :
    bitAt ((linked.setReg (bMod + 0x08) 1).reg (bMod + 0x08)) 0 = true ∧ linked.pins.ref10m = false ∧
    (State.pins { linked with pins := { linked.pins with ref10m := true } }).ref10m = true := by decide +kernel

/-- BattenFires: at its time, and 1 ns before it. -/
theorem witness_Batten :
    (clock true 2).time.batten = some ⟨1, 0, 2 * 10 ^ 9, 2 * 10 ^ 9⟩ ∧ 2 * 10 ^ 9 ≤ (clock true 2).time.now ∧
    (State.time { clock true 2 with time := { now := 2 * 10 ^ 9 - 1 } }).now < 2 * 10 ^ 9 := by decide +kernel

/-! ## Witnesses: power, boot, module events, registers, injection -/

/-- A module that is off. -/
def off : State := { mode := .off }

/-- PowerUpAndDown: off and dry, off and wet, powered. -/
theorem witness_Power : off.mode = .off ∧ off.pins.leakN = true ∧ off.pins.pwrEn = true ∧
    (State.pins { off with pins := { leakN := false } }).leakN = false ∧ run.mode.powered = true ∧ run.mode ≠ .off := by decide +kernel

/-- POWERING with the rails up. -/
def booting : State := { power := { railsUp := true } }

/-- BootResult: rails to come; slot A valid; only slot B valid; neither; a running slot; the self-test. -/
theorem witness_Boot :
    State.reset.mode = .powering ∧ State.reset.power.railsUp = false ∧ booting.mode = .powering ∧ booting.pins.modResetN = true ∧
    booting.flash.bootRec.trial = false ∧ booting.flash.slotOk booting.flash.bootRec.preferred = true ∧
    (let f : Flash := { slotA := { valid := false } }
     f.slotOk f.bootRec.preferred = false ∧ f.slotOk (1 - f.bootRec.preferred) = true) ∧
    (let f : Flash := { slotA := { svn := 1 }, slotB := { svn := 1 }, fuseSvn := 2 }
     f.slotOk f.bootRec.preferred = false ∧ f.slotOk (1 - f.bootRec.preferred) = false) ∧
    (State.flash { booting with flash := { runSlot := 0 } }).runSlot ≠ 0xFF ∧ booting.flash.runSlot = 0xFF ∧
    (State.mode { booting with mode := .selftest }) = .selftest := by decide +kernel

/-- ModuleResetResult and ModuleEventResult: a running module satisfies the invariant; a trial boot before READY. -/
theorem witness_ModuleReset : run.Inv ∧ run.mode.powered = true ∧ run.mode ≠ .off ∧ run.mode ≠ .faulted ∧
    (State.flash { booting with flash := { boot0 := { seq := 1, trial := true } } }).bootRec.trial = true ∧
    booting.mode = .powering ∧ run.flash.bootRec.trial = false ∧ off.mode = .off :=
  ⟨⟨by decide +kernel, by decide +kernel, by decide +kernel, trivial, by decide +kernel⟩, by decide +kernel⟩

/-- ThermalResult: 1 °C below the limits of 105 °C and 95 °C, and at them. -/
theorem witness_Thermal : run.thermDrop = 0 ∧ (104 : Int) < 105 - run.thermDrop ∧ hottest (-128) [94, -128] < 95 - run.thermDrop ∧
    105 - run.thermDrop ≤ (105 : Int) ∧ 95 - run.thermDrop ≤ hottest (-128) [20, 95] := by decide +kernel

/-- PowerLimitResult: samples on either side of each limit, a core that changes its level, rails with and without room. -/
theorem witness_PowerLimit :
    (decide (38000 ≤ 38000) = true ∧ decide (38000 ≤ 37999) = false) ∧ (run.power.samples.length < 9999) ∧
    run.mode.writable = true ∧ State.reset.mode.writable = false ∧
    (let s := runCore { level := 0 }; s.fenced 0 = false ∧ (s.core 0).streaming = none ∧ (s.core 0).level ≠ s.reefTarget) ∧ (run.core 0).level = run.reefTarget ∧
    (5 : Nat) < (railPhases 0).2 ∧ run.power.shed.contains (0, 5) = false ∧
    (railPhases 0).1 ≤ (railPhases 0).2 - (0 + 1) ∧ (railPhases 0).2 - (1 + 1) < (railPhases 0).1 ∧
    carriedLevel 4 5 = some 5 ∧ carriedLevel 3 5 = none ∧ (4 : Nat) ≤ 15 := by decide +kernel

/-- RegisterWriteResult: a plain register, a register of a fenced core, an address off alignment, one outside every block. -/
theorem witness_RegisterWrite :
    run.mode.writable = true ∧ (regSpec (bTime + 0x10)).isSome = true ∧
    devPlace (0x020000000000 + (bTime + 0x10)) = .reg (bTime + 0x10) ∧ run.inFencedCore (bTime + 0x10) = false ∧
    devPlace 0x020000000004 = .none ∧ devPlace 0x030000000000 = .none ∧
    (run.setReg (fenceReg 0) 1).inFencedCore (bVe 0) = true ∧ devPlace (0x020000000000 + bVe 0) = .reg (bVe 0) ∧
    (run.setReg (fenceReg 0) 1).inFencedCore 0x10000000 = false ∧
    (clock true 2).timeSource = true ∧ (State.ppsEnabled ((clock true 2).setReg (bTime + 0x10) 0)) = false ∧
    (clock false 2).timeSource = false := by decide +kernel

/-- ControlRequests: a running, a halted and a loaded module, with a saved primary. -/
theorem witness_ControlRequests : run.mode = .running ∧ (run.ctx 1).cls = 2 ∧ (run.ctx 1).state = 2 ∧
    (let s := { runCtx (fun x => { x with state := 4 }) with mode := .halted }
     s.mode = .halted ∧ (s.ctx 1).cls = 2 ∧ (s.ctx 1).state = 4) ∧
    (State.mode { run with mode := .loaded }) = .loaded ∧ State.reset.mode ≠ .running ∧ State.reset.mode ≠ .loaded := by decide +kernel

/-- `run` with injection armed. -/
def armed : State := run.setReg bPert 2

/-- InjectionResult: each kind of request at the ends of its fields. -/
theorem witness_Injection : armed.mode.writable = true ∧ armed.armed = true ∧ run.armed = false ∧
    fld (packWord [(61, 4)]) 63 61 = 4 ∧ fld (packWord [(61, 5)]) 63 61 = 5 ∧ fld (packWord [(61, 6)]) 63 61 = 6 ∧
    (let v := packWord [(60, 1), (50, 127), (48, 3), (40, 71), (0, 786431)]
     fld v 63 60 = 1 ∧ fld v 59 50 < sramUnits 1 ∧ fld v 49 48 ≠ 0 ∧ fld v 47 40 ≤ 71 ∧ fld v 39 0 < sramWords 1 ∧
       armed.wordHeld 1 127 786431 = true) ∧
    fld (packWord [(60, 6), (48, 2)]) 63 60 = 6 ∧ fld (packWord [(60, 7), (48, 2)]) 49 48 ≠ 1 ∧
    (let v := packWord [(60, 5), (56, 11), (32, 1)]
     fld v 63 60 = 5 ∧ fld v 59 56 < 12 ∧ fld v 47 32 ≠ 0) := by decide +kernel

/-! ## Witnesses: halyard -/

/-- `run` in a state of the module, with session 7 of a level. -/
def talk (m : ModState) (level : Nat) : State := { run with mode := m, sessions := [{ id := 7, level := level }] }

/-- The first message of session 7. -/
def first : Env := { session := 7, seq := 1, tag := 0 }

/-- Is a request the next of its session, permitted and not held. -/
def servedNow (s : State) (i : Instr) (x : Session) : Bool :=
  match msgOf i with
  | some m => decide (s.sessionOf m.env.session = some x) && m.env.good && decide (m.env.seq = x.received + 1) &&
      decide (m.env.seq ≤ 2 ^ 32) && decide (x.highest < m.env.seq + 64) && !x.repeats m.env.seq && s.permits x.level m &&
      !s.holds m.code
  | none => false

/-- The check decides what the statements ask. -/
theorem served_of (s : State) (i : Instr) (x : Session) (h : servedNow s i x = true) : ∃ m, s.served i m x := by
  unfold servedNow at h
  split at h
  · rename_i m hm
    simp only [Bool.and_eq_true, decide_eq_true_eq, Bool.not_eq_true'] at h
    obtain ⟨⟨⟨⟨⟨⟨⟨a, b⟩, c⟩, d⟩, e⟩, f⟩, g⟩, k⟩ := h
    exact ⟨m, ⟨⟨hm, a, b, c, d, e, f⟩, g, k⟩⟩
  · cases h

/-- A request of each kind, with the state and level in which it executes. -/
def requests : List (ModState × Nat × Instr) :=
  [(.faulted, 0, .close first), (.selftest, 0, .keepalive first), (.faulted, 0, .identity first), (.ready, 0, .attest first 0 0),
   (.faulted, 1, .regRead first [0x020000000000]), (.running, 3, .regWrite first [(0x020000000000, 0)]),
   (.ready, 2, .rigLoad first ⟨[], [], [], [], []⟩ false), (.ready, 2, .rigLoadCached first 1), (.halted, 2, .rigCacheList first),
   (.ready, 2, .rigCacheDelete first 1), (.loaded, 2, .jobStart first none), (.running, 3, .jobHalt first),
   (.halted, 3, .jobResume first), (.loaded, 2, .unload first), (.faulted, 2, .reset first), (.halted, 2, .snapshot first 15 0 0),
   (.running, 2, .published first 0), (.running, 2, .rollbackRequest first 0), (.loaded, 2, .setAccum first 1 0),
   (.running, 3, .stepOpen first 0 1 0), (.running, 3, .closed first 0 false), (.running, 3, .rollback first 0),
   (.running, 2, .mapPages first 1 [(0, 1)]), (.halted, 2, .unmapPages first 1 [0]), (.loaded, 2, .setRegion first 1 0 0 0),
   (.ready, 2, .qpConnect first 15 0 0 0), (.ready, 2, .qpClose first 16), (.running, 2, .openRegion first 0),
   (.ready, 2, .setAddr first [(7, 1)] (some 65535)), (.ready, 2, .linkRetrain first), (.halted, 2, .macsecCak first 7 1),
   (.ready, 1, .subscribe first 15), (.faulted, 1, .telemetryRead first 1 127 0 (List.replicate 127 0)),
   (.ready, 2, .battenSchedule first 1 0 50000), (.ready, 1, .ledgerRead first 0 128), (.loaded, 3, .plumbSchedule first 0x100 0),
   (.faulted, 1, .calRead first), (.ready, 2, .calWrite first []), (.ready, 2, .fwStage first ⟨true, 0, true, true, 1, 0, 0⟩),
   (.ready, 2, .fwActivate first), (.ready, 0, .ownerEnroll first 1 (0, 0))]

/-- HalyardOrder, HalyardControl, HalyardHostMemory, HalyardStep, HalyardMaintenance: each request is served in its state. -/
theorem witness_Halyard : ∀ p ∈ requests, ∃ m, (talk p.1 p.2.1).served p.2.2 m { id := 7, level := p.2.1 } := by
  have h : requests.all (fun p => servedNow (talk p.1 p.2.1) p.2.2 { id := 7, level := p.2.1 }) = true := by decide +kernel
  exact fun p hp => served_of _ _ _ (List.all_eq_true.mp h p hp)

/-- HalyardOrder, the other clauses: not permitted, held, ahead of its turn by one and by 63, repeated with its response
kept, not good, too old, no session, a module that does not listen. -/
theorem witness_HalyardOrder :
    let x : Session := { id := 7, level := 2, received := 64, responses := [⟨64, 0, 0x06, 0, []⟩] }
    let s := { run with sessions := [x] }
    (talk .ready 0).permits 0 ⟨0x20, 1, true, sRead, first⟩ = false ∧ (talk .off 2).permits 2 ⟨0x41, 2, true, [.running], first⟩ = false ∧
    ((talk .running 3).setReg 0x10 1 |>.setReg (bTell + 8) 1).holds 0x53 = true ∧
    x.received + 1 < 66 ∧ x.highest < 66 + 64 ∧ x.repeats 66 = false ∧ x.repeats 64 = true ∧ x.highest < 64 + 64 ∧
    x.responses.find? (fun r => r.seq = 64 ∧ r.tag = 0) = some ⟨64, 0, 0x06, 0, []⟩ ∧ ¬ (1 + 64 ≤ x.highest) ∧ 0 + 64 ≤ x.highest ∧
    s.sessionOf 7 = some x ∧ s.sessionOf 8 = none ∧ s.listens = true ∧ off.listens = false ∧ x.early = [] ∧ x.ahead = [] := by
  decide +kernel

/-- HalyardControl, conditions beside the turn: a readable register, 64 and 65 addresses, addresses that may be set. -/
theorem witness_HalyardControl :
    devPlace 0x020000000000 = .reg 0 ∧ run.inFencedCore 0 = false ∧ (List.replicate 64 0).length ≤ 64 ∧
    64 < (List.replicate 65 0).length ∧ run.image.any (fun g => g.digest == 1) = false ∧
    (State.image { run with image := some { digest := 1 } }).any (fun g => g.digest == 1) = true ∧
    [((7 : Nat), 2 ^ 128 - 1)].any (fun a => 8 ≤ a.1 || 2 ^ 128 ≤ a.2) = false ∧
    [((8 : Nat), (0 : Nat))].any (fun a => 8 ≤ a.1 || 2 ^ 128 ≤ a.2) = true ∧ (0 < 1 ∧ 65535 < 65536) := by decide +kernel

/-- HalyardHostMemory, conditions beside the turn: an invalid entry to map, a valid one to unmap, a region, a queue pair of
CTX0 while it does not run and one that the image does not give, a buffer with memory and one without. -/
theorem witness_HalyardHostMemory :
    ((tables 0).entriesOf 1 [0]).1 = some [(0x3000, 0)] ∧ [((0x3000 : Nat), (0 : Word))].all (fun p => !bitAt p.2 0) = true ∧
    ((tables 0).ctx 1).state ≠ 0 ∧ [((0 : Nat), (0x1000F : Word))].all (fun p => bitAt p.2 0) = true ∧
    ((tables 0x1000F).entriesOf 1 [0]).1 = some [(0x3000, 0x1000F)] ∧
    [((0x3000 : Nat), (0x1000F : Word))].all (fun p => !bitAt p.2 0) = false ∧ (run.entriesOf 1 [0]).1 = none ∧
    ((runCtx (fun x => { x with state := 4, regions := 1 })).ctx 1).state = 4 ∧
    (0 < ((runCtx (fun x => { x with state := 4, regions := 1 })).ctx 1).regions ∧ 0 % 65536 = 0) ∧
    (run.qpHome 15).isSome = true ∧ (run.ctx 0).state ≠ 2 ∧ (run.qp 15).unacked = [] ∧ run.qpHome 16 = none ∧
    (let s := { run with image := some { sections := [(0x0004, 0, [0, 0, 64, 64, 0x100000000, 0, 0, 0])] } }
     (s.buffer 0).any hasMemory = true ∧ s.buffer 1 = none) := by decide +kernel

/-- A job in a state of its step, on a worker or on the top masthead. -/
def job (top : Bool) (st : Nat) : State :=
  { (clock top 2).setReg (bTell + 8) (BitVec.ofNat 64 st) with step := { job := true, copy := some {} } }

/-- HalyardStep, conditions beside the turn. -/
theorem witness_HalyardStep :
    (job false 1).expectsOpen 0 = true ∧ (job false 1).expectsOpen 1 = false ∧ (job false 2).isOpen 0 = true ∧
    (job false 3).isOpen 0 = true ∧ (job false 1).isOpen 0 = false ∧
    (let s := (job true 1).setReg bTell 1
     s.lastClosed 0 = true ∧ s.isTop = true ∧ s.masthead.published.contains 1 = false) ∧
    (job true 1).isTop = true ∧ (job false 1).isTop = false ∧ (job true 1).lastClosed 0 = false ∧
    (job true 1).masthead.opened.any (fun o => (0 : Word).toNat ≤ o.toNat) = false ∧ (job true 1).accumMax = none ∧
    (State.masthead { job true 1 with masthead := { opened := some 3 } }).opened.any (fun o => (3 : Word).toNat ≤ o.toNat) = true ∧
    (job false 1).step.copy = some {} ∧ (job false 1).stepState ≠ 2 ∧ (job false 2).stepState = 2 ∧ linked.qpUp 0 = true ∧
    (job false 1).step.pendingStart = none ∧ (some ({ digest := 1 } : JobBlock)).any (fun b => b.digest != run.firstBlock.digest) = true ∧
    run.load = none ∧ run.flash.cache.find? (fun c => c.1 = 1) = none := by decide +kernel

/-- HalyardMaintenance, conditions beside the turn: 128 calibration entries, each refusal of an image, no staged image and
one, the enrolment window, plumb runs and battens at the edge of their lead. -/
theorem witness_HalyardMaintenance :
    127 < (List.replicate 128 ({ typ := 0, index := 0, writer := 0, time := 0, value := 0 } : CalEntry)).length ∧
    ([] : List CalEntry).all calEntryOk = true ∧
    [({ typ := 8, index := 0, writer := 0, time := 0, value := 0 } : CalEntry)].all calEntryOk = false ∧
    fwRefusal 0 ⟨true, 0x4000000, true, true, 1, 64, 0⟩ = 0 ∧ fwRefusal 0 ⟨true, 0x4000001, true, true, 1, 0, 0⟩ = 4 ∧
    fwRefusal 0 ⟨true, 0, true, true, 1, 65, 0⟩ = 3 ∧ fwRefusal 1 ⟨true, 0, true, true, 1, 0, 0⟩ = 2 ∧
    fwRefusal 0 ⟨false, 0, true, true, 1, 0, 0⟩ = 5 ∧ fwRefusal 0 ⟨true, 0, true, false, 1, 0, 0⟩ = 1 ∧
    run.flash.staged = none ∧ (State.mayEnroll { run with enrollUntil := 1 } 1 (0, 0)) = true ∧
    run.mayEnroll 1 (1, 1) = false ∧ (talk .ready 2).plumbRefused 0x100 = false ∧ (talk .ready 2).plumbRefused 0 = true ∧
    run.isMasthead = false ∧ (clock true 2).isMasthead = true ∧ run.battenOk false 0 50000 = true ∧
    run.battenOk false 0 49999 = false ∧ run.battenMembers 0 = [] ∧ run.battenOk true 3 (10 ^ 9) = false := by decide +kernel

/-! ## Witnesses: sessions, mastheads, steps, loading, the ledger, numbers -/

/-- A handshake that has stood for a second, and a session with its times. -/
def meeting (now : Nat) (x : Session) : State :=
  { run with
    shakes := [⟨1, { level := 2, chainOk := true, ownerSigned := true }, 0⟩], sessions := [x], time := { now := now }
    flash := { owner := 1 } }

/-- SessionResult: 15 and 16 sessions, a handshake at a second, a session at 60 s and 1 ns before, and at its limits. -/
theorem witness_Session :
    let s := meeting (10 ^ 9) { id := 7, level := 2 }
    let a : Auth := { session := 1, sigOk := true }
    s.listens = true ∧ s.sessions.length < 16 ∧ (List.replicate 15 ({ id := 7, level := 2 } : Session)).length < 16 ∧
    16 ≤ (List.replicate 16 ({ id := 7, level := 2 } : Session)).length ∧
    (s.shakes.find? (fun x => x.id = a.session)).isSome = true ∧ s.time.now ≤ 0 + 10 ^ 9 ∧
    s.grant { level := 2, chainOk := true, ownerSigned := true } a = some 2 ∧
    s.grant { level := 2, chainOk := true, ownerSigned := true } { a with sigOk := false } = none ∧
    (meeting (60 * 10 ^ 9) { id := 7, level := 2 }).sessionOf 7 = some { id := 7, level := 2 } ∧
    0 + 60 * 10 ^ 9 ≤ (meeting (60 * 10 ^ 9) { id := 7, level := 2 }).time.now ∧
    (meeting (60 * 10 ^ 9 - 1) { id := 7, level := 2 }).time.now < 0 + 60 * 10 ^ 9 ∧ 0 + day ≤ (meeting day { id := 7, level := 2 }).time.now ∧
    (meeting (day - 1) { id := 7, level := 2 }).time.now < 0 + day ∧ (2 ^ 32 < 2 ^ 32 + 1 ∧ 1 ≤ 2 ^ 32) := by decide +kernel

/-- NotificationResult: the sixteenth send and the last, the fourth send of a request, an acknowledgement in turn. -/
theorem witness_Notification :
    let o : Outgoing := { session := 7, seq := 1, code := 0x81, words := [], sends := 16 }
    let s := { talk .running 2 with notes := [o], masthead := { requests := [{ o with code := 0x53, sends := 3 }] } }
    s.notes[0]? = some o ∧ o.sends ≤ 16 ∧ 16 < { o with sends := 17 }.sends ∧
    s.masthead.requests[0]? = some { o with code := 0x53, sends := 3 } ∧ { o with sends := 3 }.sends < 4 ∧
    4 ≤ { o with sends := 4 }.sends ∧ s.sessionOf 7 = some { id := 7, level := 2 } ∧
    (Session.highest { id := 7, level := 2 }) < 1 + 64 ∧ (Session.repeats { id := 7, level := 2 } 1) = false ∧ s.listens = true ∧
    s.masthead.requests.find? (fun r => r.session = 7 ∧ r.seq = 1) = some { o with code := 0x53, sends := 3 } ∧
    (0x53 : Nat) ≠ 0x83 := by decide +kernel

/-- MastheadResult: an event that is new and one that is not, a worker, a top and a group masthead, a budget and a wave at
its millisecond and before it. -/
theorem witness_Masthead :
    let s := clock true 2
    let group := { linked with image := some { sections := [(0x0001, 0, [packWord [(62, 1)]])] } }
    s.mode.powered = true ∧ s.isMasthead = true ∧ (kget [] s.masthead.heard 7).contains 1 = false ∧
    (kget [] s.masthead.heard 7).foldl max 0 < 1 + 64 ∧
    (kget [] (State.masthead { s with masthead := { heard := [(7, [1])] } }).heard 7).contains 1 = true ∧
    s.mode = .running ∧ run.isMasthead = false ∧ s.isTop = true ∧ group.isTop = false ∧ group.isMasthead = true ∧
    (s.setReg bMh (packWord [(32, 100)])).rfld bMh 63 32 ≠ 0 ∧
    (State.masthead { s with masthead := { stagger := some (10 ^ 9, 7) } }).stagger = some (10 ^ 9, 7) ∧
    10 ^ 9 + 7 * 1000000 ≤ s.time.now ∧ (State.time { s with time := { now := 10 ^ 9 } }).now < 10 ^ 9 + 7 * 1000000 := by
  decide +kernel

/-- StepTransitions: the largest counts; a context that a rollback makes ready. -/
theorem witness_StepTransitions : (65535 : Nat) < 65536 ∧ 2 ^ 32 - 1 < 2 ^ 32 ∧ (run.ctx 1).cls = 2 ∧ (run.ctx 1).state ≠ 0 := by
  decide +kernel

/-- StepBoundaryResult: a step at its boundary, a notice that is due with its record sent, sending and waiting, the notice
of the only reporter, the wait for the others at its end and before it, a RELEASE that is due and one that is not. -/
theorem witness_StepBoundary :
    let s := { (job false 2) with step := { job := true, atBoundary := true } }
    let due := { (job false 3) with step := { job := true, noticeDue := true } }
    let m := { job true 3 with masthead := { noticeAt := some 0 } }
    s.mode = .running ∧ s.step.atBoundary = true ∧ s.isOpen s.stepNow = true ∧ s.stepState = 2 ∧ s.step.noticeDue = false ∧
    due.step.noticeDue = true ∧ due.isMasthead = false ∧ due.step.recDue = [] ∧ due.step.recWait = 0 ∧ due.shardsDone = true ∧
    (State.step { due with step := { recWait := 1 } }).recWait ≠ 0 ∧ m.isMasthead = true ∧ m.isOpen 0 = true ∧
    m.masthead.settled = false ∧ m.reporters = [0] ∧ m.masthead.noticeAt = some 0 ∧ 0 + m.policy 42 27 * 1000000 ≤ m.time.now ∧
    s.releaseDue = true ∧ run.releaseDue = false ∧ m.masthead.releases.contains 0 = false := by decide +kernel

/-- StepBoundaryResult: a gradient shard of one element and the first granule of its region. -/
theorem witness_ShardHeader :
    let e : List Word := [packWord [(48, 3), (40, 2), (39, 1)], 0, 1, 0]
    let image : Image := { sections := [(0x0004, 0, [0x07000000, 0x10000, 0x40000, 0x40000, 0x100000000, 0, 0, 0]),
      (0x0021, 0, [packWord [(52, 1)], 0, 0, 64, 96, 96, 0, 0] ++ e)] }
    let s := { run with image := some image }
    s.shards.find? (fun x => x.1 = 0) = some (0, e) ∧ s.shardAt 0x10000 = some 0 ∧ s.shardAt 0x10100 = none ∧
    s.shardOf 0x10100 = some (0, 256) := by decide +kernel

/-- The sections of a least image that passes every check: CTX0, CTX1 on core 0 with one tensor, one parameter shard in a
host window, a program that ends at once. -/
def smallSections : List (Nat × List Word) :=
  [(0x01, [packWord [(62, 2)], 0, 0, 0]),
   (0x02, [packWord [(62, 1)], 0, 0, 0x10000] ++ List.replicate 12 0 ++
     [packWord [(62, 2), (46, 1)], 1, 0, packWord [(48, 0), (32, 16), (16, 2), (8, 1)], packWord [(48, 0), (32, 8)], 0,
      packWord [(48, 1), (35, 1)]]),
   (0x04, [packWord [(44, 9)], 0, 0x800000, 0x800000, 0x100000000, 0, 0, 0] ++
     [packWord [(48, 1), (44, 4), (36, 8)], 0, 0x40000, 0x40000, 0x100000000, 0, 0, 0] ++
     [packWord [(48, 2), (44, 7), (40, 1), (24, 1)], 0, 0x40000, 0x40000, 0x100000000, 0, 0, 0]),
   (0x05, [packWord [(51, 2)], 256] ++ List.replicate 15 0 ++ [packWord [(51, 1), (0, 288)]] ++ List.replicate 14 0 ++
     [packWord [(52, 16), (48, 1), (45, 0)], packWord [(52, 17), (48, 1), (45, 4)], 0, 0] ++
     [0, 0x40000, packWord [(20, 16), (8, 17)], 0]),
   (0x06, [5, 1, packWord [(48, 1), (42, 1)], 0, packWord [(8, 0xFF)]]),
   (0x10, [packWord [(48, 1)], 64, 0, 0, 0, 256, 0xFFFF000000000000, 0] ++
      [0, packWord [(16, 0xFFFF)], 0, 0, 0, 0, 1] ++ List.replicate 17 0 ++ [2304, 16] ++ List.replicate 254 0 ++ [packWord [(56, 0xE4)], 0]),
   (0x20, [1, 0, 0, 0]), (0x21, [packWord [(52, 1)], packWord [(48, 2)], 0, 64, 0, 0, 0, 0, 0, packWord [(48, 2)]]),
   (0x23, [packWord [(60, 1), (27, 1)]]), (0x24, [0, 16, 0, 0])]

/-- An image of sections under an owner key, with its job digest. -/
def imageOf (owner : Nat) (secs : List (Nat × List Word)) : ImageFile :=
  let n := secs.length
  let head := fun (d : List Word) => [packWord [(56, 1), (32, 0x100), (0, 0x53494752)], BitVec.ofNat 64 (4096 * n + 1024), packWord [(48, 1), (40, 1), (0, n)],
      256, 0, 0] ++ bytesWords 6 (leBytes 48 (ownerDigest owner)) ++ d ++ List.replicate 14 0
  let f : ImageFile := { header := head [], dir := secs.zipIdx.map (fun t => [packWord [(48, t.1.1)], BitVec.ofNat 64 (4096 * (t.2 + 1)), BitVec.ofNat 64 (8 * t.1.2.length), 0])
                         sections := secs.map (fun t => t.2) }
  { f with header := head (bytesWords 6 (sha384 ((asResident f (imagePicked f)).digestBytes f.header))) }

/-- The least image under an owner key. -/
def smallImage (owner : Nat) : ImageFile := imageOf owner smallSections

/-- An owner's public key, and the least image under it with its signature. -/
def ownerKey : Nat := 0xd9791f9432dfb498865d9e32627e93f8ed82a71e35885728c4fa48bdf9c243be3a49707addc1c7eb3872f30bffa02727172c7ee0083f5cce646c4de3bce281d305daba52202e3a70e62012ef12be640f73fba7d0eb51c0762a592baf136f1b6f04
def signature : Nat × Nat :=
  (0x343e56c7984dcfc81cbcbf747aab0f02c94b033665da2fd7c196b183898ecea11f3d0d617b222e106cd874a6a3ec6588,
   0x3380f4acd35bd6c02ca90298f0b3c1adc5ee4a94e639c2bc85a7b82315b48638147577dc9c63121bd5b5b070cc37b7f9)
def signedImage : ImageFile :=
  { smallImage ownerKey with trailer := bytesWords 12 ((leBytes 48 signature.1).reverse ++ (leBytes 48 signature.2).reverse) }

/-- The message words of that image's digest, and SHA-384's hash words at places of it (from the published algorithm). -/
def signedWords : List Nat := shaMessage (imageWords signedImage)
def signedHash1 : List Nat :=
  [0xcb3ee5b6ec1515a1, 0xf34be58308ec43dd, 0x7bb263c6206b8537, 0x9f4e170927b973df,
   0xd30cf03936cbf017, 0x954b5a8e80cb2888, 0xa5937acaa87ab46c, 0x2a9e4dd0b32813b7]
def signedHash2 : List Nat :=
  [0xb837152ed6499aa2, 0xa5302b8949a73566, 0x3d048093488b4a63, 0x6292b151d346d654,
   0xc3eac100fc763fdb, 0x79baffa03b543029, 0x8b790d530cbe4298, 0x9c6b2af9b8d01e91]
def signedHash3 : List Nat :=
  [0x409d917032bf1e93, 0x17416642c04cc2fd, 0xad5f84acf0876fcf, 0x7bfe1d94429e1e43,
   0xe57dd48e62fc6c24, 0x1e8bdf7980430fd6, 0x19c50d5251912075, 0x297daaf18f00b84d]
def signedHash4 : List Nat :=
  [0x9ea9a0d2f882cd14, 0x60e0acfddf21cdff, 0x7c5d89211e1b20a6, 0xff1b17dd098ab1db,
   0x98455a5bfff1c6a6, 0x84b2df82081293c, 0x75e343ca1e6a2f89, 0xe2f1e91b152adef3]
def signedHash5 : List Nat :=
  [0x18f7806a9400d6ea, 0xe6b6afda296cb470, 0x1dcff62eeb342b45, 0xbcc2f6f6b1ea0fe5,
   0xbcc99207ed8c09a6, 0xe84b2fda0beede60, 0x70a046a3c2024b49, 0x72301b8234721fb4]
def signedHash6 : List Nat :=
  [0x37460b7aadcc2c62, 0xb89ef4f140851d0, 0xb06192dcd4b1d22e, 0xbf06cdb47580287b,
   0x21baf31de9aab5f0, 0x9d0260090d49d1dc, 0x290b3ad6468f95df, 0x728088a634b18d47]
def signedHash7 : List Nat :=
  [0x7b1704e1b49042a9, 0x71750b1f2aecddd9, 0xd00537dc5b03f5e4, 0xd20abcc2e3f5d8c1,
   0x2a79180bb8c2d748, 0x299e0ce0f08b6d8c, 0xf9918a98416ff3ab, 0xa6c21adbbdac138f]
def signedHash8 : List Nat :=
  [0xc6ed0421ba728e4b, 0x14f92d68d3579873, 0x7a933d26f18897f4, 0x48008007537ded22,
   0xa1585fe1aa4b20d8, 0x49de11aa086df8a2, 0x51d05a4ffc8e5fda, 0x7eb219e9965d6a87]

theorem signed_part1 : shaBlocks 41 signedWords shaInit = signedHash1 := by decide +kernel
theorem signed_part2 : shaBlocks (41 + 41) signedWords shaInit = signedHash2 := by
  rw [shaBlocks_add, signed_part1]; decide +kernel
theorem signed_part3 : shaBlocks (82 + 41) signedWords shaInit = signedHash3 := by
  rw [shaBlocks_add, signed_part2]; decide +kernel
theorem signed_part4 : shaBlocks (123 + 41) signedWords shaInit = signedHash4 := by
  rw [shaBlocks_add, signed_part3]; decide +kernel
theorem signed_part5 : shaBlocks (164 + 41) signedWords shaInit = signedHash5 := by
  rw [shaBlocks_add, signed_part4]; decide +kernel
theorem signed_part6 : shaBlocks (205 + 41) signedWords shaInit = signedHash6 := by
  rw [shaBlocks_add, signed_part5]; decide +kernel
theorem signed_part7 : shaBlocks (246 + 41) signedWords shaInit = signedHash7 := by
  rw [shaBlocks_add, signed_part6]; decide +kernel
theorem signed_part8 : shaBlocks (287 + 40) signedWords shaInit = signedHash8 := by
  rw [shaBlocks_add, signed_part7]; decide +kernel

/-- R337, R338: the digest of that image, and its signature verifies. -/
theorem signed_digest : imageHash signedImage = (signedHash8.take 6).flatMap (fun w => (leBytes 8 w).reverse) := by
  have h : (shaMessage (imageWords signedImage)).length / 16 = 287 + 40 := by decide +kernel
  simp only [imageHash, sha384Words, h]
  rw [show shaBlocks (287 + 40) (shaMessage (imageWords signedImage)) shaInit = signedHash8 from signed_part8]

theorem test_signature : check4 ownerKey signedImage = [] ∧
    signedBy ownerKey (List.replicate 48 0) signature.1 signature.2 = false := by
  refine ⟨?_, by decide +kernel⟩
  unfold check4; rw [signed_digest]
  decide +kernel

/-- The check that the least image fails with one word of a section of a type changed. -/
def failsWith (t i : Nat) (w : Word) : Option (Nat × Nat) :=
  let f := imageOf 1 (smallSections.map (fun s => if s.1 = t then (t, s.2.set i w) else s))
  (firstFail (check7 f ++ check9 (imagePicked f) ++ graphFails f)).map (fun x => (x.1, x.2.1))

/-- R364: a top masthead that names another module, a reserved opcode, a program that does not end, a
negative pivot threshold, no accumulation count, no rollback, a
manifest that differs. -/
theorem test_loader_refuses :
    failsWith 0x01 3 (packWord [(32, 7)]) = some (9, 3) ∧ failsWith 0x10 288 (packWord [(56, 0x26)]) = some (7, 2) ∧
    failsWith 0x10 288 (packWord [(56, 0xE5)]) = some (16, 3) ∧ failsWith 0x20 1 (packWord [(63, 1), (52, 0x3FF)]) = some (15, 3) ∧
    failsWith 0x06 2 (packWord [(42, 1)]) = some (19, 3) ∧ failsWith 0x23 0 (packWord [(27, 1)]) = some (20, 3) ∧
    failsWith 0x24 1 24 = some (21, 3) := by decide +kernel

/-- LoadAndStartResult: a load that passes, one of another owner's image that does not, no load; a job start that agrees
and one whose exchange does not. -/
theorem witness_LoadAndStart :
    let s : State := { mode := .ready, flash := { owner := ownerKey } }
    let l : Load := { env := first, image := signedImage, cached := false, store := false, fence0 := 0 }
    s.loadFail l {} = none ∧ (s.loadFail { l with image := smallImage 2 } {}).map (fun x => x.1) = some 3 ∧ s.load = none ∧
    (State.startStatus { s with mode := .loaded } ⟨[0], [], none, none⟩ {}) = 0 ∧ s.startStatus ⟨[1], [], none, none⟩ {} ≠ 0 ∧
    s.startStatus ⟨[0], [], none, some (1, false)⟩ {} = 3 := by
  intro s l
  refine ⟨?_, by decide +kernel⟩
  unfold State.loadFail
  simp only [show check4 s.flash.owner l.image = [] from test_signature.1]
  decide +kernel

/-- LedgerResult: an absorbed entry at the end of its second and before it, an entry due at once behind it, an entry to follow,
each place of a plumb run, the enrolment window. -/
theorem witness_Ledger :
    let e : LedgerItem := {}
    let s := { run with buffered := [⟨e, some 5⟩, ⟨e, none⟩], time := { now := 5 }, flash := { ledger := [{ seq := 1 }] } }
    s.buffered[0]? = some ⟨e, some 5⟩ ∧ s.mode.powered = true ∧ 5 ≤ s.time.now ∧ run.time.now < 5 ∧
    s.buffered[1]? = some ⟨e, none⟩ ∧ (some 5 : Option Nat).isSome = true ∧ run.buffered = [] ∧ s.flash.ledger.getLast? = some { seq := 1 } ∧
    (let p : Plumb := { field := 3, mode := 0, left := 1, railMv := 0, step := 2, group := 3 }
     let n : Fin 128 := ⟨((plumbGroup 3 3)[0]?).getD 0, by decide +kernel⟩
     { run with plumb := some p }.unitMayRun p = true ∧ (plumbGroup 3 3).contains n.val = true ∧ run.fenced n = false ∧
       { run with mode := .off }.unitMayRun p = false ∧ 3 ≤ p.group ∧ 2 ≤ p.step ∧ { p with group := 0 }.group < 3 ∧
       { p with step := 1 }.step < 2 ∧ kget 0 (p.take [(n, .stressOnly)]).results n = 1 ∧ run.plumb = none) ∧
    (State.mode { run with mode := .ready }) = .ready ∧ run.mode ≠ .ready ∧ (0xA4 : Byte) ≠ 0xA5 ∧ run.enrollUntil ≤ run.time.now ∧
    (State.time { run with enrollUntil := 1 }).now < 1 := by decide +kernel

/-- SpecialSumResult and ZeroBlockSum: contributions with a NaN, both infinities, one, none; a block of one negative and
one positive zero product. -/
theorem witness_Sums :
    let inf := fun n => layout32.decode (layout32.infBits n)
    let quiet := layout32.decode layout32.defaultNaN
    [quiet].any Machine.Num.isNan = true ∧ [inf false].any (fun v => v.isInf && !v.sign) = true ∧
    [inf true].any (fun v => v.isInf && v.sign) = true ∧ [inf true].any (fun v => v.isInf && !v.sign) = false ∧
    [inf false].any (fun v => v.isInf && v.sign) = false ∧ [inf false].any Machine.Num.isNan = false ∧
    [layout32.decode 0].any Machine.Num.isNan = false ∧ ((Fmt.fp32.decode 0x80000000).mul (Fmt.fp32.decode 0)).isFin = true ∧
    ([((Fmt.fp32.decode 0x80000000).mul (Fmt.fp32.decode 0)), (Fmt.fp32.decode 0).mul (Fmt.fp32.decode 0)].map
      (fun x => (x.scale 48).toInt)).foldl (· + ·) 0 = 0 ∧ (pass .queued 0).pre = [] := by decide +kernel

/-- StepRunsFrontCommand and StepKeepsInv: a state with a command, one with none, one that is off; reset keeps the invariant. -/
theorem witness_Step : run.pending = [] ∧ off.mode = .off ∧ run.mode ≠ .off ∧ (after (step { run with pending := [.haltReq] })).isSome = true := by
  decide +kernel

/-! ## Well-formed commands -/

/-- A vector instruction of an opcode, with fields as (low bit, value). -/
def ve (opc : Nat) (fs : List (Nat × Nat)) : VeOp := op (packWord ((56, opc) :: fs))

/-- A descriptor of `n` words of an opcode; fields as (word, low bit, value). -/
def ds (n opc : Nat) (fs : List (Nat × Nat × Nat)) : Desc :=
  { core := 0, ctx := 1
    words := (List.range n).map (fun i => packWord ((if i = 0 then [(56, opc)] else []) ++
      (fs.filter (fun f => f.1 = i)).map (fun f => f.2))) }

/-- A pass of one row and column that preloads nothing: PRELOAD is 0xFFFF (R93). -/
def goodPass : List (Nat × Nat × Nat) := [(1, 55, 1), (1, 48, 1), (2, 0, 0xFFFF)]

/-- The fields of a small LU of order 4 and a batch of one. -/
def goodLu : List (Nat × Nat × Nat) := [(0, 41, 4), (1, 32, 1), (2, 32, 0xFFFF), (2, 16, 0xFFFF)]

/-- One well-formed command for each kind of check. -/
theorem test_wf_accepts : ([
    .add (ve 0x80 []), .div (ve 0x85 [(51, 1), (44, 62)]), .ldq (ve 0xA0 [(0, 7)]), .stq (ve 0xA1 [(0, 15)]),
    .rsum (ve 0xB0 [(16, 8)]), .nstat (ve 0xB5 [(26, 1), (44, 61), (38, 7)]), .cvt (ve 0x8E [(21, 12), (50, 1)]), .utab (ve 0xC8 [(16, 3)]),
    .matrixPass (ds 8 0x40 goodPass), .smallLu (ds 8 0x48 goodLu),
    .alloc (ds 8 0x50 [(3, 44, 1)]), .load (ds 8 0x20 [(1, 16, 0xFFFF)]), .gather (ds 8 0x24 []),
    .transpose (ds 8 0x30 []), .wait (ds 2 0xE0 []), .loop (ds 2 0xE2 [(0, 54, 2)]), .nop (ds 2 0xE5 []),
    .rawWrite 0 0 0 (List.replicate 4096 0), .rawWrite 0 0 15 (List.replicate 3840 0), .setAccum first 65535 0,
    .setAddr first [(7, 0)] none, .regRead first (List.replicate 64 8), .controlSlotReceived 0 ⟨0, none, 0, false, [0, 0, 0, 0, 0, 0], true⟩]
      : List Instr).all Instr.wf = true := by decide +kernel

/-- An instruction with another opcode, a format it does not take, an odd FP64 register, a field it does not use, a group, a
FIFO or an immediate out of range. -/
theorem test_wf_refuses_ve : ([
    .add (ve 0x81 []), .add (ve 0x80 [(51, 3)]), .add (ve 0x80 [(51, 1), (44, 1)]), .sqrt (ve 0x86 [(26, 1)]), .mov (ve 0xA3 [(50, 1)]),
    .ldq (ve 0xA0 [(38, 1)]), .add (ve 0x80 [(21, 1)]), .cvt (ve 0x8E [(21, 13)]), .rsum (ve 0xB0 []), .rsum (ve 0xB0 [(16, 9)]),
    .ldq (ve 0xA0 [(0, 8)]), .stq (ve 0xA1 [(0, 7)]), .nstat (ve 0xB5 [(44, 62)]), .utab (ve 0xC8 [(16, 4)]), .cmp (ve 0x8C [(0, 5)])]
      : List Instr).all (fun i => !i.wf) = true := by decide +kernel

/-- A descriptor of another length or opcode, with a reserved bit, a count of zero or too many, or a wrong sub-operation. -/
theorem test_wf_refuses_desc : ([
    .matrixPass (ds 7 0x40 goodPass), .matrixPass (ds 8 0x41 goodPass), .matrixPass (ds 8 0x40 ((7, 0, 1) :: goodPass)),
    .matrixPass (ds 8 0x40 [(1, 55, 257), (1, 48, 1), (2, 0, 0xFFFF)]), .matrixPass (ds 8 0x40 [(1, 55, 1), (1, 48, 65), (2, 0, 0xFFFF)]),
    .matrixPass (ds 8 0x40 [(1, 55, 1), (1, 48, 1)]), .matrixPass (ds 8 0x40 ((0, 41, 5) :: goodPass)),
    .smallLu (ds 8 0x48 [(0, 41, 65), (1, 32, 1), (2, 32, 0xFFFF), (2, 16, 0xFFFF)]), .smallCholesky (ds 8 0x48 goodLu),
    .alloc (ds 8 0x50 [(3, 44, 0)]), .share (ds 8 0x50 [(3, 44, 1)]), .load (ds 8 0x20 []), .atomicMin (ds 8 0x25 []),
    .load (ds 8 0x20 [(1, 16, 0xFFFF), (3, 27, 7)]), .runAheadPrefetch (ds 8 0x20 [(1, 16, 0xFFFF)]), .bitrev (ds 8 0x30 []),
    .transpose (ds 8 0x30 [(0, 42, 5)]), .wait (ds 2 0xE0 [(0, 0, 1)]), .loop (ds 2 0xE2 [(0, 54, 3)]), .phaseEnd (ds 2 0xE4 [(1, 0, 1)])]
      : List Instr).all (fun i => !i.wf) = true := by decide +kernel

/-- Messages and events of a wrong length or range. -/
theorem test_wf_refuses_rest : ([
    .chunkReceived { op := 0, header := [0, 0, 0], payload := [], crcOk := true },
    .flitReceived 0 { header := 0, payload := List.replicate 33 0, poison := 0, crcOk := true },
    .controlSlotReceived 0 ⟨0, none, 0, false, [0], true⟩, .travellerPageReceived false { header := [], payload := [], crcOk := true },
    .selftestDone { cores := [1, 1] }, .regRead first (List.replicate 65 0), .regRead first [4], .regWrite first [(1, 0)],
    .registerWrite .owner 4 0, .write 0 [] 0 false, .stackCopy 0 1 0, .fillZero 0 0, .furlPack 0 0 [], .rawWrite 0 0 1 (List.replicate 255 0),
    .calWrite first [⟨256, 0, 0, 0, 0⟩], .setAccum first 0 0, .setAddr first [(8, 0)] none, .thermalSample ⟨0, [], 0, 0⟩, .bubbleWindowOpen 65536]
      : List Instr).all (fun i => !i.wf) = true := by decide +kernel

/-! ## The spec's worked examples -/

/-- The example of the device map: core C005's block and core store. -/
theorem test_core_places : 0x020000000000 + bCore 5 = 0x020010500000 ∧ csAddr 5 0 = 0x010005000000 ∧
    csAddr 5 0x600000 - 1 = 0x0100055FFFFF ∧ devPlace 0x010005600000 = .none := by decide +kernel

/-- The example of R60: 300.0 becomes E4M3 288 under code 0x7F, and 0.011 becomes 352 under 0x70. -/
theorem test_mx_block :
    (let r := quantMx .mxE4m3 [.fin false 300 0]
     r.1 = 0x7F ∧ (r.2.1.map Fmt.mxE4m3.decode).all (fun v => v.eq (.fin false 288 0)) = true) ∧
    (let r := quantMx .mxE4m3 [(Num.fin false 11 0).div (.fin false 1000 0)]
     r.1 = 0x70 ∧ (r.2.1.map Fmt.mxE4m3.decode).all (fun v => v.eq (.fin false 352 0)) = true) := by decide +kernel

/-- The example of R68: the block sum −6.906005859375 on 1,000,000.0 gives 999,993.125. -/
theorem test_block_sum :
    (layout32.decode (blockStep .mxE4m3 .mxE4m3 (layout32.rne (.fin false 1000000 0))
      ([(0x3C, 0x40), (0xB6, 0x44), (0x01, 0x30), (0x7E, 0x98)].map (fun p =>
        (({ code := p.1, scale := 0x7C } : Elem), ({ code := p.2, scale := 0x80 } : Elem)))))).eq
      (.fin false 7999945 (-3)) = true := by decide +kernel

/-- The example of R69 to R75: exponents 1 and 3, the integer 0x0260000000000030, and 2.375 + 2^-50. -/
theorem test_split_mantissa :
    let a := [Num.fin false (2 ^ 52 + 1) (-52), .fin false (2 ^ 52 + 1) (-55)]
    let b := [Num.fin false 3 0, .fin true 5 0]
    let digits := fun ea v => sliceDigits 7 (sliceInt ea v) []
    let sum := (List.zipWith (fun x y => slicePair (digits 1 x) (digits 3 y)) a b).foldl (· + ·) 0
    sliceExp a = 1 ∧ sliceExp b = 3 ∧ sliceInt 1 (.fin false (2 ^ 52 + 1) (-52)) = 2 ^ 53 + 2 ∧ sum = 0x0260000000000030 ∧
    (layout64.decode (smValue (sum, 4, false)).1).eq (.fin false (19 * 2 ^ 47 + 1) (-50)) = true := by decide +kernel

/-- The example of R76 to R79: 2^30, 1.5 and −2^30 sum to 1.5 in every order. -/
theorem test_order_free :
    let vs := [Num.fin false 1 30, .fin false 3 (-1), .fin true 1 30]
    emaxOf vs = some 30 ∧
    (layout32.decode (finalSum layout32 (some 30) ((vs.map (toFixed 30)).foldl (· + ·) 0) 0).1).eq (.fin false 3 (-1)) = true ∧
    (layout32.decode (finalSum layout32 (some 30) ((vs.reverse.map (toFixed 30)).foldl (· + ·) 0) 0).1).eq (.fin false 3 (-1)) = true := by
  decide +kernel

/-- The example of R139: the tree of six and of five vectors, as sums that show the order of rounding: 2^24 + 1 rounds to 2^24, and a
pair of ones does not. -/
theorem test_stream_tree :
    let one := 0x3F800000
    let big := 0x4B800000
    (layout32.decode (fixedTree (addBits .fp32) [big, one, one, one, one, one])).eq (.fin false (2 ^ 24 + 4) 0) = true ∧
    (layout32.decode (fixedTree (addBits .fp32) [one, one, one, one, big])).eq (.fin false (2 ^ 24 + 4) 0) = true := by decide +kernel

/-- The example of R147: an FP64 NaN of column 5, narrowed to FP32 and on to BF16. -/
theorem test_nan_narrows : (convBits .fp64 .fp32 false 0x7FFC500000000000).1 = 0x7FE28000 ∧
    (convBits .fp32 .bf16 false 0x7FE28000).1 = 0x7FE2 := by decide +kernel

/-- The worked decode of PA 0x359AC37E40: stack 3, channel 11, row 11,478, bank 7 of group 3, slice 6, set 447. -/
theorem test_address_decode :
    let pa := 0x359AC37E40
    paStack pa = 3 ∧ paGranule pa = 0x59AC37 ∧ paChannel pa = 11 ∧ paRow pa = 11478 ∧ paBank pa = 3 * 16 + 7 ∧ paSlice pa = 6 ∧
    paSet pa = 447 := by decide +kernel

/-- The example of R288 to R290: MXFP6 element (70, 5) of a 100 by 48 view, its scale, and its global position. -/
theorem test_packing :
    let ws : List Word := [0, packWord [(59, Fmt.mxE2m3.code), (56, 1)], 4096, 0, 8192, 0, packWord [(32, 48), (0, 100)], 0, 0, 0,
      packWord [(40, 100), (0, 1)], 0, 0, 0, 0, 0]
    let v := viewOf ws ws
    v.bitAddr [70, 5] = 8 * 426 + 12 ∧ v.scaleAddr [70, 5] = 4096 + 22 ∧ v.position [70, 5] = 819770 ∧ 819770 / 4 = 204942 := by
  decide +kernel

/-- The example of R306: the indices of VA 0x004000050000. -/
theorem test_va_indices : (List.range 4).map (vaIndex 0x004000050000) = [0, 256, 0, 5] := by decide +kernel

/-- The example of R21: the peak allowance of 1,760 W at 44 V. -/
theorem test_peak : min 1900000 (40 * 44000) = 1760000 := by decide +kernel

/-! ## Published values -/

/-- R81: Philox-4×32-10 as published, for a counter and key of zeros and of ones. -/
theorem test_philox : philoxRounds 10 (0, 0, 0, 0) 0 0 = (0x6627E8D5, 0xE169C58D, 0xBC57AC4C, 0x9B00DBD8) ∧
    philoxRounds 10 (0xFFFFFFFF, 0xFFFFFFFF, 0xFFFFFFFF, 0xFFFFFFFF) 0xFFFFFFFF 0xFFFFFFFF =
      (0x408F276D, 0x41C83B0E, 0xA20BC7C6, 0x6D5451FD) := by decide +kernel

/-- R277: the check value of CRC-32C, of the digits 1 to 9. -/
theorem test_crc : crc32c ((List.range 9).map (fun i => BitVec.ofNat 8 (0x31 + i))) = 0xE3069283 := by decide +kernel

/-- R337: SHA-384 of "abc", its first 8 bytes. -/
theorem test_sha : (sha384 [0x61, 0x62, 0x63]).take 8 = [0xCB, 0x00, 0x75, 0x3F, 0x45, 0xA3, 0x5E, 0x8B] := by decide +kernel

/-! ## Commands, one step each -/

/-- Register 1 holds 1.0, register 2 holds 2.0, in every lane. -/
def lanes : State := runCore { vregs := [(1, cleanReg (List.replicate 256 0x3F800000)), (2, cleanReg (List.replicate 256 0x40000000))] }

/-- R135: ADD of 1.0 and 2.0 into a source register gives 3.0; SUB the other way about gives -1.0. -/
theorem test_add_sub :
    ((after (exec (.add (ve 0x80 [(44, 1), (38, 1), (32, 2)])) lanes)).map (fun t => (t.vreg 0 1).lanes.getD 255 0)) = some 0x40400000 ∧
    ((after (exec (.sub (ve 0x81 [(44, 3), (38, 1), (32, 2)])) lanes)).map (fun t => (t.vreg 0 3).lanes.getD 0 0)) = some 0xBF800000 := by
  decide +kernel

/-- R136: IADD wraps, SHL by 32 gives 0. -/
theorem test_int_ops : iaddBits 0xFFFFFFFF 2 = 1 ∧ shlBits 1 32 = 0 ∧ shlBits 1 31 = 0x80000000 := by decide +kernel

/-- R131: an ADD of a poisoned register faults the context with E_POISON and writes nothing. -/
theorem test_poison :
    (after (exec (.add (ve 0x80 [(44, 1)])) (runCore { vregs := [(0, poisonReg)] }))).map
      (fun t => ((t.ctx 1).state, (t.ctx 1).code, (t.vreg 0 1).lanes.getD 0 0)) = some (6, 6, 0) := by decide +kernel

/-- R138: RSUM over groups of two of 1.0 gives 2.0. -/
theorem test_rsum : (after (exec (.rsum (ve 0xB0 [(44, 3), (38, 1), (16, 1)])) lanes)).map (fun t => (t.vreg 0 3).lanes.getD 0 0) =
    some 0x40000000 := by decide +kernel

/-- R37: POWER_ON from OFF; MOD_RESET of a running module keeps its module time. -/
theorem test_power :
    (after (exec (.powerOn true) off)).map (fun t => (t.mode, t.flash.boots)) = some (.powering, 2) ∧
    (after (exec .modReset { run with time := { now := 7 } })).map (fun t => (t.mode, t.time.now, t.ctxs)) = some (.powering, 7, []) := by
  decide +kernel

/-- R541, R542: a junction at 105 °C faults the module with cause 4 and takes FAULT_N low; at 104 °C it runs on. -/
theorem test_thermal :
    (after (exec (.thermalSample ⟨105, List.replicate 8 20, 20, 20⟩) run)).map (fun t => (t.mode, t.cause, t.pins.faultN)) =
      some (.faulted, 4, false) ∧
    (after (exec (.thermalSample ⟨104, List.replicate 8 20, 20, 20⟩) run)).map (fun t => t.mode) = some .running := by decide +kernel

/-- R216: a READ corrects one bad byte, writes it back and answers clean data. -/
theorem test_read_corrects :
    (after (exec (.read 0 0) { run with mem := [(0, 3)], synd := [(0, symSynd 0 2)] })).map
      (fun t => (t.codeSynd 0, (t.bytes 0 2), (t.sent.map (fun x => x.status)))) = some (0, [1, 0], [0]) := by decide +kernel

/-- R217: a masked WRITE of byte 1 keeps byte 0 and clears nothing else. -/
theorem test_write_masked :
    (after (exec (.write 0 (List.replicate 64 9) 2 false) { run with mem := [(0, 3)] })).map (fun t => t.bytes 0 3) = some [3, 9, 0] := by
  decide +kernel

/-- R200: a LEDGER write changes its entry and the count of free frames. -/
theorem test_ledger_entry :
    (after (exec (.ledger 0 1 (some 2)) (run.setReg (bLedger 0) 4))).map (fun t => (t.ledgerOf 0 1, t.rfld (bLedger 0 + 8) 16 0)) =
      some (2, 3) := by decide +kernel

/-- R353: SIGNAL of 5 with nothing before it counts at once when its increment comes. -/
theorem test_signal :
    ((after (exec (.signal (ds 2 0xE1 [(0, 40, 9), (1, 0, 5)])) run)).bind (fun t => after (exec (.signalIncrement 0 1) t))).map
      (fun t => t.tackleOf 9) = some 5 := by decide +kernel

/-- R380: the lane that leaves three active lanes takes its stay down. -/
theorem test_lane_drop :
    (after (exec (.laneDrop 0 3) { run with stays := [(0, { up := true, lanes := 0x0F })] })).map (fun t => (t.stay 0).up) = some false ∧
    (after (exec (.laneDrop 0 3) { run with stays := [(0, { up := true, lanes := 0x1F })] })).map (fun t => ((t.stay 0).up, (t.stay 0).lanes)) =
      some (true, 0x17) := by decide +kernel

/-- R33, R328: HALT_REQ begins to save the running primary on its two cores. -/
theorem test_halt : (after (exec .haltReq run)).map (fun t => ((t.ctx 1).state, (t.ctx 1).pending)) = some (3, [0, 1]) := by decide +kernel

/-- R461: KEEPALIVE in turn is answered with its own SEQ; the same again gets the stored answer and executes nothing. -/
theorem test_keepalive :
    let s := talk .running 0
    (after (exec (.keepalive first) s)).map (fun t => (t.sessions.map (fun x => x.received), t.sent.map (fun y => (y.kind, y.code)))) =
      some ([1], [(.response, 6)]) ∧
    ((after (exec (.keepalive first) s)).bind (fun t => after (exec (.keepalive first) t))).map
      (fun t => (t.sessions.map (fun x => x.received), t.sent.length)) = some ([1], 2) := by decide +kernel

/-- R487: the first ledger entry has SEQ 1; the next carries on and names the digest of the one before. -/
theorem test_ledger_chain :
    let f : Flash := {}
    let a := f.stamp {}
    (a.seq = 1 ∧ a.prev = 0) ∧ ({ f with ledger := [a] }.stamp {}).seq = a.seq + 1 ∧
    ({ f with ledger := [a] }.stamp {}).prev = ofLeBytes ((ledgerDigest a).take 8) := by decide +kernel

/-- R372: a codeword of few symbols has no syndrome; with two symbols changed its locator has degree 2. -/
theorem test_fec :
    let w := Machine.Fec.encode [1023, 5, 700]
    Machine.Fec.syndromes w = List.replicate 16 0 ∧
    Machine.Fec.degree (Machine.Fec.locator (Machine.Fec.syndromes ((w.set 2 9).set 0 1))) = 2 := by decide +kernel

/-- R511, R532: what the Reset column gives for PLUMB_STATUS.GROUP, REEF_STATUS.SOURCE, LEVEL and CEILING. -/
theorem test_reset_views :
    fld (State.reset.readReg (bFault + 0x20)) 4 0 = 0 ∧ State.reset.readReg (bPower + 0x10) = 0x210 := by decide +kernel

/-- R89: two FP32 elements in a first entry that is the last: DATA, LAST, BLOCK_START, SCALE 0x7F. -/
theorem test_feed_entry : feedEntry .fp32 true true [{ code := 1 }, { code := 2 }] =
    1 + 2 * 2 ^ 32 + 2 ^ 69 + 2 ^ 70 + 0x7F * 2 ^ 72 := by decide

/-- R91, the example: E4M3 rows by MXFP4 columns run at two K positions a CCLK. R95, the example: BF16, K = 1,024. -/
theorem test_stream_cycles : streamCycles .e4m3 .mxE2m1 16 = 8 ∧ streamCycles .bf16 .bf16 1024 = 1024 ∧
    streamCycles .slice .slice 1152 = 16128 := by decide

/-- R114: one row 2 × 3 in a BF16 pass passes its column comparison; an accumulator off by one fails it, NaN skips it. -/
theorem test_column_check :
    let row := fun (acc : Machine.Num) => ({ a := [Num.ofInt 2], pre := none, acc := acc, expo := some 2 } : CheckRow)
    columnCheck [row (Num.ofInt 6)] [Num.ofInt 3] 1 4 = 0 ∧ columnCheck [row (Num.ofInt 7)] [Num.ofInt 3] 1 4 = 2 ∧
    columnCheck [row .nan] [Num.ofInt 3] 1 4 = 1 := by decide +kernel

/-- R109, R62: a preload of 3 under a row factor of 2 starts its cell at 6. -/
theorem test_row_scale : scaledPre (some [0x40000000]) 0 0x40400000 = 0x40C00000 := by decide +kernel

/-- R495: a port without L2 runs at 200 Gb/s, one without L1 stays down. -/
theorem test_bad_lanes :
    let s := fun (m : Nat) => { linked with ports := [(0, { badLanes := m })] }
    (s 4).linkSpeed 0 0 = 2 ∧ (s 4).portEnabled 0 = true ∧ (s 2).portEnabled 0 = false ∧ run.linkSpeed 0 1 = 1 := by
  decide +kernel

/-- R497: a run in MODE 0 holds the cores of its field alone. -/
theorem test_plumb_holds :
    let s := { run with plumb := some ⟨1, 0, 1, 0, 0, 0, []⟩ }
    s.plumbHolds 8 = true ∧ s.plumbHolds 7 = false ∧ s.plumbHolds 72 = false ∧ s.mayIssue 8 0 = false := by decide +kernel

/-- R482: a poisoned word answers its address with E_POISON. -/
theorem test_read_answer : readAnswer (some (1, true)) = (6, 0) ∧ readAnswer (some (1, false)) = (0, 1) ∧
    readAnswer none = (10, 0) := by decide

end Sys2Proof.Tests
end

section
/-! The marks of the order-free sum (R80), and block sums and start values (R68, R109). -/

namespace Sys2Proof.Machine

/-! ## Special marks (R80) -/

/-- R80: the mark of contributions among which a NaN, a +Inf or a −Inf occurs. -/
def specialMark (nan pinf ninf : Bool) : Nat :=
  if nan || (pinf && ninf) then 3 else if pinf then 1 else if ninf then 2 else 0

/-- The mark of one contribution. -/
theorem specialOf_eq_specialMark (v : Num) :
    specialOf v = specialMark v.isNan (v.isInf && !v.sign) (v.isInf && v.sign) := by
  cases v with
  | nan => rfl
  | inf s => cases s <;> rfl
  | fin s m e => rfl

/-- Joining two marks joins what occurs on each side. -/
theorem specialJoin_specialMark : ∀ a b c a' b' c' : Bool,
    specialJoin (specialMark a b c) (specialMark a' b' c') = specialMark (a || a') (b || b') (c || c') := by
  decide

/-- The mark of a list of contributions says what occurs among them. -/
theorem foldl_specialJoin_specialMark (vs : List Num) (a b c : Bool) :
    (vs.map specialOf).foldl specialJoin (specialMark a b c) =
      specialMark (a || vs.any Num.isNan) (b || vs.any (fun v => v.isInf && !v.sign))
        (c || vs.any (fun v => v.isInf && v.sign)) := by
  induction vs generalizing a b c with
  | nil => simp
  | cons v vs ih =>
    rw [List.map_cons, List.foldl_cons, specialOf_eq_specialMark, specialJoin_specialMark, ih]
    simp only [List.any_cons, Bool.or_assoc]

/-- Settles O54: the mark of the contributions is `specialMark` of what occurs among them, and `finalSum` answers by it. -/
theorem specialSumResult : Obligations.SpecialSumResult := by
  unfold Obligations.SpecialSumResult
  intro l vs emax sum mark nan pinf ninf
  have hmark : mark = specialMark nan pinf ninf := foldl_specialJoin_specialMark vs false false false
  clear_value mark nan pinf ninf
  subst hmark
  refine ⟨?_, ?_, ?_, ?_⟩
  · rintro (rfl | ⟨rfl, rfl⟩)
    · rfl
    · cases nan <;> rfl
  · rintro rfl rfl rfl
    rfl
  · rintro rfl rfl rfl
    rfl
  · rintro rfl rfl rfl
    rfl

/-! ## Block sums (R68) -/

/-- Among finite values there is no NaN. -/
theorem any_isNan_of_isFin {vs : List Num} (h : ∀ v ∈ vs, v.isFin = true) : vs.any Num.isNan = false :=
  List.any_eq_false.mpr fun v hv hnan => by
    cases v with
    | nan => cases h .nan hv
    | inf s => cases hnan
    | fin s m e => cases hnan

/-- Among finite values there is no infinity, of either sign. -/
theorem any_isInf_of_isFin {vs : List Num} (h : ∀ v ∈ vs, v.isFin = true) (q : Num → Bool) :
    vs.any (fun v => v.isInf && q v) = false :=
  List.any_eq_false.mpr fun v hv hinf => by
    cases v with
    | nan => cases hinf
    | inf s => cases h (.inf s) hv
    | fin s m e => cases hinf

/-- R68: a K block of finite products under no NaN scale, with the exact sum zero, folds as +0. -/
theorem blockStep_of_sum_zero {fa fb : Fmt} {ab : List (Elem × Elem)} (acc : Nat)
    (hblock : ∀ p ∈ ab, (fa.isMx = true → p.1.scale ≠ 0xFF) ∧ (fb.isMx = true → p.2.scale ≠ 0xFF) ∧
      ((fa.decode p.1.code).mul (fb.decode p.2.code)).isFin = true)
    (hsum : (ab.map (fun p => (((fa.decode p.1.code).mul (fb.decode p.2.code)).scale 48).toInt)).foldl (· + ·) 0 = 0) :
    ∃ e, blockStep fa fb acc ab = layout32.rne ((layout32.decode acc).add (.fin false 0 e)) := by
  have hprod : ∀ p ∈ ab, (if (fa.isMx && p.1.scale == 0xFF || fb.isMx && p.2.scale == 0xFF) = true then Num.nan
      else (fa.decode p.1.code).mul (fb.decode p.2.code)) = (fa.decode p.1.code).mul (fb.decode p.2.code) := by
    intro p hp
    obtain ⟨ha, hb, _⟩ := hblock p hp
    exact if_neg (by simpa using ⟨ha, hb⟩)
  have hfin : ∀ v ∈ ab.map (fun p => (fa.decode p.1.code).mul (fb.decode p.2.code)), v.isFin = true :=
    List.forall_mem_map.mpr fun p hp => (hblock p hp).2.2
  dsimp only [blockStep]
  rw [List.map_congr_left hprod, any_isNan_of_isFin hfin, any_isInf_of_isFin hfin, any_isInf_of_isFin hfin,
    List.foldl_map, ← List.foldl_map (g := (· + ·)), hsum]
  exact ⟨_, rfl⟩

/-! ## Start values (R68, R109) -/

/-- The bits 0 are +0 in FP32. -/
theorem layout32_decode_zero : layout32.decode 0 = .fin false 0 (-149) := rfl

/-- R68: without row scale a cell with no preloaded value starts at +0. -/
theorem Pass.start_of_no_rowScale {p : Pass} (hpre : p.pre = []) (hscale : p.rowScale = none) (cell : Nat) :
    p.start cell = 0 := by
  simp [Pass.start, hpre, hscale, kget]

/-- R109, R62: a preloaded +0 enters its bank as −0 under a negative row factor. -/
theorem scaledPre_zero_of_neg {fs : List Nat} {row m : Nat} {e : Int}
    (h : layout32.decode (fs.getD row 0) = .fin true m e) : scaledPre (some fs) row 0 = 0x80000000 := by
  rw [scaledPre, layout32_decode_zero, h, Num.mul, Nat.zero_mul]
  rfl

/-- A pass of one cell, with PRELOAD from tensor descriptor 0 and ROWSCALE (R93). -/
def rowScaledPass : Pass :=
  { seq := 1, ctx := 1, plan := 0, words := [0x6000000000, 0x0081000000000001, 0, 0, 0, 0, 0, 0], m := 1, n := 1, k := 1 }

/-- An image whose tensor descriptor 0 is one FP32 element at the bottom of the core store. -/
def oneElementImage : Image :=
  { sections := [(0x10, 0, [0, 64, 0, 0, 0, 0, 0, 0, 0, 0x0080000000000000, 0, 0, 0, 0, 1, 0, 0, 0, 4, 0, 0, 0, 0, 0])] }

/-- Core 0 with that pass queued, +0 in its core store and the row factor −1 at hand. -/
def preloadsZero : State :=
  { mode := .running, image := some oneElementImage
    cores := [(0, { passes := [rowScaledPass], rsFifo := [([0xBF800000], false)] })] }

/-- The pass with its preload shifted in: `Pass.pre` keeps no entry for a value of 0. -/
def preloadedZero : Pass := { rowScaledPass with phase := .shifted, rowScale := some [0xBF800000] }

/-- PRELOAD_SHIFT leaves `preloadedZero`. -/
theorem exec_preloadShift_preloadsZero :
    ∃ t, exec (.preloadShift 0) preloadsZero = .next t ∧ (t.core 0).passes = [preloadedZero] :=
  ⟨_, rfl, by decide +kernel⟩

/-- R109: +0 under the factor −1 starts the cell at −0. -/
theorem preloadedZero_start : preloadedZero.start 0 = 0x80000000 := by
  have hscaled : scaledPre (some [0xBF800000]) (0 / 64) 0 = 0x80000000 :=
    scaledPre_zero_of_neg (m := 2 ^ 23) (e := -23) (by decide)
  exact congrArg Int.ofNat hscaled

/-- Refutes O55: its second clause asks for a start at +0 of every pass with no entry in `Pass.pre`. `preloadedZero`, which
PRELOAD_SHIFT reaches (`exec_preloadShift_preloadsZero`), is one: it preloaded +0, whose product with the row factor −1 is −0 (R109).
The clause on block sums holds (`blockStep_of_sum_zero`), and so does the start at +0 without row scale. -/
theorem not_zeroBlockSum : ¬ Obligations.ZeroBlockSum := by
  unfold Obligations.ZeroBlockSum
  rintro ⟨_, hstart, _⟩
  have hzero : preloadedZero.start 0 = 0 := hstart preloadedZero 0 rfl
  rw [preloadedZero_start] at hzero
  exact absurd hzero (by decide)

end Sys2Proof.Machine
end
